-- ==== Sys2Proof/Word.lean ====
section
/-! DEFINITION. The byte and word types of the bus, the log and the report pages. -/

namespace Sys2Proof

/-- A byte on either bus, and the smallest addressable unit of the flash. -/
abbrev Byte := BitVec 8

/-- A 32-bit word (00, Conventions). -/
abbrev Word := BitVec 32

end Sys2Proof
end

