-- ==== Sys2Proof/Config.lean ====
section
/-! DEFINITION. The free values: what the manual leaves open.
Each is an opaque constant, so nothing can be proved of the value it takes. -/

namespace Sys2Proof

/-- Byte number `i` of the `n`-th open transfer: the data of a READ sent while the flash is busy (R1) and the
contents of flash bytes whose program or erase failed (log entries 7 and 8). -/
opaque Config.freeByte (n i : Nat) : Byte

/-- Bit number `i` of the `n`-th open event: the write-enable latch after a PASS command (log entry 9) and what is
left at a position of a half whose erase was cut (R141, log entry 19). -/
opaque Config.freeBit (n i : Nat) : Bool

/-- The words 0 to 2 of a journal record with a sequence number and a payload (9.3 keeps their layout to the part). -/
opaque Config.recordWords {α : Type} (seq : Word) (payload : α) : Word × Word × Word

/-- The content words of a configuration row (9.2 gives their layout nowhere): the first, and those after it. -/
opaque Config.rowWords {α : Type} (content : α) : Word × List Word

end Sys2Proof
end

