-- ==== Sys2Proof/Syntax.lean ====
section
/-! DEFINITION. The commands of the part: one constructor of `Instr` for each row of spec/opcode_table.json. -/

namespace Sys2Proof

/-- How many data lanes a phase of a transaction uses (1.1). -/
inductive LaneCount where
  | one | two | four
  deriving DecidableEq, Repr

/-- The lane use of a transaction, phase by phase (1.1, R29). -/
structure Lanes where
  command : LaneCount
  address : LaneCount
  data    : LaneCount
  deriving DecidableEq, Repr

/-- What the host clocks into the part in one transaction (1.1, R2): the command byte, the address bytes that were
complete, the clock periods of the dummy phase, the lane use, and the bytes the host drove in the data phase. -/
structure HostTxn where
  opcode    : Byte
  addrBytes : List Byte
  dummy     : Nat
  lanes     : Lanes
  data      : List Byte
  deriving DecidableEq, Repr

/-- The two halves of the journal (9.1). -/
inductive Half where
  | h0 | h1
  deriving DecidableEq, Repr

/-- Where HCS_N fell in the two transactions of a held erase's forwarding (R20): in neither, in the WRITE_ENABLE, or in
the erase (log entry 11). -/
inductive SendCut where
  | whole | inEnable | inErase
  deriving DecidableEq, Repr

/-- A flash byte that has changed by a path outside the part (chapter 7) since the last command: address and new
content (log entry 6). -/
abbrev Drift := List (Nat × Byte)

/-- The commands. `answers` are bytes as the flash gives them where R1 leaves the choice to the flash; `elapsed` is
the time in ms that has passed on the part's timebase (log entry 4); `cut` says that HCS_N fell before the part's
own send had ended (R23, log entry 11), which the port disregards while the part drives HRST_N low (R2); `rowBlank` says
that a row write cut by the reset had erased its place and programmed nothing (R141). -/
inductive Instr where
  | read (tx : HostTxn) (len : Nat) (drift : Drift)
  | statusRead (tx : HostTxn) (answers : List Byte)
  | program (tx : HostTxn)
  | eraseSector (tx : HostTxn) (elapsed : Nat) (cut : Bool)
  | eraseLarge (tx : HostTxn) (elapsed : Nat) (cut : Bool)
  | eraseChip (tx : HostTxn)
  | writeEnable (tx : HostTxn)
  | writeDisable (tx : HostTxn)
  | pass (tx : HostTxn) (answers : List Byte)
  | block (tx : HostTxn) (len : Nat)
  | transactionDropped (tx : HostTxn)
  | activate (serial slot : Word)
  | confirm (serial slot : Word)
  | abandon (serial slot : Word)
  | discard (serial slot : Word)
  | clearStaging (serial : Word)
  | setSlotCode (serial code : Word)
  | logFree (serial n : Word)
  | ackAlert (serial : Word)
  | reload (serial : Word)
  | keyWrite (serial slot value : Word)
  | keyRevoke (serial slot : Word)
  | targetWrite (serial target cls flags : Word)
  | configWrite (serial item index value : Word)
  | lock (serial : Word)
  | factoryClear (serial : Word)
  | requestNotCarried (image : List Byte)
  | programEnd (answer : Byte)
  | eraseEnd (answer : Byte)
  | statusPoll (answers : List Byte)
  | pendingWriteDisable (cut : Bool)
  | guardRelease (elapsed : Nat)
  | heldEraseForward (elapsed : Nat) (cut : SendCut)
  | verifyRead (bytes : Nat) (drift : Drift)
  | admissionVerdict (drift : Drift)
  | reloadVerdict (drift : Drift)
  | chunkVerdict (drift : Drift)
  | patrolTick (elapsed : Nat)
  | patrolVerdict (drift : Drift)
  | hostResetSeen
  | bootScanManifestVerdict (drift : Drift)
  | bootScanChunkVerdict (drift : Drift)
  | hrstRelease (elapsed : Nat)
  | recordWriteBegin
  | recordWriteEnd
  | rowWriteBegin
  | rowWriteEnd
  | compactionStart
  | snapshotRecordWrite
  | halfEraseEnd (half : Half)
  | powerOn (rowBlank : Bool)
  | resetInAssert (rowBlank : Bool)
  | startup
  | flashIdleWaitEnd (answers : List Byte)
  | powerLoss (rowBlank : Bool)
  | hrstNSeenHigh
  deriving DecidableEq, Repr

end Sys2Proof
end

