-- ==== Sys2Proof/Decode.lean ====
section
/-! DEFINITION. The command a table word spells. No row of spec/opcode_table.json gives bits (every row's fields are
empty), so no word spells a command. -/

namespace Sys2Proof

/-- The command that the bits of `w` spell: none, because the table gives no row bits. -/
def decodeTableWord (_nbits _w : Nat) : Option Instr := none

end Sys2Proof
end

