-- ==== Sys2Proof/Machine/Defaults.lean ====
section
/-! DEFINITION. The configuration the part holds in force, its default tables (R6, R27, R166) and the conditions under
which a stored row is loaded (R5, R26, R142). -/

namespace Sys2Proof.Machine

open Sys2Proof

/-- The transaction classes (1.2). -/
inductive TxClass where
  | read | program | eraseSector | eraseLarge | eraseChip
  | writeEnable | writeDisable | statusRead | pass | block
  deriving DecidableEq, Repr

/-- The region kinds (2.1). -/
inductive RegionKind where
  | liveOpen | liveProtected | bootWindow | staging | control
  deriving DecidableEq, Repr

/-- The scan scope item (R118, R166). -/
inductive ScanScope where
  | none | bootHeader | bootFull
  deriving DecidableEq, Repr

/-- The alert release mode (R177). -/
inductive AlertMode where
  | onRead | onAck
  deriving DecidableEq, Repr

/-- The geometry row's items: capacity in MiB, address bytes, busy-bit and fail-bit position (R166). -/
structure Geometry where
  capacity  : Nat
  addrBytes : Nat
  busyBit   : Nat
  failBit   : Nat
  deriving DecidableEq, Repr

/-- One entry of the command profile (1.2). -/
structure ProfileEntry where
  opcode  : Byte
  cls     : TxClass
  addrLen : Nat
  dummyLen : Nat
  deriving DecidableEq, Repr

/-- One entry of the partition table (2.1). -/
structure Region where
  kind   : RegionKind
  start  : Nat
  length : Nat
  deriving DecidableEq, Repr

/-- The settings row's items (R166). -/
structure Settings where
  spareCount   : Nat
  egMax        : Nat
  egWindow     : Nat
  wearGap      : Nat
  tMax         : Nat
  patrolPeriod : Nat
  scanScope    : ScanScope
  alertMode    : AlertMode
  alertMask    : BitVec 16
  deriving DecidableEq, Repr

/-- The configuration in force until the next start-up (R183): the loaded rows and the staging numbers of R40. -/
structure InForce where
  geometry  : Geometry
  profile   : List ProfileEntry
  partition : List Region
  settings  : Settings
  sPhys     : Nat
  sSp       : Nat
  deriving DecidableEq, Repr

/-- The configured capacity C in sectors (R26). -/
def Geometry.sectors (g : Geometry) : Nat := g.capacity * 256

/-- R166, geometry defaults. -/
def defaultGeometry : Geometry := { capacity := 16, addrBytes := 3, busyBit := 0, failBit := 5 }

/-- R166, settings defaults. -/
def defaultSettings : Settings :=
  { spareCount := 32, egMax := 8, egWindow := 1000, wearGap := 256, tMax := 3, patrolPeriod := 5,
    scanScope := .bootHeader, alertMode := .onRead, alertMask := 0x70EA#16 }

/-- The table of R6. -/
def factoryProfile : List ProfileEntry :=
  [ ⟨0x05#8, .statusRead, 0, 0⟩, ⟨0x06#8, .writeEnable, 0, 0⟩, ⟨0x04#8, .writeDisable, 0, 0⟩,
    ⟨0x03#8, .read, 3, 0⟩, ⟨0x0B#8, .read, 3, 8⟩, ⟨0x6B#8, .read, 3, 8⟩, ⟨0xEB#8, .read, 3, 6⟩,
    ⟨0x02#8, .program, 3, 0⟩, ⟨0x32#8, .program, 3, 0⟩, ⟨0x20#8, .eraseSector, 3, 0⟩,
    ⟨0xD8#8, .eraseLarge, 3, 0⟩, ⟨0xC7#8, .eraseChip, 0, 0⟩, ⟨0x9F#8, .pass, 0, 0⟩,
    ⟨0x13#8, .read, 4, 0⟩, ⟨0x12#8, .program, 4, 0⟩, ⟨0x21#8, .eraseSector, 4, 0⟩ ]

/-- The default profile as it is loaded: with 3 address bytes, entries 13 to 15 are BLOCK with their address lengths
unchanged (R6). -/
def defaultProfile (g : Geometry) : List ProfileEntry :=
  if g.addrBytes = 3 then
    factoryProfile.take 13 ++ (factoryProfile.drop 13).map fun e => { e with cls := .block }
  else factoryProfile

/-- The default partition table for a capacity of `c` sectors (R27). The kind of the unused entries 6 and 7, which R27 does
not give, is LIVE_OPEN (DESIGN CHOICE, log entry 40). -/
def defaultPartition (c : Nat) : List Region :=
  [ ⟨.liveProtected, 0, 64⟩, ⟨.bootWindow, 64, 448⟩, ⟨.liveOpen, 512, 248⟩, ⟨.control, 760, 8⟩,
    ⟨.staging, 768, min (c - 768) 8192⟩, ⟨.liveOpen, 8960, if c = 16384 then c - 8960 else 0⟩,
    ⟨.liveOpen, 0, 0⟩, ⟨.liveOpen, 0, 0⟩ ]

/-- An entry of length 0 is unused (2.1). -/
def Region.used (r : Region) : Bool := r.length != 0

/-- A used entry covers its start sector up to, but not including, start + length (2.1). -/
def Region.covers (r : Region) (sector : Nat) : Bool :=
  r.used && decide (r.start ≤ sector) && decide (sector < r.start + r.length)

def Region.disjoint (a b : Region) : Bool :=
  decide (a.start + a.length ≤ b.start) || decide (b.start + b.length ≤ a.start)

/-- No two of the entries share a sector. -/
def regionsDisjoint : List Region → Bool
  | [] => true
  | r :: rs => rs.all r.disjoint && regionsDisjoint rs

/-- The address-length and dummy conditions of R5 on one entry. -/
def ProfileEntry.validFor (g : Geometry) (e : ProfileEntry) : Bool :=
  match e.cls with
  | .read | .program | .eraseSector | .eraseLarge =>
      (e.addrLen == 3 || e.addrLen == 4) && !(e.addrLen == 4 && g.addrBytes == 3)
  | .statusRead | .writeEnable | .writeDisable | .eraseChip => e.addrLen == 0 && e.dummyLen == 0
  | .pass => !(e.addrLen == 4 && g.addrBytes == 3)
  | .block => true

/-- R5: the profile's conditions, on every entry, one whose opcode a lower entry holds included (DESIGN CHOICE, log entry
39). -/
def profileValid (g : Geometry) (p : List ProfileEntry) : Bool :=
  ([TxClass.read, .statusRead, .writeEnable, .writeDisable].all fun c => p.any fun e => e.cls == c) &&
  p.all (ProfileEntry.validFor g)

/-- R26: the partition table's conditions for a capacity of `c` sectors. -/
def partitionValid (c : Nat) (p : List Region) : Bool :=
  let used := p.filter Region.used
  let of (k : RegionKind) := used.filter fun r => r.kind == k
  ((of .staging).length == 1 && (of .staging).all fun r => decide (64 ≤ r.length) && decide (r.length ≤ 8192)) &&
  ((of .control).length == 1 && (of .control).all fun r => r.length == 8) &&
  decide ((of .bootWindow).length ≤ 1) &&
  (used.all fun r => decide (r.start + r.length ≤ c)) &&
  regionsDisjoint used

/-- R142: the geometry row's own conditions. -/
def geometryValid (g : Geometry) : Bool :=
  !(decide (16 < g.capacity) && g.addrBytes == 3) && g.busyBit != g.failBit

/-- The used entry of a kind that the part has one of. -/
def regionOf (p : List Region) (k : RegionKind) : Option Region :=
  p.find? fun r => r.used && r.kind == k

/-- The first sector of the staging entry (2.4). -/
def InForce.stagingStart (c : InForce) : Nat := ((regionOf c.partition .staging).map Region.start).getD 0

/-- S_LOG = S_PHYS − S_SP (R40). -/
def InForce.sLog (c : InForce) : Nat := c.sPhys - c.sSp

/-- R40: the staging numbers that follow from a partition table and a spare count. -/
def stagingNumbers (p : List Region) (spareCount : Nat) : Nat × Nat :=
  let sPhys := ((regionOf p .staging).map Region.length).getD 0
  (sPhys, min spareCount (sPhys / 4))

/-- The configuration of R167: every row blank. -/
def factoryConfig : InForce :=
  let p := defaultPartition defaultGeometry.sectors
  { geometry := defaultGeometry, profile := defaultProfile defaultGeometry, partition := p,
    settings := defaultSettings,
    sPhys := (stagingNumbers p defaultSettings.spareCount).1,
    sSp := (stagingNumbers p defaultSettings.spareCount).2 }

end Sys2Proof.Machine
end

