-- ==== Sys2Proof/Machine/Fold.lean ====
section
/-! DEFINITION. The fold (R84) and the byte order of words (00, Conventions). -/

namespace Sys2Proof.Machine

open Sys2Proof

/-- The modulus P (R84). -/
def foldModulus : Nat := 4294967291

/-- Step 2 of R84 for one word. -/
def foldStep (base acc word : Nat) : Nat := (acc * base + word % foldModulus) % foldModulus

/-- Step 3 of R84, with the word count `n`. -/
def foldFinish (base acc n : Nat) : Nat := (acc * base + n) % foldModulus

/-- The fold of a list of words (R84). -/
def fold (base seed : Nat) (words : List Nat) : Nat :=
  foldFinish base (words.foldl (foldStep base) (seed % foldModulus)) words.length

/-- The base of the checks made on records held on the die, with seed 0 (R89). -/
def recordBase : Nat := 65537

/-- A word from four bytes in address order, the first the least significant. -/
def wordOfBytes (b0 b1 b2 b3 : Byte) : Word := b3 ++ b2 ++ b1 ++ b0

/-- The four bytes of a word in address order. -/
def bytesOfWord (w : Word) : List Byte :=
  [w.extractLsb' 0 8, w.extractLsb' 8 8, w.extractLsb' 16 8, w.extractLsb' 24 8]

/-- The number that bytes sent most significant first spell (R2). -/
def beNat (bs : List Byte) : Nat := bs.foldl (fun n b => n * 256 + b.toNat) 0

/-- The word of a number below 2^32. -/
def natWord (n : Nat) : Word := BitVec.ofNat 32 n

/-- The check word of words held on the die: their fold with base 65537 and seed 0 (R89). -/
def checkWord (words : List Word) : Word := natWord (fold recordBase 0 (words.map BitVec.toNat))

/-- The word at a byte offset of a page image; a byte beyond the image reads as FFh. -/
def wordAt (image : List Byte) (off : Nat) : Word :=
  wordOfBytes (image.getD off 0xFF#8) (image.getD (off + 1) 0xFF#8) (image.getD (off + 2) 0xFF#8)
    (image.getD (off + 3) 0xFF#8)

/-- A 256-byte page that begins with the given bytes and reads FFh after them (R168). -/
def padPage (bs : List Byte) : List Byte := bs ++ List.replicate (256 - bs.length) 0xFF#8

end Sys2Proof.Machine
end

