-- ==== Sys2Proof/Machine/State.lean ====
section
/-! DEFINITION. The state of the part, its NVM and the attached flash, as plain data, and the state right after a part
reset at factory state. -/

namespace Sys2Proof.Machine

open Sys2Proof

/-! ### Outcome reasons -/

/-- The faults of the part: the spec gives none that stops it, so there is no constructor. -/
inductive Fault where
  deriving DecidableEq, Repr

/-- The refusals of the model. -/
inductive Refusal where
  /-- Raised by `exec` alone, for a command that has no meaning yet: the model says nothing of it (safe). -/
  | notModelled (mnemonic : String)
  deriving DecidableEq, Repr

/-! ### Slots and chunks (3.2, 6.1) -/

/-- The states of a slot (3.2). -/
inductive SlotState where
  | empty | header | rejected | filling | sealed | trial | active | fallback | failed | outdated
  deriving DecidableEq, Repr

/-- The states of a chunk (R91). -/
inductive ChunkState where
  | empty | partial_ | complete | verified | mismatch | stale
  deriving DecidableEq, Repr

/-- The origin of a chunk's contents (R91). -/
inductive Origin where
  | written | recovered
  deriving DecidableEq, Repr

/-- A chunk record (R91). `hostErased` says that the host's erase of its sector has been taken since start-up, which a
passed reload asks (R81, R99). -/
structure Chunk where
  state      : ChunkState
  mask       : BitVec 16
  origin     : Origin
  queued     : Bool
  hostErased : Bool := false
  deriving DecidableEq, Repr

/-- The manifest summary of a slot record (R76). -/
structure Summary where
  target   : Nat
  version  : Nat
  imageLen : Nat
  chunks   : Nat
  base     : Nat
  keySlot  : Nat
  deriving DecidableEq, Repr

/-- The log reason codes 0 to 24 (11.7). -/
inductive Reason where
  | protectedRegion | slotState | pageWritten | staleSector | outsideImage | largeErase | chipErase | eraseHeld
  | controlPage | slack | badFormat | unknownTarget | wrongClass | keyRefused | tagMismatch | badBase | tooLarge
  | rollback | programFail | eraseFail | strikes | fold | patrol | scan | bootsSpent
  deriving DecidableEq, Repr

/-- A slot record (3.2), with its journaled state (R144). -/
structure SlotRec where
  state      : SlotState
  journaled  : SlotState
  decayed    : Bool
  reload     : Bool
  summary    : Option Summary
  reason     : Option Reason
  headerMask : BitVec 16
  captured   : Option (Word × Word)
  chunks     : List Chunk
  deriving DecidableEq, Repr

/-- A slot with no image (3.2). -/
def SlotRec.blank : SlotRec :=
  { state := .empty, journaled := .empty, decayed := false, reload := false, summary := .none, reason := .none,
    headerMask := 0, captured := .none, chunks := [] }

/-! ### Targets and keys (8.1, 10.1) -/

/-- The static part of a target record (8.1). -/
structure TargetStatic where
  inUse      : Bool
  cls        : Nat
  keyMask    : BitVec 8
  bootMapped : Bool
  deriving DecidableEq, Repr

/-- R142, defaults of a target row. -/
def TargetStatic.blank : TargetStatic := { inUse := false, cls := 0, keyMask := 0, bootMapped := false }

/-- The dynamic part of a target record (8.1). -/
structure TargetDyn where
  floor     : Nat
  active    : Option Nat
  trial     : Option Nat
  fallback  : Option Nat
  booted    : Option Nat
  bootsLeft : Nat
  recovery  : Bool
  deriving DecidableEq, Repr

/-- A target with no TARGET record (R122). -/
def TargetDyn.blank : TargetDyn :=
  { floor := 0, active := .none, trial := .none, fallback := .none, booted := .none, bootsLeft := 0,
    recovery := false }

/-- A key slot (10.1). -/
inductive KeySlot where
  | empty
  | active (value : Nat)
  | revoked (value : Nat)
  deriving DecidableEq, Repr

/-! ### Physical sectors (3.5) -/

/-- The persistent part of a health record (3.5). -/
structure Health where
  wear    : Nat
  suspect : Bool
  retired : Bool
  deriving DecidableEq, Repr

/-- A sector with no record (R49). -/
def Health.blank : Health := { wear := 0, suspect := false, retired := false }

/-! ### Tracker and held erase (1.5, 1.6, 3.7) -/

/-- The four cases of the erase decision (R54). -/
inductive DecisionCase where
  | retire | degrade | swap | inPlace
  deriving DecidableEq, Repr

/-- An erase decision (R54): the logical sector, the physical sector it leaves, the sector the erase is sent to, and
the count of the wear record it names, if it names one (R60). -/
structure Decision where
  case    : DecisionCase
  logical : Nat
  source  : Nat
  target  : Nat
  wear    : Option Nat
  deriving DecidableEq, Repr

/-- The operation record (1.5), with what a held erase is sent with (R20): the opcode, and for a staging address the
logical sector and the physical sector. -/
structure OpRecord where
  cls     : TxClass
  opcode  : Byte
  address : Nat
  region  : RegionKind
  sectors : Option (Nat × Nat)
  deriving DecidableEq, Repr

/-- The open conditions of a hold (R19), and the judgement recorded at the take. -/
structure Hold where
  recordOpen : Bool
  guardOpen  : Bool
  decision   : Option Decision
  deriving DecidableEq, Repr

/-- The flash operation tracker (1.5). -/
inductive Tracker where
  | idle
  | programInFlight (op : OpRecord)
  | eraseInFlight (op : OpRecord)
  | eraseHeld (op : OpRecord) (hold : Hold)
  deriving DecidableEq, Repr

/-! ### Verify engine (5.2, 6.5, 7.2) -/

/-- The kinds of the verify engine's jobs (6.5). -/
inductive JobKind where
  | admission | reload | chunk | patrol | scanManifest | scanChunk
  deriving DecidableEq, Repr

/-- Where a job stands: the first pass of a manifest job, the folded words (the second pass, or a chunk's words), or a
second pass that had no key value to run with (R73). -/
inductive Pass where
  | first | fold | noKey
  deriving DecidableEq, Repr

/-- The fold unit with the job in flight (R86). `head` holds the words of the first pass; `count` is the number of words
the pass reads and `index` the next of them; `sector` and `offset` say where the job's first word lies. -/
structure Job where
  kind   : JobKind
  slot   : Nat
  chunk  : Nat
  pass   : Pass
  head   : List Word
  base   : Nat
  seed   : Nat
  count  : Nat
  index  : Nat
  acc    : Nat
  sector : Nat
  offset : Nat
  deriving DecidableEq, Repr

/-- The kinds of a verify queue entry (R103). -/
inductive EntryKind where
  | chunk | patrol
  deriving DecidableEq, Repr

/-- An entry of the verify queue (R103), and the job put aside (R108). -/
structure Entry where
  kind  : EntryKind
  slot  : Nat
  chunk : Nat
  deriving DecidableEq, Repr

/-- A job of the manifest job list (R72). -/
structure ManifestJob where
  slot   : Nat
  reload : Bool
  deriving DecidableEq, Repr

/-- The role in which the boot event named a candidate (R134 to R137). -/
inductive Role where
  | trial | active | fallback
  deriving DecidableEq, Repr

/-- The scan cursor (R119): the candidate, its role, the chunk under the cursor (0 in the manifest phase), and whether
the chunk walk follows whatever the scan wish holds (R118). -/
structure Scan where
  slot  : Nat
  role  : Role
  chunk : Nat
  full  : Bool
  deriving DecidableEq, Repr

/-- A boot event in progress (8.5): whether it is the start-up's, the boot-mapped target and its dynamic fields at the
start, what the event has done to slots so far, and whether a slot (or none) has been chosen. -/
structure BootEvent where
  startup     : Bool
  target      : Option Nat
  before      : TargetDyn
  failedTrial : Option Nat
  decayed     : List Nat
  settled     : Bool
  deriving DecidableEq, Repr

/-! ### Record store (chapter 9) -/

/-- What a SLOT record carries (9.3). -/
structure SlotImage where
  state   : SlotState
  decayed : Bool
  summary : Option Summary
  deriving DecidableEq, Repr

/-- The payload of a journal record (9.3). -/
inductive Payload where
  | snapBegin (start sPhys sSp : Nat)
  | snapEnd (count : Nat)
  | map (logical physical : Nat)
  | mapGroup (logical : Nat) (physical : List Nat)
  | health (physical : Nat) (h : Health)
  | healthGroup (physical : Nat) (hs : List Health)
  | slot (i : Nat) (image : SlotImage)
  | target (t : Nat) (dyn : TargetDyn)
  | slotCode (code : Nat)
  deriving DecidableEq, Repr

/-- R89, R90: the check word of a journal record, the fold of its words 0 to 2, whose layout is free (log entry 18). -/
def recordCheck (seq : Word) (payload : Payload) : Word :=
  let w := Config.recordWords seq payload
  checkWord [w.1, w.2.1, w.2.2]

/-- A journal record (9.3): its sequence number, its kind with subject and payload, and its word 3, the check that the
store gives it when it writes it (R90). -/
structure Record where
  seq     : Word
  payload : Payload
  check   : Word := recordCheck seq payload
  deriving DecidableEq, Repr

/-- R90: a record folded again gives its word 3. -/
def Record.passes (r : Record) : Bool := r.check == recordCheck r.seq r.payload

/-- A record position: blank, holding the mixture of bytes that a cut left, whose check fails (R141), or holding a
record. -/
inductive RecCell where
  | blank
  | torn
  | record (r : Record)
  deriving DecidableEq, Repr

/-- The conditions of a journal half (9.1). -/
inductive HalfCond where
  | current | blank | erasing | superseded
  deriving DecidableEq, Repr

/-- A journal half: its positions from 0 (those beyond the list are blank), its condition, and whether a reset has cut its
erase, so that it is to be erased again before any record is written into it (R141, log entry 45). -/
structure HalfState where
  cells    : List RecCell
  cond     : HalfCond
  eraseCut : Bool := false
  deriving DecidableEq, Repr

/-- Who waits for an offered record (R145): nobody, the request, the boot event, or the held erase for its MAP record
or its wear record. -/
inductive Owner where
  | nobody | request | boot | holdMap | holdWear
  deriving DecidableEq, Repr

/-- A record offered to the append queue (R145). -/
structure Offer where
  payload : Payload
  owner   : Owner
  deriving DecidableEq, Repr

/-- R89, R90: the check word of a row, the fold of its content words, whose layout is free (log entry 18). -/
def rowCheck {α : Type} (content : α) : Word :=
  let w := Config.rowWords content
  checkWord (w.1 :: w.2)

/-- The place of a configuration row (9.2): blank, holding the mixture of bytes that a cut left, whose check fails (R141),
or holding content and a check word, the one the store gives it when it writes the row (R90). -/
inductive Row (α : Type) where
  | blank
  | garbled
  | stored (content : α) (check : Word := rowCheck content)
  deriving DecidableEq, Repr

/-- The content of the key row (9.2). -/
structure KeyRow where
  keys   : List KeySlot
  locked : Bool
  deriving DecidableEq, Repr

/-- A row write with the content it programs (R143). -/
inductive RowWrite where
  | geometry (c : Geometry)
  | profile (c : List ProfileEntry)
  | partition (c : List Region)
  | settings (c : Settings)
  | key (c : KeyRow)
  | target (t : Nat) (c : TargetStatic)
  deriving DecidableEq, Repr

/-- The write port's operation in progress (R141): a record from the append queue, a snapshot's record, or a row. -/
inductive PortOp where
  | record (half : Half) (pos : Nat) (r : Record)
  | snapshot (half : Half) (pos : Nat) (r : Record)
  | row (w : RowWrite)
  deriving DecidableEq, Repr

/-- The copy a compaction takes when it starts (R149). -/
structure SnapCopy where
  code    : Nat
  slots   : List SlotImage
  targets : List TargetDyn
  deriving DecidableEq, Repr

/-- A compaction: none, due, or in progress with the receiving half, the copy and the number of snapshot records
written (R148, R149). -/
inductive Compaction where
  | none
  | due
  | running (into : Half) (copy : SnapCopy) (done : Nat)
  deriving DecidableEq, Repr

/-- The record store (chapter 9). The rows and the cells of the two halves are the on-die memory; the rest is lost at a
part reset. `startHold` says that the records of start-up stand behind a compaction that start-up made due (R156);
`replayed` is the state that replay gave from a half it closed, which the snapshot is to carry (R154). -/
structure Store where
  geometryRow  : Row Geometry
  profileRow   : Row (List ProfileEntry)
  partitionRow : Row (List Region)
  settingsRow  : Row Settings
  keyRow       : Row KeyRow
  targetRows   : List (Row TargetStatic)
  identityRow  : Row (List Byte)
  half0        : HalfState
  half1        : HalfState
  current      : Option Half
  closed       : Bool
  nextFree     : Nat
  nextSeq      : Word
  queue        : List Offer
  waiting      : List Offer
  port         : Option PortOp
  rowWait      : Option RowWrite
  compaction   : Compaction
  startHold    : Bool
  replayed     : Option SnapCopy
  deriving DecidableEq, Repr

/-! ### Control window (chapter 11) -/

/-- The log kinds 0 to 15 (R175). -/
inductive LogKind where
  | admitted | rejected | sealed | chunkMismatch | writeRefused | sectorSuspect | sectorRetired | poolEmpty
  | trialStarted | trialBooted | confirmed | abandoned | trialFailed | imageDecayed | recoveryBoot | outdated
  deriving DecidableEq, Repr

/-- A verdict log entry (R174). -/
structure LogEntry where
  seq     : Word
  kind    : LogKind
  reason  : Option Reason
  slot    : Option Nat
  target  : Option Nat
  chunk   : Option Nat
  value   : Option Nat
  address : Option Nat
  deriving DecidableEq, Repr

/-- The outcomes of the last request (R172). -/
inductive ReqOutcome where
  | none | done | pending | refused
  deriving DecidableEq, Repr

/-- The request reasons (11.7); BUSY has none. -/
inductive ReqReason where
  | badRecord | unknownCode | badArg | wrongState | locked | notBooted | trialOpen | inUse | keyRevoked | freeTooMany
  deriving DecidableEq, Repr

/-! ### The attached flash and the ports -/

/-- A program or erase in progress at the flash (R1): the page's new bytes by address, or a range that becomes FFh. -/
inductive FlashOp where
  | program (bytes : List (Nat × Byte))
  | erase (start len : Nat)
  deriving DecidableEq, Repr

/-- The attached flash as R1 gives it (log entry 5). `cells` is canonical: addresses strictly rising, no entry FFh. -/
structure Flash where
  cells   : List (Nat × Byte)
  latch   : Bool
  op      : Option FlashOp
  ignored : Bool
  deriving DecidableEq, Repr

/-- One transaction on the memory side: what the part sent, with the number of its address bytes, and how many data bytes
it took back. -/
structure MemTxn where
  opcode  : Byte
  address : Option Nat
  addrLen : Nat
  dummy   : Nat
  lanes   : Lanes
  data    : List Byte
  readLen : Nat
  cut     : Bool
  deriving DecidableEq, Repr

/-- Where the part stands between a reset and its running state (12.1, 12.2). -/
inductive Phase where
  | unpowered | inReset | idleWait | running
  deriving DecidableEq, Repr

/-! ### The whole state -/

/-- The state of the part. The line ALERT_N follows `alertPending` (`State.alertDriven`). -/
structure State where
  phase           : Phase
  clock           : Nat
  hrstDriven      : Bool
  hrstSeenHigh    : Bool
  portOpen        : Bool
  cfg             : InForce
  configDefaulted : Bool
  configChanged   : Bool
  keys            : List KeySlot
  locked          : Bool
  statics         : List TargetStatic
  identity        : List Byte
  tracker         : Tracker
  echo            : Bool
  pendingWD       : Bool
  guard           : List Nat
  map             : List (Nat × Nat)
  pool            : List Nat
  health          : List (Nat × Health)
  strikes         : List (Nat × Nat)
  clean           : List Nat
  code            : Nat
  slots           : List SlotRec
  job             : Option Job
  aside           : Option Entry
  manifestJobs    : List ManifestJob
  verifyQueue     : List Entry
  patrolSlot      : Nat
  patrolChunk     : Nat
  nextTick        : Option Nat
  scan            : Option Scan
  targets         : List TargetDyn
  boot            : Option BootEvent
  store           : Store
  reqPage         : List Byte
  lastSerial      : Option Word
  lastCode        : Option Word
  lastOutcome     : ReqOutcome
  lastReason      : Option ReqReason
  lastBusy        : Option Word
  snapshots       : List (Nat × List Byte)
  log             : List LogEntry
  overrun         : Bool
  nextLogSeq      : Word
  alertPending    : Bool
  flash           : Flash
  freeCount       : Nat
  hostOut         : List Byte
  memOut          : List MemTxn
  pending         : List Instr
  deriving DecidableEq, Repr

/-- The on-die memory at factory state: every row blank but the identity row (R167), both halves blank (R155). The
serial is sixteen zero bytes (DESIGN CHOICE, log entry 24, unsafe). -/
def Store.factory : Store :=
  { geometryRow := .blank, profileRow := .blank, partitionRow := .blank, settingsRow := .blank, keyRow := .blank,
    targetRows := List.replicate 16 .blank, identityRow := .stored (List.replicate 16 0),
    half0 := { cells := [], cond := .blank }, half1 := { cells := [], cond := .blank },
    current := none, closed := false, nextFree := 0, nextSeq := 0, queue := [], waiting := [], port := none,
    rowWait := none, compaction := .none, startHold := false, replayed := none }

/-- The flash before anything was written: all FFh, latch clear, idle (DESIGN CHOICE, log entry 5, unsafe). -/
def Flash.blank : Flash := { cells := [], latch := false, op := none, ignored := false }

/-- The part right after a part reset, with factory NVM and a blank flash: the volatile state of the table in 12.2, the
host held in reset and the port closed (R181, R183). What STARTUP and replay set anew holds the factory values until
then (DESIGN CHOICE, log entry 23, unsafe). -/
def State.reset : State :=
  { phase := .inReset, clock := 0, hrstDriven := true, hrstSeenHigh := false, portOpen := false,
    cfg := factoryConfig, configDefaulted := false, configChanged := false,
    keys := List.replicate 8 .empty, locked := false, statics := List.replicate 16 TargetStatic.blank,
    identity := List.replicate 256 0xFF#8,
    tracker := .idle, echo := false, pendingWD := false, guard := [],
    map := [], pool := List.range' factoryConfig.sLog factoryConfig.sSp, health := [], strikes := [], clean := [],
    code := 0, slots := [SlotRec.blank],
    job := none, aside := none, manifestJobs := [], verifyQueue := [], patrolSlot := 0, patrolChunk := 1,
    nextTick := none, scan := none, targets := List.replicate 16 TargetDyn.blank, boot := none,
    store := Store.factory,
    reqPage := List.replicate 256 0xFF#8, lastSerial := none, lastCode := none, lastOutcome := .none,
    lastReason := none, lastBusy := none, snapshots := [], log := [], overrun := false, nextLogSeq := 0,
    alertPending := false,
    flash := Flash.blank, freeCount := 0, hostOut := [], memOut := [], pending := [] }

end Sys2Proof.Machine
end

