-- ==== Sys2Proof/Machine/Ops.lean ====
section
/-! DEFINITION. The shared operations on the state: sparse tables, the verdict log, offers to the journal, slots and
chunks, the sector map, the spare pool, the health table, clean flags and the erase decision. -/

namespace Sys2Proof.Machine

open Sys2Proof

/-! ### Sparse tables: lists with strictly rising keys that hold only what differs from the default -/

def lookupAt {α : Type} (k : Nat) : List (Nat × α) → Option α
  | [] => none
  | (j, v) :: t => if k = j then some v else lookupAt k t

/-- Sets the entry of key `k`, or removes it (`none`), keeping the keys rising. -/
def putAt {α : Type} (k : Nat) (v : Option α) : List (Nat × α) → List (Nat × α)
  | [] => match v with
    | none => []
    | some x => [(k, x)]
  | (j, y) :: t =>
    if k < j then
      match v with
      | none => (j, y) :: t
      | some x => (k, x) :: (j, y) :: t
    else if k = j then
      match v with
      | none => t
      | some x => (k, x) :: t
    else (j, y) :: putAt k v t

/-- The canonical form of a sparse table: keys strictly rising and no entry equal to the default of its key. -/
def tableWf {α : Type} [DecidableEq α] (default : Nat → α) : List (Nat × α) → Bool
  | [] => true
  | [(k, v)] => decide (v ≠ default k)
  | (k, v) :: (j, w) :: t => decide (v ≠ default k) && decide (k < j) && tableWf default ((j, w) :: t)

/-- Adds a number to a strictly rising list. -/
def insertNat (n : Nat) : List Nat → List Nat
  | [] => [n]
  | m :: t => if n < m then n :: m :: t else if n = m then m :: t else m :: insertNat n t

/-! ### Every command starts with its ports empty -/

/-- The state with what the last command put out taken away (log entry 30). -/
def State.begin (s : State) : State := { s with hostOut := [], memOut := [] }

/-! ### Verdict log (11.4, 11.5) -/

/-- The kind numbers of R175. -/
def LogKind.number : LogKind → Nat
  | .admitted => 0 | .rejected => 1 | .sealed => 2 | .chunkMismatch => 3
  | .writeRefused => 4 | .sectorSuspect => 5 | .sectorRetired => 6 | .poolEmpty => 7
  | .trialStarted => 8 | .trialBooted => 9 | .confirmed => 10 | .abandoned => 11
  | .trialFailed => 12 | .imageDecayed => 13 | .recoveryBoot => 14 | .outdated => 15

/-- An entry of a kind with every field none; `appendLog` gives it its sequence number. -/
def LogEntry.of (kind : LogKind) : LogEntry :=
  { seq := 0, kind := kind, reason := none, slot := none, target := none, chunk := none, value := none,
    address := none }

/-- R174: the most entries the log holds. -/
def logCapacity : Nat := 64

/-- R176: ALERT_N is driven low exactly while an alert is pending. -/
def State.alertDriven (s : State) : Bool := s.alertPending

/-- R174 and R176: append an entry, drop the oldest of 64, raise the alert for a kind in the mask. -/
def State.appendLog (e : LogEntry) (s : State) : State :=
  { s with
    log := (if s.log.length < logCapacity then s.log else s.log.drop 1) ++ [{ e with seq := s.nextLogSeq }]
    overrun := s.overrun || !decide (s.log.length < logCapacity)
    nextLogSeq := s.nextLogSeq + 1
    alertPending := s.alertPending || s.cfg.settings.alertMask.getLsbD e.kind.number }

/-! ### Slots, chunks and targets -/

/-- 2^code (3.1). -/
def State.slotCount (s : State) : Nat := 2 ^ s.code

/-- Z, the slot size in sectors under the slot code in force (R41). -/
def State.slotSize (s : State) : Nat := s.cfg.sLog / 2 ^ s.code

def State.slotAt (s : State) (i : Nat) : SlotRec := s.slots.getD i SlotRec.blank

def State.updSlot (i : Nat) (f : SlotRec → SlotRec) (s : State) : State :=
  { s with slots := s.slots.modify i f }

/-- Chunk `c` of a slot record, from 1 (R91). -/
def SlotRec.chunkAt (r : SlotRec) (c : Nat) : Option Chunk := if c = 0 then none else r.chunks[c - 1]?

def SlotRec.updChunk (c : Nat) (f : Chunk → Chunk) (r : SlotRec) : SlotRec :=
  if c = 0 then r else { r with chunks := r.chunks.modify (c - 1) f }

def State.chunkAt (s : State) (i c : Nat) : Option Chunk := (s.slotAt i).chunkAt c

def State.updChunk (i c : Nat) (f : Chunk → Chunk) (s : State) : State := s.updSlot i (SlotRec.updChunk c f)

/-- The target of a slot whose record has a manifest summary. -/
def SlotRec.target? (r : SlotRec) : Option Nat := r.summary.map Summary.target

/-- The version in a slot's summary; 0 where there is none, which no rule reads. -/
def SlotRec.version (r : SlotRec) : Nat := (r.summary.map Summary.version).getD 0

def State.dynAt (s : State) (t : Nat) : TargetDyn := s.targets.getD t TargetDyn.blank

def State.updDyn (t : Nat) (f : TargetDyn → TargetDyn) (s : State) : State :=
  { s with targets := s.targets.modify t f }

def State.staticAt (s : State) (t : Nat) : TargetStatic := s.statics.getD t TargetStatic.blank

/-- R122: the one target whose static record is both in use and boot-mapped. -/
def State.bootTarget (s : State) : Option Nat := s.statics.findIdx? fun t => t.inUse && t.bootMapped

/-- The booted slot of the boot-mapped target (R139). -/
def State.bootedSlot (s : State) : Option Nat := s.bootTarget.bind fun t => (s.dynAt t).booted

/-- The chunk count N that an image length gives (R65). -/
def chunkCount (imageLen : Nat) : Nat := (imageLen + 4095) / 4096

/-- The last chunk's length (R65). -/
def Summary.lastLen (m : Summary) : Nat := m.imageLen - (m.chunks - 1) * 4096

/-- The pages needed of chunk `c` (R92). -/
def Summary.pagesNeeded (m : Summary) (c : Nat) : Nat := if c = m.chunks then (m.lastLen + 255) / 256 else 16

/-- The words of chunk `c` (R89). -/
def Summary.chunkWords (m : Summary) (c : Nat) : Nat := if c = m.chunks then m.lastLen / 4 else 1024

/-- The page mask that covers pages 0 to n − 1. -/
def fullMask (n : Nat) : BitVec 16 := BitVec.ofNat 16 (2 ^ n - 1)

/-- Adds a page to a page mask. -/
def addPage (mask : BitVec 16) (p : Nat) : BitVec 16 := mask ||| BitVec.ofNat 16 (2 ^ p)

/-- Whether a page mask covers pages 0 to n − 1. -/
def coversPages (mask : BitVec 16) (n : Nat) : Bool := mask &&& fullMask n == fullMask n

/-! ### Offers to the journal (9.4) -/

/-- R145: the capacity of the append queue. -/
def appendCapacity : Nat := 16

/-- R145: an offer joins the queue's tail, or becomes the last waiting offer. -/
def State.offer (owner : Owner) (p : Payload) (s : State) : State :=
  { s with store :=
    if s.store.queue.length < appendCapacity ∧ s.store.waiting = [] then
      { s.store with queue := s.store.queue ++ [{ payload := p, owner := owner }] }
    else { s.store with waiting := s.store.waiting ++ [{ payload := p, owner := owner }] } }

/-- What a SLOT record of a slot carries: its state, its mark, and its summary unless EMPTY or REJECTED (9.3). -/
def SlotRec.image (state : SlotState) (r : SlotRec) : SlotImage :=
  { state := state, decayed := r.decayed,
    summary := if state = .empty ∨ state = .rejected then none else r.summary }

/-- Offers a SLOT record carrying the slot's state, which becomes its journaled state (R144). -/
def State.offerSlot (owner : Owner) (i : Nat) (s : State) : State :=
  (s.offer owner (.slot i ((s.slotAt i).image (s.slotAt i).state))).updSlot i fun r => { r with journaled := r.state }

/-- Offers a TARGET record with the target's dynamic fields as they stand. -/
def State.offerTarget (owner : Owner) (t : Nat) (s : State) : State := s.offer owner (.target t (s.dynAt t))

/-- Every offer that has not been written yet, in order. -/
def Store.offers (st : Store) : List Offer := st.queue ++ st.waiting

/-- Whether a record that the given owner waits for is still to be written. -/
def Store.owes (st : Store) (o : Owner) : Bool := st.offers.any fun f => f.owner == o

/-! ### Sector map, health table and clean flags (3.4 to 3.6) -/

/-- The physical sector the map names for a logical sector; the fresh map names the same number (R48). -/
def mapLookup (map : List (Nat × Nat)) (l : Nat) : Nat := (lookupAt l map).getD l

def mapStore (l p : Nat) (map : List (Nat × Nat)) : List (Nat × Nat) := putAt l (if p = l then none else some p) map

def State.physical (s : State) (l : Nat) : Nat := mapLookup s.map l

def healthLookup (table : List (Nat × Health)) (p : Nat) : Health := (lookupAt p table).getD Health.blank

def healthStore (p : Nat) (h : Health) (table : List (Nat × Health)) : List (Nat × Health) :=
  putAt p (if h = Health.blank then none else some h) table

def State.healthOf (s : State) (p : Nat) : Health := healthLookup s.health p

def State.setHealth (p : Nat) (h : Health) (s : State) : State := { s with health := healthStore p h s.health }

def State.strikesOf (s : State) (p : Nat) : Nat := (lookupAt p s.strikes).getD 0

def State.setStrikes (p n : Nat) (s : State) : State :=
  { s with strikes := putAt p (if n = 0 then none else some n) s.strikes }

def State.isClean (s : State) (l : Nat) : Bool := s.clean.contains l

def State.setClean (l : Nat) (s : State) : State := { s with clean := insertNat l s.clean }

def State.clearClean (l : Nat) (s : State) : State := { s with clean := s.clean.filter (· != l) }

/-- The slot that holds a logical sector, with the sector's place in it (R33); none for slack. -/
def State.slotOf (s : State) (l : Nat) : Option (Nat × Nat) :=
  if l < s.slotCount * s.slotSize then some (l / s.slotSize, l % s.slotSize) else none

/-- A log entry with the slot, chunk and target fields that R50 gives for a logical sector: no chunk for a header
sector or a sector number above 2046. -/
def State.atSector (s : State) (l : Nat) (e : LogEntry) : LogEntry :=
  match s.slotOf l with
  | none => e
  | some (i, k) =>
    { e with slot := some i, chunk := if 1 ≤ k ∧ k ≤ 2046 then some k else none, target := (s.slotAt i).target? }

/-- R50, R51: marks a physical sector suspect, with its log entry, its HEALTH record and strikes 2. A sector already
suspect is left as it is. -/
def State.markSuspect (reason : Reason) (p l : Nat) (address : Option Nat) (s : State) : State :=
  if (s.healthOf p).suspect then s
  else
    let h := { s.healthOf p with suspect := true }
    let s1 := s.appendLog (s.atSector l
      { LogEntry.of .sectorSuspect with reason := some reason, value := some p, address := address })
    ((s1.setHealth p h).setStrikes p 2).offer .nobody (.health p h)

/-- R51: a counted mismatch read from a physical sector for a chunk in logical sector `l`. -/
def State.strike (p l : Nat) (s : State) : State :=
  if (s.healthOf p).suspect then s
  else if 2 ≤ s.strikesOf p + 1 then s.markSuspect .strikes p l none
  else s.setStrikes p (s.strikesOf p + 1)

/-! ### The spare pool (R47) -/

/-- R47: by ascending wear, then by ascending number. -/
def poolBefore (table : List (Nat × Health)) (p q : Nat) : Bool :=
  decide ((healthLookup table p).wear < (healthLookup table q).wear) ||
    ((healthLookup table p).wear == (healthLookup table q).wear && decide (p < q))

def poolInsert (table : List (Nat × Health)) (p : Nat) : List Nat → List Nat
  | [] => [p]
  | q :: t => if poolBefore table p q then p :: q :: t else q :: poolInsert table p t

/-! ### The erase decision (3.7) -/

/-- R60: the largest wear count. -/
def wearMax : Nat := 65534

/-- R60: the count of the wear record that an erase of `p` must name, if it must name one. -/
def State.wearRecord (s : State) (p : Nat) : Option Nat :=
  let w := (s.healthOf p).wear + 1
  if w % 8 = 0 ∧ w ≤ wearMax then some w else none

/-- R54: the first case that holds for an accepted erase of logical sector `l`. -/
def State.eraseDecision (s : State) (l : Nat) : Decision :=
  let p := s.physical l
  let make (c : DecisionCase) (t : Nat) : Decision :=
    { case := c, logical := l, source := p, target := t, wear := s.wearRecord t }
  match s.pool with
  | [] => if (s.healthOf p).suspect then make .degrade p else make .inPlace p
  | h :: _ =>
    if (s.healthOf p).suspect then make .retire h
    else if (s.healthOf h).wear + s.cfg.settings.wearGap ≤ (s.healthOf p).wear then make .swap h
    else make .inPlace p

/-- Whether the decision moves its logical sector, and so names a MAP record (R55, R57). -/
def Decision.moves (d : Decision) : Bool := d.case == .retire || d.case == .swap

/-- R58, R60: whether the decision names a record the erase must wait for. -/
def Decision.namesRecord (d : Decision) : Bool := d.moves || d.wear.isSome

/-- R55 to R57, R60: the log entry and the records of a decision, made when the erase is taken. A wear record is offered
after the decision's other records (DESIGN CHOICE, log entry 42). -/
def State.takeDecision (d : Decision) (address : Nat) (s : State) : State :=
  let entry (k : LogKind) : LogEntry :=
    s.atSector d.logical { LogEntry.of k with value := some d.source, address := some address }
  let s1 := match d.case with
    | .retire =>
      ((s.appendLog (entry .sectorRetired)).offer .holdMap (.map d.logical d.target)).offer .nobody
        (.health d.source { s.healthOf d.source with retired := true })
    | .degrade => s.appendLog (entry .poolEmpty)
    | .swap => s.offer .holdMap (.map d.logical d.target)
    | .inPlace => s
  match d.wear with
  | none => s1
  | some w => s1.offer .holdWear (.health d.target { s.healthOf d.target with wear := w })

/-- R55, R57: the map, pool and retirement effects of a decision. -/
def State.applyDecision (d : Decision) (s : State) : State :=
  match d.case with
  | .retire =>
    { s with
      map := mapStore d.logical d.target s.map
      pool := s.pool.filter (· != d.target)
      health := healthStore d.source { s.healthOf d.source with retired := true } s.health }
  | .swap =>
    { s with
      map := mapStore d.logical d.target s.map
      pool := poolInsert s.health d.source (s.pool.filter (· != d.target)) }
  | .degrade => s
  | .inPlace => s

/-- R59: one more erase forwarded to a physical sector, up to 65534. -/
def State.countWear (p : Nat) (s : State) : State :=
  s.setHealth p { s.healthOf p with wear := min ((s.healthOf p).wear + 1) wearMax }

/-- R61: at a discard the target's wear takes the value of a wear record the decision named. -/
def State.discardWear (d : Decision) (s : State) : State :=
  match d.wear with
  | none => s
  | some w => s.setHealth d.target { s.healthOf d.target with wear := w }

/-- R99: a chunk of a FILLING slot whose sector is being erased changes as given; other slots are left alone. -/
def State.eraseChunk (l : Nat) (f : Chunk → Chunk) (s : State) : State :=
  match s.slotOf l with
  | none => s
  | some (i, k) => if (s.slotAt i).state = .filling then s.updChunk i k f else s

/-- R99: the chunk of a forwarded erase. -/
def Chunk.erased (c : Chunk) : Chunk := { c with state := .empty, mask := 0, origin := .written, queued := false }

/-- R59, R53, R99: the owners' effects at the moment a staging erase is forwarded. -/
def State.stagingForwarded (d : Decision) (s : State) : State :=
  (((s.applyDecision d).countWear d.target).setClean d.logical).eraseChunk d.logical Chunk.erased

/-- R61: a held staging erase is discarded. -/
def State.stagingDiscarded (d : Decision) (s : State) : State :=
  (((s.applyDecision d).discardWear d).clearClean d.logical).eraseChunk d.logical fun c => { c with state := .stale }

end Sys2Proof.Machine
end

