-- ==== Sys2Proof/Machine/Operands.lean ====
section
/-! DEFINITION. How a host transaction is decoded and placed: the command profile, the address, the region, the slot and
sector (R2, R4, R5, R28, R33). -/

namespace Sys2Proof.Machine

open Sys2Proof

/-- R4: the lowest-numbered entry that holds the opcode; an opcode in no entry is BLOCK with lengths 0. -/
def classify (profile : List ProfileEntry) (op : Byte) : ProfileEntry :=
  (profile.find? fun e => e.opcode == op).getD { opcode := op, cls := .block, addrLen := 0, dummyLen := 0 }

def State.entryOf (s : State) (op : Byte) : ProfileEntry := classify s.cfg.profile op

/-- R2 (b): the address is the big-endian value of the address bytes; none for an address length of 0. -/
def txnAddress (tx : HostTxn) : Nat := beNat tx.addrBytes

/-- R2: the port takes transactions while it is open and the part does not drive HRST_N low. -/
def State.accepts (s : State) : Bool := s.phase == .running && s.portOpen && !s.hrstDriven

/-- R2, R4: the phases of a transaction as its entry gives them: a complete address phase, and a dummy phase of the
entry's length, after which the data phase runs. HCS_N may rise within the dummy phase, and no byte has then passed either
way (`n` is the number of bytes the host clocks in). -/
def ProfileEntry.phasesFit (e : ProfileEntry) (tx : HostTxn) (n : Nat) : Bool :=
  tx.addrBytes.length == e.addrLen &&
    (tx.dummy == e.dummyLen || (decide (tx.dummy < e.dummyLen) && tx.data.isEmpty && n == 0))

/-- R2, R4: the transaction, in which the host clocks in `n` bytes, is one of the given class, its phases are those of its
entry, and the port takes it. -/
def State.takes (s : State) (cls : TxClass) (tx : HostTxn) (n : Nat := 0) : Bool :=
  s.accepts && (s.entryOf tx.opcode).cls == cls && (s.entryOf tx.opcode).phasesFit tx n

/-- R23: an idle gap, in a model whose host transactions are whole steps: the part is running, with the port open or the
host held in reset. -/
def State.idleGap (s : State) : Bool := s.phase == .running && (s.portOpen || s.hrstDriven)

/-! ### The part's own entries (R5) -/

/-- R5: the lowest-numbered entry of a class; an entry counts although a lower one holds its opcode (DESIGN CHOICE, log
entry 39). -/
def firstOfClass (profile : List ProfileEntry) (c : TxClass) : ProfileEntry :=
  (profile.find? fun e => e.cls == c).getD { opcode := 0, cls := c, addrLen := 0, dummyLen := 0 }

/-- R5: for its own reads, the lowest-numbered READ entry with the configured number of address bytes, or the
lowest-numbered READ entry. -/
def ownReadEntry (cfg : InForce) : ProfileEntry :=
  (cfg.profile.find? fun e => e.cls == .read && e.addrLen == cfg.geometry.addrBytes).getD
    (firstOfClass cfg.profile .read)

/-! ### Placing an address (R28, R33) -/

/-- The capacity of the flash in bytes. -/
def InForce.bytes (c : InForce) : Nat := c.geometry.sectors * 4096

/-- The kind of the used entry that covers a sector within the capacity, if one does (R28). -/
def InForce.kindAt (c : InForce) (sector : Nat) : Option RegionKind :=
  if sector < c.geometry.sectors then (c.partition.find? fun r => r.covers sector).map Region.kind else none

/-- The logical staging sector of a staging address (R33). -/
def InForce.logicalOf (c : InForce) (a : Nat) : Nat := a / 4096 - c.stagingStart

/-- The page of an address within its sector (R28). -/
def pageOf (a : Nat) : Nat := a % 4096 / 256

/-- The flash address at an in-sector offset of a physical staging sector (R33). -/
def InForce.physicalAddr (c : InForce) (p off : Nat) : Nat := (c.stagingStart + p) * 4096 + off

/-- The translated address of a byte of a logical staging sector (R33). -/
def State.translate (s : State) (l off : Nat) : Nat := s.cfg.physicalAddr (s.physical l) off

/-- The logical sector of sector `k` of slot `i` (R41). -/
def State.logicalSector (s : State) (i k : Nat) : Nat := i * s.slotSize + k

/-- The first sector of the entry of a kind. -/
def InForce.startOf (c : InForce) (k : RegionKind) : Nat := ((regionOf c.partition k).map Region.start).getD 0

/-- R12: the slot whose logical sectors contain a staging address; none elsewhere. -/
def State.slotOfAddress (s : State) (a : Nat) : Option Nat :=
  if s.cfg.kindAt (a / 4096) = some .staging then (s.slotOf (s.cfg.logicalOf a)).map Prod.fst else none

/-- R32: the block of an ERASE_LARGE lies within the capacity and within one used LIVE_OPEN entry. -/
def State.largeAccepted (s : State) (a : Nat) : Bool :=
  decide (a / 65536 * 16 + 16 ≤ s.cfg.geometry.sectors) &&
  s.cfg.partition.any fun r => r.used && r.kind == .liveOpen && decide (r.start ≤ a / 65536 * 16) &&
    decide (a / 65536 * 16 + 16 ≤ r.start + r.length)

end Sys2Proof.Machine
end

