-- ==== Sys2Proof/Machine/Flags.lean ====
section
/-! DEFINITION. The status byte the host sees (R8), the refusal echo and the pending write-disable (R12 to R14, R18). -/

namespace Sys2Proof.Machine

open Sys2Proof

def setBit (b : Byte) (i : Nat) (v : Bool) : Byte :=
  if v then b ||| BitVec.ofNat 8 (2 ^ i) else b &&& ~~~BitVec.ofNat 8 (2 ^ i)

/-- The configured busy bit of a status byte. -/
def InForce.busy (c : InForce) (raw : Byte) : Bool := raw.getLsbD c.geometry.busyBit

/-- The configured fail bit of a status byte. -/
def InForce.failed (c : InForce) (raw : Byte) : Bool := raw.getLsbD c.geometry.failBit

/-- R8: the byte passed to the host, from the raw byte, the tracker state and the echo. -/
def State.composeStatus (s : State) (raw : Byte) : Byte :=
  match s.tracker with
  | .eraseHeld _ _ => setBit raw s.cfg.geometry.busyBit true
  | _ =>
    if s.echo then setBit (setBit raw s.cfg.geometry.busyBit false) s.cfg.geometry.failBit true else raw

/-- The WRITE_REFUSED entry of R12. -/
def State.logRefusal (reason : Reason) (op : Byte) (address : Option Nat) (s : State) : State :=
  s.appendLog { LogEntry.of .writeRefused with
    reason := some reason, value := some op.toNat, address := address, slot := address.bind s.slotOfAddress }

/-- R12: a refusal with any reason other than ERASE_HELD. -/
def State.refuseWrite (reason : Reason) (op : Byte) (address : Option Nat) (s : State) : State :=
  { s with echo := true, pendingWD := true }.logRefusal reason op address

/-- R18: a refusal during a hold clears the echo and leaves the pending write-disable. -/
def State.refuseHeld (op : Byte) (address : Option Nat) (s : State) : State :=
  { s with echo := false }.logRefusal .eraseHeld op address

end Sys2Proof.Machine
end

