-- ==== Sys2Proof/Machine/FlashBus.lean ====
section
/-! DEFINITION. The attached flash as R1 gives it, and the transactions the part sends it. -/

namespace Sys2Proof.Machine

open Sys2Proof

/-! ### Contents -/

def cellAt (cells : List (Nat × Byte)) (a : Nat) : Byte := (lookupAt a cells).getD 0xFF#8

def writeCell (a : Nat) (b : Byte) (cells : List (Nat × Byte)) : List (Nat × Byte) :=
  putAt a (if b = 0xFF#8 then none else some b) cells

/-- The canonical form of the flash's contents: addresses strictly rising, no entry FFh. -/
def Flash.wf (f : Flash) : Bool := tableWf (fun _ => 0xFF#8) f.cells

/-- Bytes changed by a path outside the part (log entry 6). -/
def Flash.drift (d : Drift) (f : Flash) : Flash :=
  { f with cells := d.foldl (fun m c => writeCell c.1 c.2 m) f.cells }

def State.drift (d : Drift) (s : State) : State := { s with flash := s.flash.drift d }

/-- Byte number `i` of a read, at address `a`: the contents, or a free value while the flash is busy (R1). -/
def State.flashByte (s : State) (i a : Nat) : Byte :=
  if s.flash.op.isSome then Config.freeByte s.freeCount i else cellAt s.flash.cells a

/-! ### Programs and erases (R1) -/

/-- The bytes of a program by address: they wrap within the page, and the last byte sent for an address stands. -/
def programBytes (a : Nat) (data : List Byte) : List (Nat × Byte) :=
  (data.zipIdx).foldl (fun m d => putAt (a / 256 * 256 + (a + d.2) % 256) (some d.1) m) []

/-- R1: a program or erase starts if the latch is set and the flash is idle, and the flash then clears the latch; a busy
flash ignores it, and so does one with the latch clear, which the next status byte shows. -/
def Flash.startOp (op : FlashOp) (f : Flash) : Flash :=
  if f.op.isSome then f
  else if f.latch then { f with op := some op, latch := false }
  else { f with ignored := true }

/-- R1: bits change only from 1 to 0. -/
def programCells (bytes : List (Nat × Byte)) (cells : List (Nat × Byte)) : List (Nat × Byte) :=
  bytes.foldl (fun m c => writeCell c.1 (cellAt m c.1 &&& c.2) m) cells

/-- R1: every byte of the range becomes FFh. -/
def eraseCells (start len : Nat) (cells : List (Nat × Byte)) : List (Nat × Byte) :=
  cells.filter fun c => decide (c.1 < start) || decide (start + len ≤ c.1)

/-- The contents after an operation that succeeded. -/
def FlashOp.done (op : FlashOp) (cells : List (Nat × Byte)) : List (Nat × Byte) :=
  match op with
  | .program bytes => programCells bytes cells
  | .erase start len => eraseCells start len cells

/-- The contents after an operation that failed (log entry 8): each byte of an erase's range is free, and a program has
changed free bits of its bytes, from 1 to 0 only (R1). -/
def FlashOp.spoilt (op : FlashOp) (nonce : Nat) (cells : List (Nat × Byte)) : List (Nat × Byte) :=
  match op with
  | .program bytes => programCells (bytes.map fun c => (c.1, Config.freeByte nonce c.1)) cells
  | .erase start len => (List.range' start len).foldl (fun m a => writeCell a (Config.freeByte nonce a) m) cells

/-- The end of an operation. -/
def Flash.finish (op : FlashOp) (failed : Bool) (nonce : Nat) (f : Flash) : Flash :=
  { f with op := none, cells := if failed then op.spoilt nonce f.cells else op.done f.cells }

/-- R1: the status byte that follows an ignored write shows busy 0 and fail 0; otherwise the flash answers as it does. -/
def State.flashAnswer (s : State) (raw : Byte) : Byte :=
  if s.flash.ignored && s.flash.op.isNone then
    setBit (setBit raw s.cfg.geometry.busyBit false) s.cfg.geometry.failBit false
  else raw

/-- The flash after it has given a status byte: the first byte with busy 0 ends the operation in progress. -/
def State.flashObserved (raw : Byte) (s : State) : State :=
  match s.flash.op with
  | none => { s with flash := { s.flash with ignored := false } }
  | some op =>
    if s.cfg.busy raw then s
    else { s with
      flash := { s.flash.finish op (s.cfg.failed raw) s.freeCount with ignored := false }
      freeCount := s.freeCount + 1 }

/-! ### Transactions on the memory side -/

def State.send (t : MemTxn) (s : State) : State := { s with memOut := s.memOut ++ [t] }

/-- A host transaction passed on as it came (R3, R9), or a new one of a READ's later run (R29), with the host's opcode,
address length, dummy length and lane use. An address that the host's address length cannot hold is carried whole
(DESIGN CHOICE, log entry 41). -/
def forwardTxn (tx : HostTxn) (address : Option Nat) (readLen : Nat) : MemTxn :=
  { opcode := tx.opcode, address := address, addrLen := tx.addrBytes.length, dummy := tx.dummy, lanes := tx.lanes, data := tx.data,
    readLen := readLen, cut := false }

/-- R5: the part's own transactions use one data lane. -/
def ownLanes : Lanes := { command := .one, address := .one, data := .one }

/-- A transaction of the part's own under a profile entry (R5). -/
def ownTxn (e : ProfileEntry) (address : Option Nat) (readLen : Nat) (cut : Bool) : MemTxn :=
  { opcode := e.opcode, address := address, addrLen := e.addrLen, dummy := e.dummyLen, lanes := ownLanes, data := [],
    readLen := readLen, cut := cut }

/-- The host's or the part's WRITE_ENABLE at the flash (R1). -/
def State.setLatch (v : Bool) (s : State) : State := { s with flash := { s.flash with latch := v } }

/-- A PROGRAM sent to the flash at an address (R1, R3); forwarding it clears the pending write-disable (R14). -/
def State.sendProgram (tx : HostTxn) (a : Nat) (s : State) : State :=
  { s.send (forwardTxn tx (some a) 0) with
    pendingWD := false, flash := s.flash.startOp (.program (programBytes a tx.data)) }

/-- The range of bytes an erase at an address clears (R1). -/
def eraseRange (cls : TxClass) (a : Nat) : FlashOp :=
  if cls = .eraseLarge then .erase (a / 65536 * 65536) 65536 else .erase (a / 4096 * 4096) 4096

/-- The address at which an erase is sent: translated in staging (R20, R35). -/
def State.eraseAddress (s : State) (op : OpRecord) (decision : Option Decision) : Nat :=
  match decision with
  | none => op.address
  | some d => s.cfg.physicalAddr d.target (op.address % 4096)

end Sys2Proof.Machine
end

