-- ==== Sys2Proof/Machine/Engine.lean ====
section
/-! DEFINITION. The verify engine's lists and its fold unit: the verify queue and its sweep (6.4), the manifest job list
(R72), job order (R106), and the words a job reads (R73, R86 to R88, R107). -/

namespace Sys2Proof.Machine

open Sys2Proof

/-- R103: the capacity of the verify queue. -/
def queueCapacity : Nat := 32

/-! ### The verify queue -/

/-- Whether a program into chunk `c` of slot `i` is in flight at the flash (R104). -/
def State.programming (s : State) (i c : Nat) : Bool :=
  match s.tracker with
  | .programInFlight op => op.sectors.any fun p => p.1 == s.logicalSector i c
  | _ => false

/-- R104: an entry joins the queue at the tail and sets its chunk's queued mark. -/
def State.joinQueue (e : Entry) (s : State) : State :=
  { s.updChunk e.slot e.chunk (fun c => { c with queued := true }) with verifyQueue := s.verifyQueue ++ [e] }

/-- R104: the eligible chunks of the sweep, lowest slot first and lowest chunk first. -/
def State.eligibleChunks (s : State) : List (Nat × Nat) :=
  s.slots.zipIdx.flatMap fun (r, i) =>
    if r.state = .filling ∧ r.reload = false then
      r.chunks.zipIdx.filterMap fun (c, k) =>
        if c.state = .complete ∧ c.queued = false ∧ s.programming i (k + 1) = false then some (i, k + 1) else none
    else []

/-- R104: while the queue has room, eligible chunks join at the tail. -/
def State.sweep (s : State) : State :=
  (s.eligibleChunks.take (queueCapacity - s.verifyQueue.length)).foldl
    (fun s p => s.joinQueue { kind := .chunk, slot := p.1, chunk := p.2 }) s

/-! ### Jobs -/

/-- The keys' values (10.1): an EMPTY key slot, or a number that names no slot, has none. A REVOKED slot holds its value,
and a second pass that its revocation starts again folds with it (DESIGN CHOICE, log entry 43). -/
def KeySlot.value? : KeySlot → Option Nat
  | .empty => none
  | .active v => some v
  | .revoked v => some v

def State.keyAt (s : State) (k : Nat) : KeySlot := s.keys.getD k .empty

/-- The manifest jobs, with two passes (R73). -/
def JobKind.isManifest : JobKind → Bool
  | .admission | .reload | .scanManifest => true
  | .chunk | .patrol | .scanChunk => false

/-- R73: a manifest job put in flight, at word 0 of its first pass over the slot's header sector. The unit's base and seed
hold 0 until the second pass takes the key value (DESIGN CHOICE, log entry 44). -/
def State.manifestStart (s : State) (kind : JobKind) (i : Nat) : Job :=
  { kind := kind, slot := i, chunk := 0, pass := .first, head := [], base := 0, seed := 0, count := 8, index := 0,
    acc := 0, sector := s.logicalSector i 0, offset := 0 }

/-- R107, R86: a job over the words of chunk `c`, with the slot's base and the chunk number as seed. -/
def State.chunkStart (s : State) (kind : JobKind) (i c : Nat) : Job :=
  { kind := kind, slot := i, chunk := c, pass := .fold, head := [],
    base := ((s.slotAt i).summary.map Summary.base).getD 0, seed := c,
    count := ((s.slotAt i).summary.map fun m => m.chunkWords c).getD 0, index := 0, acc := c % foldModulus,
    sector := s.logicalSector i c, offset := 0 }

def EntryKind.jobKind : EntryKind → JobKind
  | .chunk => .chunk
  | .patrol => .patrol

def State.entryStart (s : State) (e : Entry) : Job := s.chunkStart e.kind.jobKind e.slot e.chunk

/-- R119: the job under the scan cursor. -/
def State.scanStart (s : State) (c : Scan) : Job :=
  if c.chunk = 0 then s.manifestStart .scanManifest c.slot else s.chunkStart .scanChunk c.slot c.chunk

/-- R106: an engine with no job puts the next in flight; the head of the queue leaves it, and the sweep follows. -/
def State.startJob (s : State) : State :=
  if s.job.isSome then s
  else match s.scan with
    | some c => { s with job := some (s.scanStart c) }
    | none => match s.aside with
      | some e => { s with job := some (s.entryStart e), aside := none }
      | none => match s.manifestJobs with
        | m :: _ => { s with job := some (s.manifestStart (if m.reload then .reload else .admission) m.slot) }
        | [] => match s.verifyQueue with
          | e :: q => { s with job := some (s.entryStart e), verifyQueue := q }.sweep
          | [] => s

/-- R104, R106: after entries or jobs have gone, the sweep acts on vacancies and the engine takes its next job. -/
def State.resettle (s : State) : State := s.sweep.startJob

/-! ### Jobs that leave -/

/-- Whether the job in flight is a CHUNK or PATROL job that the test on slot and chunk selects. -/
def State.chunkJobIs (s : State) (test : Nat → Nat → Bool) : Bool :=
  match s.job with
  | some j => (j.kind == .chunk || j.kind == .patrol) && test j.slot j.chunk
  | none => false

/-- Entries, a job in flight and a job put aside that the test selects are removed or abandoned (R98, R102, R116). -/
def State.dropEntries (test : Nat → Nat → Bool) (s : State) : State :=
  { s with
    verifyQueue := s.verifyQueue.filter fun e => !test e.slot e.chunk
    job := if s.chunkJobIs test then none else s.job
    aside := s.aside.filter fun e => !test e.slot e.chunk }

/-- R102, R116: a slot leaves the states its chunk jobs require. -/
def State.dropSlotJobs (i : Nat) (s : State) : State :=
  (s.dropEntries fun a _ => a == i).updSlot i fun r =>
    { r with chunks := r.chunks.map fun c => { c with queued := false } }

/-- R98, R120: one chunk's entry or job goes. -/
def State.dropChunkJob (i c : Nat) (s : State) : State :=
  (s.dropEntries fun a b => a == i && b == c).updChunk i c fun k => { k with queued := false }

/-- R72: a slot's manifest job leaves the list, or is abandoned if it is in flight. -/
def State.dropManifest (i : Nat) (s : State) : State :=
  { s with
    manifestJobs := s.manifestJobs.filter fun m => m.slot != i
    job := match s.job with
      | some j => if (j.kind = .admission ∨ j.kind = .reload) ∧ j.slot = i then none else some j
      | none => none }

/-- R72: a job joins the list in slot order, if its slot has none. -/
def joinManifest (m : ManifestJob) : List ManifestJob → List ManifestJob
  | [] => [m]
  | n :: t => if m.slot < n.slot then m :: n :: t else if m.slot = n.slot then n :: t else n :: joinManifest m t

/-! ### The words of a job -/

/-- The word at word index `n` of a logical sector, as the flash returns it; `i` numbers its first byte in the read. -/
def State.readWord (s : State) (i l n : Nat) : Word :=
  wordOfBytes (s.flashByte i (s.translate l (4 * n))) (s.flashByte (i + 1) (s.translate l (4 * n + 1)))
    (s.flashByte (i + 2) (s.translate l (4 * n + 2))) (s.flashByte (i + 3) (s.translate l (4 * n + 3)))

/-- The manifest length L of a manifest job: the captured word 1 for admission, word 1 as read otherwise (R73). -/
def State.jobLength (s : State) (j : Job) : Nat :=
  if j.kind = .admission then (((s.slotAt j.slot).captured.map Prod.snd).getD 0).toNat else (j.head.getD 1 0).toNat

/-- The key slot of a manifest job: word 6 for admission, the summary's otherwise (R73). -/
def State.jobKeySlot (s : State) (j : Job) : Nat :=
  if j.kind = .admission then (j.head.getD 6 0).toNat
  else ((s.slotAt j.slot).summary.map Summary.keySlot).getD 0

def State.jobKey (s : State) (j : Job) : Option Nat := (s.keyAt (s.jobKeySlot j)).value?

/-- R64: the range of manifest lengths. -/
def lengthInRange (l : Nat) : Bool := decide (10 ≤ l) && decide (l ≤ 1024)

/-- R73: the job ends with word 7 of its first pass: a reload whose word 1 is out of range, or no key value. -/
def State.endsAfterFirst (s : State) (j : Job) : Bool :=
  (j.kind != .admission && !lengthInRange (s.jobLength j)) || (s.jobKey j).isNone

/-- R73: the second pass begins, or begins again, with the key value then held. -/
def State.secondPass (s : State) (j : Job) : Job :=
  match s.jobKey j with
  | none => { j with pass := .noKey }
  | some v =>
    { j with
      pass := .fold, base := v, seed := s.jobLength j, count := s.jobLength j - 1, index := 0,
      acc := s.jobLength j % foldModulus }

/-- Whether the job's next word is read by VERIFY_READ; its last word belongs to its verdict (log entry 14). -/
def State.jobWants (s : State) (j : Job) : Bool :=
  match j.pass with
  | .first => decide (j.index < 7) || (j.index == 7 && !s.endsAfterFirst j)
  | .fold => decide (j.index < j.count)
  | .noKey => false

/-- R87: a completed word is taken into the job. -/
def State.absorb (s : State) (w : Word) (j : Job) : Job :=
  match j.pass with
  | .first =>
    let j1 := { j with head := j.head ++ [w], index := j.index + 1 }
    if j.index < 7 then j1 else s.secondPass j1
  | .fold => { j with acc := foldStep j.base j.acc w.toNat, index := j.index + 1 }
  | .noKey => j

/-- R87: up to `n` consecutive words of one read, of which `c` are in; a read ends with its pass. With the number of words
the read takes. -/
def State.readWords (s : State) : Nat → Nat → Job → Nat × Job
  | 0, c, j => (c, j)
  | n + 1, c, j =>
    if s.jobWants j then
      let j1 := s.absorb (s.readWord (4 * c) j.sector (j.offset / 4 + j.index)) j
      if j1.pass = j.pass then s.readWords n (c + 1) j1 else (c + 1, j1)
    else (c, j)

/-- R87, R88: whether another word follows in a read that has brought a job from `j` to `j1`: a word of the same pass, or
the word after it, which is the job's last (log entry 14). -/
def State.readGoesOn (s : State) (j j1 : Job) : Bool :=
  j1.pass == j.pass && (s.jobWants j1 || j1.kind.isManifest)

/-- R24: a verify read may take the memory side. -/
def State.readReady (s : State) : Bool := s.idleGap && s.tracker == .idle && !s.pendingWD

/-- The job has only its last word to read before its verdict (R73, R88, R107). -/
def State.atLastWord (s : State) (j : Job) : Bool :=
  match j.pass with
  | .first => j.index == 7 && s.endsAfterFirst j
  | .fold => j.index == j.count
  | .noKey => true

/-- The job in flight, if it is of the kind, waits for its last word, and a verify read may be made. -/
def State.verdictJob (s : State) (kind : JobKind) : Option Job :=
  s.job.filter fun j => s.readReady && j.kind == kind && s.atLastWord j

/-- Where the last word of a job lies: word 7 or the tag in the header sector, or the chunk's expected fold there. -/
def State.lastWordAt (s : State) (j : Job) : Nat × Nat :=
  if j.kind.isManifest then (j.sector, if j.pass = .first then 7 else j.count)
  else (s.logicalSector j.slot 0, 7 + j.chunk)

/-- The last word of a job, as the flash returns it. -/
def State.lastWord (s : State) (j : Job) : Word := s.readWord 0 (s.lastWordAt j).1 (s.lastWordAt j).2

/-- A READ of the part's own at a word of a logical sector (R5, R87). A translated address that the entry's address length
cannot hold is read and carried whole (DESIGN CHOICE, log entry 41). -/
def State.sendWordRead (at' : Nat × Nat) (bytes : Nat) (cut : Bool) (s : State) : State :=
  s.send (ownTxn (ownReadEntry s.cfg) (some (s.translate at'.1 (4 * at'.2))) bytes cut)

/-- R23, R119: the bytes of a verify read. The host may end it after any byte; while the part drives HRST_N low nothing cuts
a read, so a word that has begun comes whole (log entry 11). -/
def State.readBytes (s : State) (bytes : Nat) : Nat := if s.accepts then bytes else 4 * ((bytes - 1) / 4 + 1)

/-- R87, R88: the fold unit reads as many bytes as the gap allows; the bytes of a word in progress are discarded, and the
next read starts at that word. A last word that the gap holds whole is read by the job's verdict (log entry 14). -/
def State.verifyRead (limit : Nat) (s : State) : State :=
  let bytes := s.readBytes limit
  match s.job with
  | none => s
  | some j =>
    if s.readReady && s.jobWants j then
      let r := s.readWords (bytes / 4) 0 j
      let part := if s.readGoesOn j r.2 && decide (bytes - 4 * r.1 < 4) then bytes - 4 * r.1 else 0
      { s.sendWordRead (j.sector, j.offset / 4 + j.index) (4 * r.1 + part) (part != 0 || r.1 == 0) with
        job := some r.2, freeCount := s.freeCount + 1 }
    else if s.readReady && s.atLastWord j && j.pass != .noKey && decide (bytes < 4) then
      s.sendWordRead (s.lastWordAt j) bytes true
    else s

/-- The read of a job's last word on the memory side, and the job's end (R88). -/
def State.endJob (j : Job) (s : State) : State :=
  { (if j.pass = .noKey then s else s.sendWordRead (s.lastWordAt j) 4 false) with
    job := none
    freeCount := s.freeCount + 1 }

/-- The words 0 to 7 that a manifest job has read when its last word is in. -/
def State.manifestWords (s : State) (j : Job) : List Word :=
  if j.pass = .first then j.head ++ [s.lastWord j] else j.head

/-- R88, R85: the folded words match the stored value, compared as unsigned integers. -/
def State.foldMatches (s : State) (j : Job) : Bool :=
  j.pass == .fold && foldFinish j.base j.acc j.count == (s.lastWord j).toNat

/-- R73: a manifest job's second pass in flight starts again when its key slot has changed. -/
def State.restartSecondPass (test : Nat → Bool) (s : State) : State :=
  match s.job with
  | some j => if j.kind.isManifest && j.pass == .fold && test (s.jobKeySlot j) then
      { s with job := some (s.secondPass j) } else s
  | none => s

end Sys2Proof.Machine
end

