-- ==== Sys2Proof/Machine/Manifest.lean ====
section
/-! DEFINITION. The manifest's fields and checks (4.1, 4.4, 4.6), admission, rejection, and what a reload does to a slot. -/

namespace Sys2Proof.Machine

open Sys2Proof

/-! ### Fields (R64) -/

/-- The manifest magic (R64). -/
def manifestMagic : Word := 0x314D4B48#32

def field (words : List Word) (n : Nat) : Nat := (words.getD n 0).toNat

def targetField (words : List Word) : Nat := field words 2 % 65536

def classField (words : List Word) : Nat := field words 2 / 65536

/-- R64, 11.7: bit 0 of the flags. -/
def scanWish (words : List Word) : Bool := field words 7 % 2 == 1

/-- The summary a manifest's words give (R76). -/
def summaryOf (words : List Word) : Summary :=
  { target := targetField words, version := field words 3, imageLen := field words 4,
    chunks := chunkCount (field words 4), base := field words 5, keySlot := field words 6 }

/-- The part of check 1 that admission and reload share: the magic, L's range, the image length, and L = 9 + N. -/
def formatGood (words : List Word) (l : Nat) : Bool :=
  words.getD 0 0 == manifestMagic && lengthInRange l && decide (0 < field words 4) &&
  field words 4 % 4 == 0 && l == 9 + chunkCount (field words 4)

/-- R74, check 7: the most chunks a slot takes. -/
def State.chunkLimit (s : State) : Nat := min (s.slotSize - 1) 1015

/-! ### Checks -/

/-- The first check of a list that fails. -/
def firstFailing : List (Bool × Reason) → Option Reason
  | [] => none
  | (good, r) :: t => if good then firstFailing t else some r

/-- R74: the admission checks on slot `i`, in order; `tagGood` is check 5. -/
def State.admissionFailure (s : State) (i : Nat) (words : List Word) (tagGood : Bool) : Option Reason :=
  let m := summaryOf words
  firstFailing
    [ (decide ((s.slotAt i).captured = some (words.getD 0 0, words.getD 1 0)) && formatGood words (field words 1),
        .badFormat),
      (decide (m.target < 16) && (s.staticAt m.target).inUse, .unknownTarget),
      (classField words == (s.staticAt m.target).cls, .wrongClass),
      (decide (m.keySlot < 8) && (match s.keyAt m.keySlot with | .active _ => true | _ => false) &&
        (s.staticAt m.target).keyMask.getLsbD m.keySlot, .keyRefused),
      (tagGood, .tagMismatch),
      (decide (2 ≤ m.base) && decide (m.base < foldModulus), .badBase),
      (decide (m.chunks ≤ s.chunkLimit), .tooLarge),
      (decide ((s.dynAt m.target).floor ≤ m.version), .rollback) ]

/-- R80: the reload checks on slot `i`. -/
def State.reloadFailure (s : State) (i : Nat) (words : List Word) (tagGood : Bool) : Option Reason :=
  firstFailing
    [ (formatGood words (field words 1) && decide ((s.slotAt i).summary = some (summaryOf words)), .badFormat),
      (tagGood, .tagMismatch),
      (decide ((summaryOf words).chunks ≤ s.chunkLimit), .tooLarge) ]

/-! ### Outcomes of an admission job (4.5) -/

/-- R76: chunk `c` of a slot at admission, by the clean flag of its sector. -/
def State.newChunk (s : State) (i c : Nat) : Chunk :=
  { state := if s.isClean (s.logicalSector i c) then .empty else .stale, mask := 0, origin := .written,
    queued := false }

/-- R76: the slot is admitted. -/
def State.admitSlot (i : Nat) (words : List Word) (s : State) : State :=
  let m := summaryOf words
  let s1 := (s.dropManifest i).updSlot i fun r =>
    { r with
      state := .filling, summary := some m, headerMask := 0, captured := none, reason := none,
      decayed := false, chunks := (List.range' 1 m.chunks).map (s.newChunk i) }
  (s1.appendLog { LogEntry.of .admitted with
    slot := some i, target := some m.target, value := some m.version }).offerSlot .nobody i

/-- R77, R68: the slot becomes REJECTED with a reason; no SLOT record is written. -/
def State.rejectHeader (i : Nat) (reason : Reason) (s : State) : State :=
  (s.dropManifest i).updSlot i fun r =>
    { r with state := .rejected, reason := some reason, headerMask := 0, captured := none }

/-- R77: the log entry of a failed admission job. -/
def State.rejectAdmission (i : Nat) (reason : Reason) (words : List Word) (s : State) : State :=
  (s.rejectHeader i reason).appendLog { LogEntry.of .rejected with
    reason := some reason, slot := some i,
    target := if targetField words < 16 then some (targetField words) else none, value := some (field words 3) }

/-! ### Reload (4.6) -/

/-- R81, R99: a chunk after a passed reload, by the slot's state; `pages` are its pages needed. A chunk of a FILLING slot
whose erase the host has made since start-up keeps the state the erase gave it. -/
def Chunk.reloaded (state : SlotState) (pages : Nat) (c : Chunk) : Chunk :=
  if state = .filling then
    if c.state = .stale ∧ c.hostErased = false then
      { c with state := .complete, mask := fullMask pages, origin := .recovered, queued := false }
    else c
  else { c with state := .verified, mask := fullMask pages }

/-- R81: a slot after a passed reload. -/
def SlotRec.reloadPassed (r : SlotRec) : SlotRec :=
  { r with
    reload := false
    chunks := r.chunks.zipIdx.map fun (c, k) =>
      c.reloaded r.state ((r.summary.map fun m => m.pagesNeeded (k + 1)).getD 16) }

/-- R82, R83: a slot after a failed reload, before its state is treated: the mark is cleared and every chunk keeps its
state, STALE but for one that an erase since start-up has made EMPTY (R99; DESIGN CHOICE, log entry 51). -/
def SlotRec.reloadFailed (r : SlotRec) : SlotRec := { r with reload := false }

/-- A log entry for a slot with its target and version (R82, R113, R117, R126 to R137). -/
def State.slotEntry (s : State) (kind : LogKind) (i : Nat) (reason : Option Reason) (chunk : Option Nat) : LogEntry :=
  { LogEntry.of kind with
    reason := reason, slot := some i, target := (s.slotAt i).target?, chunk := chunk,
    value := some (s.slotAt i).version }

/-- R117, R82: a slot becomes FAILED, and its entries go with it. -/
def State.failSlot (i : Nat) (s : State) : State :=
  (s.dropSlotJobs i).updSlot i fun r => { r with state := .failed, decayed := false }

/-- R116, R117: a slot takes the DECAYED mark, and its patrol entries go. -/
def State.markDecayed (i : Nat) (s : State) : State :=
  (s.dropSlotJobs i).updSlot i fun r => { r with decayed := true }

/-- The target's trial is closed (R129, R132, R134). -/
def TargetDyn.endTrial (d : TargetDyn) : TargetDyn := { d with trial := none, bootsLeft := 0 }

/-- R132: a trial ended by a check, with its log entry and records. -/
def State.trialEndedByCheck (i : Nat) (reason : Reason) (chunk : Option Nat) (s : State) : State :=
  let t := (s.slotAt i).target?.getD 16
  ((((s.failSlot i).updDyn t TargetDyn.endTrial).appendLog
    (s.slotEntry .trialFailed i (some reason) chunk)).offerSlot .nobody i).offerTarget .nobody t

/-- R82: a slot whose reload failed is treated by its state. -/
def State.reloadFailedSlot (i : Nat) (reason : Reason) (s : State) : State :=
  let s1 := (s.dropManifest i).updSlot i SlotRec.reloadFailed
  match (s.slotAt i).state with
  | .filling | .sealed =>
    ((s1.failSlot i).appendLog (s.slotEntry .rejected i (some reason) none)).offerSlot .nobody i
  | .trial => s1.trialEndedByCheck i reason none
  | .active | .fallback =>
    ((s1.markDecayed i).appendLog (s.slotEntry .imageDecayed i (some reason) none)).offerSlot .nobody i
  | .empty | .header | .rejected | .failed | .outdated => s1

/-- R81: a slot whose reload passed. -/
def State.reloadPassedSlot (i : Nat) (s : State) : State := (s.dropManifest i).updSlot i SlotRec.reloadPassed

/-! ### Verdicts of chunk work (6.6, 7.1, 7.2) -/

/-- R110, R117, R120: a CHUNK_MISMATCH entry of a chunk check, with the physical sector read. -/
def State.mismatchEntry (s : State) (reason : Reason) (i c p : Nat) : LogEntry :=
  { LogEntry.of .chunkMismatch with
    reason := some reason, slot := some i, target := (s.slotAt i).target?, chunk := some c, value := some p }

/-- R110, R117, R120: a counted mismatch: the chunk becomes MISMATCH, its log entry comes first, then the strike. -/
def State.chunkMismatched (reason : Reason) (i c p : Nat) (s : State) : State :=
  ((s.updChunk i c fun k => { k with state := .mismatch, queued := false }).appendLog
    (s.mismatchEntry reason i c p)).strike p (s.logicalSector i c)

/-- R113: a slot whose every chunk is VERIFIED is sealed. -/
def State.sealIfVerified (i : Nat) (s : State) : State :=
  if (s.slotAt i).chunks.all fun c => c.state == .verified then
    ((s.updSlot i fun r => { r with state := .sealed }).appendLog (s.slotEntry .sealed i none none)).offerSlot .nobody i
  else s

/-- R109 to R112: the verdict of a CHUNK job whose words came from physical sector `p`. -/
def State.chunkVerdict (i c p : Nat) (isMatch : Bool) (s : State) : State :=
  match s.chunkAt i c with
  | none => s
  | some k =>
    if (s.slotAt i).state = .filling ∧ k.state = .complete then
      if isMatch then
        ((s.updChunk i c fun k => { k with state := .verified, queued := false }).setStrikes p 0).sealIfVerified i
      else match k.origin with
        | .written => s.chunkMismatched .fold i c p
        | .recovered => s.updChunk i c fun k => { k with state := .stale, queued := false }
    else s

/-- R115: a slot is patrolled. -/
def SlotRec.patrolled (r : SlotRec) : Bool :=
  (r.state == .sealed || r.state == .trial || r.state == .active || r.state == .fallback) && !r.reload && !r.decayed

/-- R116, R117: the verdict of a PATROL job. -/
def State.patrolVerdict (i c p : Nat) (isMatch : Bool) (s : State) : State :=
  match s.chunkAt i c with
  | none => s
  | some k =>
    if (s.slotAt i).patrolled ∧ k.state = .verified then
      if isMatch then (s.updChunk i c fun k => { k with queued := false }).setStrikes p 0
      else
        let s1 := s.chunkMismatched .patrol i c p
        match (s.slotAt i).state with
        | .sealed => (s1.failSlot i).offerSlot .nobody i
        | .trial => s1.trialEndedByCheck i .patrol (some c)
        | .active | .fallback =>
          ((s1.markDecayed i).appendLog (s.slotEntry .imageDecayed i (some .patrol) (some c))).offerSlot .nobody i
        | .empty | .header | .rejected | .filling | .failed | .outdated => s1
    else s

end Sys2Proof.Machine
end

