-- ==== Sys2Proof/Machine/Boot.lean ====
section
/-! DEFINITION. Boot events (8.5) and the boot scan's scope and verdicts (7.2). The candidates are tried in the order
trial, active, fallback; each layer below names the next. -/

namespace Sys2Proof.Machine

open Sys2Proof

def State.updBoot (f : BootEvent → BootEvent) (s : State) : State := { s with boot := s.boot.map f }

/-- R138: a slot, or none, has been chosen: the booted slot is set and the event's records are offered in the order of
R125. -/
def State.settleBoot (t : Nat) (chosen : Option Nat) (s : State) : State :=
  let s1 := s.updDyn t fun d => { d with booted := chosen }
  match s1.boot with
  | none => s1
  | some b =>
    let s2 := match b.failedTrial with
      | none => s1
      | some i => s1.offerSlot .boot i
    let s3 := if s2.dynAt t = b.before then s2 else s2.offerTarget .boot t
    (b.decayed.foldl (fun s i => s.offerSlot .boot i) s3).updBoot fun b => { b with settled := true }

/-- R134, R135: the trial fails at the boot event. A reload still outstanding ends with it. -/
def State.bootTrialFails (t i : Nat) (reason : Option Reason) (chunk : Option Nat) (s : State) : State :=
  ((((s.failSlot i).dropManifest i).updSlot i SlotRec.reloadFailed).updDyn t TargetDyn.endTrial).appendLog
      (s.slotEntry .trialFailed i reason chunk)
    |>.updBoot fun b => { b with failedTrial := some i }

/-- R136, R137: a slot whose scan failed takes the DECAYED mark, unless it carried it. -/
def State.bootDecays (i : Nat) (reason : Option Reason) (chunk : Option Nat) (s : State) : State :=
  if (s.slotAt i).decayed then s
  else ((s.markDecayed i).appendLog (s.slotEntry .imageDecayed i reason chunk)).updBoot fun b =>
    { b with decayed := insertNat i b.decayed }

/-- R118: a verdict that needs no job: a DECAYED candidate fails, and under NONE any other passes. -/
def State.scanAtOnce (s : State) (i : Nat) : Option Bool :=
  if (s.slotAt i).decayed then some false
  else if s.cfg.settings.scanScope = .none then some true
  else none

/-- R108, R119: a scan is asked for: the job in flight is put aside or loses its progress, and the cursor is set to the
candidate's manifest. -/
def State.openScan (role : Role) (i : Nat) (s : State) : State :=
  let aside := match s.job with
    | some j => match j.kind with
      | .chunk => some { kind := .chunk, slot := j.slot, chunk := j.chunk : Entry }
      | .patrol => some { kind := .patrol, slot := j.slot, chunk := j.chunk : Entry }
      | _ => s.aside
    | none => s.aside
  { s with
    aside := aside, job := none,
    scan := some { slot := i, role := role, chunk := 0, full := s.cfg.settings.scanScope == .bootFull } }

/-- R137: the fallback slot's scan has ended. -/
def State.fallbackScanned (t i : Nat) (pass : Bool) (reason : Option Reason) (chunk : Option Nat) (s : State) : State :=
  if pass then
    (((s.updDyn t fun d => { d with recovery := true }).appendLog (s.slotEntry .recoveryBoot i none none))).settleBoot t
      (some i)
  else (s.bootDecays i reason chunk).settleBoot t (s.dynAt t).active

/-- R137: after the active slot's failure, the fallback slot is asked for if it does not carry the DECAYED mark. -/
def State.askFallback (t : Nat) (s : State) : State :=
  match (s.dynAt t).fallback with
  | none => s.settleBoot t (s.dynAt t).active
  | some i =>
    if (s.slotAt i).decayed then s.settleBoot t (s.dynAt t).active
    else match s.scanAtOnce i with
      | some pass => s.fallbackScanned t i pass none none
      | none => s.openScan .fallback i

/-- R136: the active slot's scan has ended. -/
def State.activeScanned (t i : Nat) (pass : Bool) (reason : Option Reason) (chunk : Option Nat) (s : State) : State :=
  if pass then s.settleBoot t (some i) else (s.bootDecays i reason chunk).askFallback t

/-- R136: the active slot is the candidate. -/
def State.askActive (t : Nat) (s : State) : State :=
  match (s.dynAt t).active with
  | none => s.settleBoot t none
  | some i => match s.scanAtOnce i with
    | some pass => s.activeScanned t i pass none none
    | none => s.openScan .active i

/-- R135: the trial slot's scan has ended. -/
def State.trialScanned (t i : Nat) (pass : Bool) (reason : Option Reason) (chunk : Option Nat) (s : State) : State :=
  if pass then
    (s.appendLog { s.slotEntry .trialBooted i none none with value := some (s.dynAt t).bootsLeft }).settleBoot t (some i)
  else (s.bootTrialFails t i reason chunk).askActive t

/-- R135: the trial slot is the candidate. -/
def State.askTrial (t i : Nat) (s : State) : State :=
  match s.scanAtOnce i with
  | some pass => s.trialScanned t i pass none none
  | none => s.openScan .trial i

/-- R133, R134: a boot event begins, and settles an open trial by the trial boots left. -/
def State.beginBoot (startup : Bool) (s : State) : State :=
  match s.bootTarget with
  | none =>
    { s with boot := some { startup := startup, target := none, before := TargetDyn.blank, failedTrial := none,
                            decayed := [], settled := true } }
  | some t =>
    let s1 := { s with boot := some { startup := startup, target := some t, before := s.dynAt t,
                                      failedTrial := none, decayed := [], settled := false } }
    match (s.dynAt t).trial with
    | none => s1.askActive t
    | some i =>
      if 0 < (s.dynAt t).bootsLeft then (s1.updDyn t fun d => { d with bootsLeft := d.bootsLeft - 1 }).askTrial t i
      else (s1.bootTrialFails t i (some .bootsSpent) none).askActive t

/-- R121: a scan hands its verdict to the activation controller, and the cursor is cleared. -/
def State.scanEnds (c : Scan) (pass : Bool) (reason : Option Reason) (chunk : Option Nat) (s : State) : State :=
  let s1 := { s with scan := none, job := none }
  match s.boot.bind BootEvent.target with
  | none => s1
  | some t => match c.role with
    | .trial => s1.trialScanned t c.slot pass reason chunk
    | .active => s1.activeScanned t c.slot pass reason chunk
    | .fallback => s1.fallbackScanned t c.slot pass reason chunk

/-- R119, R83: the manifest phase's verdict. A reload still outstanding is settled by it. -/
def State.scanManifestVerdict (c : Scan) (words : List Word) (tagGood : Bool) (s : State) : State :=
  let s0 := { s with job := none }
  match s.reloadFailure c.slot words tagGood with
  | some reason =>
    ((s0.dropManifest c.slot).updSlot c.slot SlotRec.reloadFailed).scanEnds c false (some reason) none
  | none =>
    let s1 := if (s.slotAt c.slot).reload then s0.reloadPassedSlot c.slot else s0
    if c.full || scanWish words then { s1 with scan := some { c with chunk := 1, full := true } }
    else s1.scanEnds c true none none

/-- R120: the verdict on the cursor's chunk, whose words came from physical sector `p`. -/
def State.scanChunkVerdict (c : Scan) (p : Nat) (isMatch : Bool) (s : State) : State :=
  let s0 := { s with job := none }
  if isMatch then
    let s1 := (s0.updChunk c.slot c.chunk fun k => { k with state := .verified }).setStrikes p 0
    if ((s.slotAt c.slot).summary.map Summary.chunks).getD 0 ≤ c.chunk then s1.scanEnds c true none none
    else { s1 with scan := some { c with chunk := c.chunk + 1 } }
  else
    ((s0.dropChunkJob c.slot c.chunk).chunkMismatched .scan c.slot c.chunk p).scanEnds c false (some .scan)
      (some c.chunk)

end Sys2Proof.Machine
end

