-- ==== Sys2Proof/Machine/Journal.lean ====
section
/-! DEFINITION. The record store: the write port, appends, compaction, half erases (9.1 to 9.5), replay, reconciliation and
the rebuilding of the working state (9.6, 8.6, 12.2). -/

namespace Sys2Proof.Machine

open Sys2Proof

/-! ### Halves -/

/-- 9.1: the record positions of a half. -/
def halfPositions : Nat := 7680

def otherHalf : Half → Half
  | .h0 => .h1
  | .h1 => .h0

def Store.half (st : Store) : Half → HalfState
  | .h0 => st.half0
  | .h1 => st.half1

def Store.updHalf (h : Half) (f : HalfState → HalfState) (st : Store) : Store :=
  match h with
  | .h0 => { st with half0 := f st.half0 }
  | .h1 => { st with half1 := f st.half1 }

/-- Writes a record position; positions between the list's end and it stay blank. -/
def putCell (pos : Nat) (c : RecCell) (cells : List RecCell) : List RecCell :=
  if pos < cells.length then cells.set pos c else cells ++ List.replicate (pos - cells.length) .blank ++ [c]

/-- Every byte of a half is FFh. -/
def allBlank (cells : List RecCell) : Bool := cells.all fun c => c == .blank

/-- The free count of the current half: 0 while it is closed or no half is current (R154, R155). -/
def Store.freeCount (st : Store) : Nat :=
  if st.closed || st.current.isNone then 0 else halfPositions - st.nextFree

/-- R148, R155: the half a compaction writes into. -/
def Store.receiving (st : Store) : Half :=
  match st.current with
  | some h => otherHalf h
  | none => .h0

/-- R148: the erase of a half that is neither blank nor erasing is started. -/
def HalfState.startErase (h : HalfState) : HalfState :=
  if h.cond = .superseded then { h with cond := .erasing } else h

/-- R148: a compaction becomes due, unless one is due or in progress. -/
def Store.makeDue (st : Store) : Store :=
  match st.compaction with
  | .none => { st.updHalf st.receiving HalfState.startErase with compaction := .due }
  | _ => st

def State.updStore (f : Store → Store) (s : State) : State := { s with store := f s.store }

/-! ### Reports (R146, R172) -/

/-- R146, R19: a hold's record condition is released when its records are written. -/
def State.releaseHold (s : State) : State :=
  match s.tracker with
  | .eraseHeld op h =>
    if h.recordOpen && !s.store.owes .holdMap && !s.store.owes .holdWear then
      { s with tracker := .eraseHeld op { h with recordOpen := false } }
    else s
  | _ => s

/-- Whether a row write waits or runs. -/
def Store.rowBusy (st : Store) : Bool :=
  st.rowWait.isSome || (match st.port with | some (.row _) => true | _ => false)

/-- R172: a PENDING outcome becomes DONE when the last row or record it waits for is written. -/
def State.completeRequest (s : State) : State :=
  if s.lastOutcome = .pending ∧ s.store.owes .request = false ∧ s.store.rowBusy = false then
    { s with lastOutcome := .done }
  else s

/-! ### Record writes (R145, R146) -/

/-- R146, R148: appends go on while no compaction is in progress. A due compaction starts before the next append once the
other half is blank, and the records of start-up stand behind it (R156; DESIGN CHOICE, log entry 47). -/
def Store.appendsOpen (st : Store) : Bool :=
  match st.compaction with
  | .none => true
  | .due => !st.startHold && (st.half st.receiving).cond != .blank
  | .running _ _ _ => false

/-- R146: the head of the append queue may be written. -/
def Store.mayAppend (st : Store) : Bool :=
  st.port.isNone && st.rowWait.isNone && st.appendsOpen && decide (0 < st.freeCount)

def Store.beginRecord (st : Store) : Store :=
  match st.queue, st.current with
  | o :: _, some h =>
    if st.mayAppend then
      { st with port := some (.record h st.nextFree { seq := st.nextSeq, payload := o.payload }) }
    else st
  | _, _ => st

/-- R145: when a record leaves the queue, the first waiting offer joins its tail. -/
def Store.popQueue (st : Store) : Store :=
  match st.waiting with
  | [] => { st with queue := st.queue.drop 1 }
  | w :: ws => { st with queue := st.queue.drop 1 ++ [w], waiting := ws }

/-- R146: a record write ends, in the half it began in (DESIGN CHOICE, log entry 46); then the trigger of R148 is tested. -/
def Store.endRecord (h : Half) (pos : Nat) (r : Record) (st : Store) : Store :=
  let st1 := { (st.updHalf h fun x => { x with cells := putCell pos (.record r) x.cells }).popQueue with
    port := none, nextFree := st.nextFree + 1, nextSeq := st.nextSeq + 1 }
  if st1.freeCount < 32 then st1.makeDue else st1

/-! ### Row writes (R141, R143) -/

def Store.beginRow (st : Store) : Store :=
  match st.port, st.rowWait with
  | none, some w => { st with port := some (.row w), rowWait := none }
  | _, _ => st

/-- What a row's place holds once its write has ended. -/
def Store.storeRow (w : RowWrite) (st : Store) : Store :=
  match w with
  | .geometry c => { st with geometryRow := .stored c }
  | .profile c => { st with profileRow := .stored c }
  | .partition c => { st with partitionRow := .stored c }
  | .settings c => { st with settingsRow := .stored c }
  | .key c => { st with keyRow := .stored c }
  | .target t c => { st with targetRows := st.targetRows.set t (.stored c) }

/-- What a row's place holds when its write was cut: blank, or failing its check (R141). -/
def cutRow {α : Type} (blank : Bool) : Row α := if blank then .blank else .garbled

def Store.spoilRow (blank : Bool) (w : RowWrite) (st : Store) : Store :=
  match w with
  | .geometry _ => { st with geometryRow := cutRow blank }
  | .profile _ => { st with profileRow := cutRow blank }
  | .partition _ => { st with partitionRow := cutRow blank }
  | .settings _ => { st with settingsRow := cutRow blank }
  | .key _ => { st with keyRow := cutRow blank }
  | .target t _ => { st with targetRows := st.targetRows.set t (cutRow blank) }

/-- R90: a row's content when its words folded again give its check word. -/
def Row.content? {α : Type} : Row α → Option α
  | .blank => none
  | .garbled => none
  | .stored c k => if k = rowCheck c then some c else none

/-- A row that is not blank and fails its check. -/
def Row.isGarbled {α : Type} (row : Row α) : Bool :=
  match row with
  | .blank => false
  | .garbled => true
  | .stored c k => k != rowCheck c

/-! ### Compaction (9.5) -/

/-- What the last SLOT record of a slot carries (R149: journaled state, DECAYED mark, summary). -/
def SlotRec.journalImage (r : SlotRec) : SlotImage := r.image r.journaled

/-- R149: the copy of the working state that a snapshot carries. -/
def State.snapCopy (s : State) : SnapCopy :=
  { code := s.code, slots := s.slots.map SlotRec.journalImage, targets := s.targets }

/-- R148, R149: a due compaction starts when the other half is blank, or starts that half's erase first. Its copy is the
state that replay gave, where replay closed the half (R154), and else the state as it stands. A record write then in the port
ends in the half it began in (DESIGN CHOICE, log entry 46). -/
def State.startCompaction (s : State) : State :=
  match s.store.compaction with
  | .due =>
    if (s.store.half s.store.receiving).cond = .blank then
      s.updStore fun st => { st with
        compaction := .running st.receiving (st.replayed.getD s.snapCopy) 0, replayed := none }
    else s.updStore fun st => st.updHalf st.receiving HalfState.startErase
  | _ => s

/-- R149: the decision of a held erase, whose written records the snapshot's groups follow. -/
def State.heldDecision (s : State) : Option Decision :=
  match s.tracker with
  | .eraseHeld _ h => h.decision
  | _ => none

/-- R149: the physical sector a MAP_GROUP carries for a logical sector. -/
def State.snapPhysical (s : State) (l : Nat) : Nat :=
  match s.heldDecision with
  | some d => if d.moves && d.logical == l && !s.store.owes .holdMap then d.target else s.physical l
  | none => s.physical l

/-- R149: the health a HEALTH_GROUP carries for a physical sector. -/
def State.snapHealth (s : State) (p : Nat) : Health :=
  match s.heldDecision with
  | some d => match d.wear with
    | some w => if d.target = p ∧ s.store.owes .holdWear = false then { s.healthOf p with wear := w } else s.healthOf p
    | none => s.healthOf p
  | none => s.healthOf p

/-- The members of the group of four that begins at 4 g, below a bound. -/
def groupOf (g bound : Nat) : List Nat := (List.range' (4 * g) 4).filter (· < bound)

def mapGroups (s : State) : Nat := (s.cfg.sLog + 3) / 4

def healthGroups (s : State) : Nat := (s.cfg.sPhys + 3) / 4

/-- R149: how many records the snapshot holds, from SNAP_BEGIN to SNAP_END inclusive. -/
def State.snapLength (s : State) (c : SnapCopy) : Nat :=
  2 + 1 + mapGroups s + healthGroups s + c.slots.length + c.targets.length

/-- R149: snapshot record number `n`. -/
def State.snapRecord (s : State) (c : SnapCopy) (n : Nat) : Payload :=
  if n = 0 then .snapBegin s.cfg.stagingStart s.cfg.sPhys s.cfg.sSp
  else if n = 1 then .slotCode c.code
  else
    let m := n - 2
    if m < mapGroups s then .mapGroup (4 * m) ((groupOf m s.cfg.sLog).map s.snapPhysical)
    else
      let k := m - mapGroups s
      if k < healthGroups s then .healthGroup (4 * k) ((groupOf k s.cfg.sPhys).map s.snapHealth)
      else
        let i := k - healthGroups s
        if i < c.slots.length then
          .slot i (c.slots.getD i { state := .empty, decayed := false, summary := none })
        else
          let t := i - c.slots.length
          if t < c.targets.length then .target t (c.targets.getD t TargetDyn.blank)
          else .snapEnd (s.snapLength c)

/-- R151: the compaction ends: the snapshot's half is current, and the erase of the old one starts. -/
def Store.endCompaction (into : Half) (count : Nat) (st : Store) : Store :=
  let st1 := match st.current with
    | some h => st.updHalf h fun x => { x with cond := .erasing }
    | none => st
  { st1.updHalf into fun x => { x with cond := .current } with
    current := some into, closed := false, nextFree := count, compaction := .none, startHold := false }

/-- R149: the write of the next snapshot record begins, with the working values as they stand; a waiting row write goes
before it (R141). -/
def State.beginSnapshot (into : Half) (c : SnapCopy) (n : Nat) (s : State) : State :=
  if s.store.rowWait.isNone then
    s.updStore fun st => { st with
      port := some (.snapshot into n { seq := st.nextSeq, payload := s.snapRecord c n }) }
  else s

/-- R149, R151: the write of snapshot record `n` ends; at the last one the compaction ends. -/
def Store.endSnapshot (into : Half) (c : SnapCopy) (n last : Nat) (r : Record) (st : Store) : Store :=
  let st1 := { st.updHalf into fun x => { x with cells := putCell n (.record r) x.cells } with
    port := none, nextSeq := st.nextSeq + 1, compaction := .running into c (n + 1) }
  if n = last then st1.endCompaction into (n + 1) else st1

/-- R141, R149: a step of the snapshot: the write of its next record begins, or the one in the port ends (log entry 17). -/
def State.writeSnapshot (s : State) : State :=
  match s.store.compaction with
  | .running into c n =>
    match s.store.port with
    | none => s.beginSnapshot into c n
    | some (.snapshot _ _ r) => s.updStore (Store.endSnapshot into c n (s.snapLength c - 1) r)
    | some (.record _ _ _) => s
    | some (.row _) => s
  | _ => s

/-- R151: a half erase ends and the half is blank. -/
def HalfState.erased (h : HalfState) : HalfState :=
  if h.cond = .erasing then { cells := [], cond := .blank } else h

/-! ### What a reset cuts (R141, R152) -/

/-- R141: what may be left at the positions of a half whose erase was cut: each as it was, blank, or failing its check,
as free bits say (log entry 19). -/
def cutErase (nonce : Nat) (cells : List RecCell) : List RecCell :=
  cells.zipIdx.map fun (c, i) =>
    if Config.freeBit nonce (2 * i) then c else if Config.freeBit nonce (2 * i + 1) then .blank else .torn

/-- R141: a half after a reset. Once its erase has been cut it counts as such until an erase of it ends. -/
def HalfState.cutBy (nonce : Nat) (h : HalfState) : HalfState :=
  { cells := if h.cond = .erasing then cutErase nonce h.cells else h.cells
    cond := if allBlank h.cells then .blank else .superseded
    eraseCut := h.eraseCut || h.cond == .erasing }

/-- R141: the on-die memory after every operation in progress has been cut; the volatile part is lost. -/
def Store.cut (rowBlank : Bool) (nonce : Nat) (st : Store) : Store :=
  let st1 := match st.port with
    | some (.record h pos _) => st.updHalf h fun x => { x with cells := putCell pos .torn x.cells }
    | some (.snapshot h pos _) => st.updHalf h fun x => { x with cells := putCell pos .torn x.cells }
    | some (.row w) => st.spoilRow rowBlank w
    | none => st
  { Store.factory with
    geometryRow := st1.geometryRow, profileRow := st1.profileRow, partitionRow := st1.partitionRow,
    settingsRow := st1.settingsRow, keyRow := st1.keyRow, targetRows := st1.targetRows,
    identityRow := st1.identityRow,
    half0 := st1.half0.cutBy nonce, half1 := st1.half1.cutBy (nonce + 1) }

/-! ### Replay (9.6) -/

/-- The record at a position, if one lies there and passes its check (R90, R144). -/
def RecCell.readable : RecCell → Option Record
  | .record r => if r.passes then some r else none
  | .blank => none
  | .torn => none

/-- Consecutive records that pass their checks and carry the sequence numbers from `e` on. -/
def journalRun : Word → List RecCell → List Record
  | _, [] => []
  | e, c :: t => match c.readable with
    | some r => if r.seq = e then r :: journalRun (e + 1) t else []
    | none => []

/-- The records of a half from position 0 up to the first blank, failing or out-of-sequence one (R153, R154). -/
def halfRecords : List RecCell → List Record
  | [] => []
  | c :: t => match c.readable with
    | some r => r :: journalRun (r.seq + 1) t
    | none => []

/-- R153: the count that the first SNAP_END carries equals its position plus 1; `pos` is the position of the head. -/
def endsSnapshot : Nat → List Record → Bool
  | _, [] => false
  | pos, r :: t => match r.payload with
    | .snapEnd count => count == pos + 1
    | _ => endsSnapshot (pos + 1) t

/-- R153: a half is valid. -/
def validHalf (cells : List RecCell) : Bool :=
  match halfRecords cells with
  | r :: t => (match r.payload with | .snapBegin _ _ _ => true | _ => false) && endsSnapshot 1 t
  | [] => false

/-- R144: of two sequence numbers, `a` is the later. -/
def later (a b : Word) : Bool := a != b && decide ((a - b).toNat < 2147483648)

/-- The sequence number of the record at position 0. -/
def firstSeq (cells : List RecCell) : Word := ((halfRecords cells).head?.map Record.seq).getD 0

/-- R153: the half replay chooses. -/
def Store.chosenHalf (st : Store) : Option Half :=
  match validHalf st.half0.cells, validHalf st.half1.cells with
  | true, true => if later (firstSeq st.half1.cells) (firstSeq st.half0.cells) then some .h1 else some .h0
  | true, false => some .h0
  | false, true => some .h1
  | false, false => none

/-- R154: replay ended at a record that fails its check or breaks the sequence. -/
def tornAfter (cells : List RecCell) : Bool :=
  match cells.drop (halfRecords cells).length with
  | c :: _ => c != .blank
  | [] => false

/-- The slot record a SLOT record gives (R154). -/
def SlotImage.toSlot (m : SlotImage) : SlotRec :=
  { SlotRec.blank with
    state := m.state, journaled := m.state, decayed := m.decayed, summary := m.summary,
    reason := if m.state = .rejected then some .rollback else none }

/-- R154: the effect of a record at replay. -/
def State.applyRecord (s : State) (r : Record) : State :=
  match r.payload with
  | .snapBegin _ _ _ => s
  | .snapEnd _ => s
  | .map l p => { s with map := mapStore l p s.map }
  | .mapGroup l ps => { s with map := ps.zipIdx.foldl (fun m x => mapStore (l + x.2) x.1 m) s.map }
  | .health p h => s.setHealth p h
  | .healthGroup p hs => { s with health := hs.zipIdx.foldl (fun m x => healthStore (p + x.2) x.1 m) s.health }
  | .slot i m => if i < s.slotCount then s.updSlot i fun _ => m.toSlot else s
  | .target t d => s.updDyn t fun _ => d
  | .slotCode c => { s with code := c, slots := List.replicate (2 ^ c) SlotRec.blank }

/-- R155: fresh state for the staging area; every target keeps its floor. -/
def State.freshStaging (s : State) : State :=
  { s with
    map := [], pool := List.range' s.cfg.sLog s.cfg.sSp, health := [], code := 0, slots := [SlotRec.blank],
    targets := s.targets.map fun d => { TargetDyn.blank with floor := d.floor } }

/-- R155: the signature a snapshot carries is the one in force. -/
def State.signatureMatches (s : State) (recs : List Record) : Bool :=
  match recs with
  | r :: _ => decide (r.payload = .snapBegin s.cfg.stagingStart s.cfg.sPhys s.cfg.sSp)
  | [] => false

/-- The condition of a half at start-up: current if chosen, else blank, or erased in the background (R153). A half whose
erase was cut is erased again, whatever it reads as (R141). -/
def HalfState.atStart (chosen : Bool) (h : HalfState) : HalfState :=
  { h with cond := if chosen then .current else if allBlank h.cells && !h.eraseCut then .blank else .erasing }

/-- R154, R155: the chosen half is closed: replay ended at a torn record, its snapshot carries another signature, or its erase
was cut, so that no record may be written into it (R141; log entry 45). -/
def HalfState.closes (same : Bool) (h : HalfState) : Bool := tornAfter h.cells || !same || h.eraseCut

/-- R153 to R155: the journal is replayed from the chosen half, or fresh state is taken. From a closed half the state that
replay gave is kept for the snapshot (R154; after fresh state, log entry 48). -/
def State.replay (s : State) : State :=
  match s.store.chosenHalf with
  | none =>
    ({ s.freshStaging with targets := s.targets.map fun _ => TargetDyn.blank }.updStore fun st =>
      { st with
        half0 := st.half0.atStart false, half1 := st.half1.atStart false, current := none, closed := false,
        nextFree := 0, nextSeq := 0, compaction := .due, startHold := true, replayed := none })
  | some h =>
    let cells := (s.store.half h).cells
    let recs := halfRecords cells
    let s1 := recs.foldl State.applyRecord s
    let same := s.signatureMatches recs
    let s2 := if same then s1 else s1.freshStaging
    let closed := (s.store.half h).closes same
    s2.updStore fun st =>
      let st1 := { st with
        half0 := st.half0.atStart (h == .h0), half1 := st.half1.atStart (h == .h1), current := some h,
        closed := closed, replayed := if closed then some s2.snapCopy else none, nextFree := recs.length,
        nextSeq := firstSeq cells + BitVec.ofNat 32 recs.length }
      if st1.freeCount < 32 then { st1 with compaction := .due, startHold := true } else st1

/-- Whether the map names a physical sector. -/
def State.isMapped (s : State) (p : Nat) : Bool :=
  (decide (p < s.cfg.sLog) && (lookupAt p s.map).isNone) || s.map.any fun e => e.2 == p

/-- R48: a suspect sector that the map does not name is retired. -/
def State.completeRetired (s : State) : State :=
  { s with health := s.health.map fun (p, h) => (p, if h.suspect && !s.isMapped p then { h with retired := true } else h) }

/-- R48, R47, R156: the pool of every staging physical sector neither mapped nor retired, and every strike 0. -/
def State.rebuildPool (s : State) : State :=
  { s with
    strikes := []
    pool := ((List.range s.cfg.sPhys).filter fun p => !s.isMapped p && !(s.healthOf p).retired).foldl
      (fun q p => poolInsert s.health p q) [] }

/-! ### Offers of an event with several records (R125) -/

/-- R125: SLOT records that take a slot to FAILED or EMPTY, then TARGET records, then the remaining SLOT records. -/
def State.offerInOrder (owner : Owner) (slots targets : List Nat) (s : State) : State :=
  let early (i : Nat) : Bool := (s.slotAt i).state == .failed || (s.slotAt i).state == .empty
  let s1 := (slots.filter early).foldl (fun s i => s.offerSlot owner i) s
  let s2 := targets.foldl (fun s t => s.offerTarget owner t) s1
  (slots.filter fun i => !early i).foldl (fun s i => s.offerSlot owner i) s2

/-- The slots, ascending, whose state or DECAYED mark differs between two states. -/
def changedSlots (before after : State) : List Nat :=
  (List.range after.slots.length).filter fun i =>
    decide ((before.slotAt i).state ≠ (after.slotAt i).state ∨ (before.slotAt i).decayed ≠ (after.slotAt i).decayed)

/-! ### Reconciliation (R140) -/

/-- A slot that leaves its role: FAILED if DECAYED, SEALED if at least the floor, OUTDATED otherwise (R127, R140). -/
def SlotRec.leaveRole (floor : Nat) (r : SlotRec) : SlotRec :=
  { r with
    state := if r.decayed then .failed else if floor ≤ r.version then .sealed else .outdated
    decayed := false }

/-- A slot that takes a role; only ACTIVE and FALLBACK keep the DECAYED mark (R140). -/
def SlotRec.takeRole (st : SlotState) (r : SlotRec) : SlotRec :=
  { r with state := st, decayed := r.decayed && (st == .active || st == .fallback) }

/-- R128, R140: a slot below the floor becomes OUTDATED or REJECTED. -/
def SlotRec.belowFloor (floor : Nat) (r : SlotRec) : SlotRec :=
  if r.version < floor then
    match r.state with
    | .sealed => { r with state := .outdated }
    | .filling => { r with state := .rejected, reason := some .rollback, summary := none, chunks := [] }
    | _ => r
  else r

/-- R140 step 1: the field keeps its slot if the slot belongs to the target and was replayed in one of four states. -/
def roleStands (replayed : State) (t i : Nat) : Bool :=
  let r := replayed.slotAt i
  r.target? == some t && (r.state == .sealed || r.state == .trial || r.state == .active || r.state == .fallback)

/-- R140 step 1 for one field. -/
def reconcileField (replayed : State) (t : Nat) (st : SlotState) (f : Option Nat) (s : State) : State :=
  match f with
  | none => s
  | some i => if roleStands replayed t i then s.updSlot i (SlotRec.takeRole st) else s

/-- R140: the slots of target `t` through steps 2 and 3, with the role fields that stand after step 1. -/
def State.reconcileSlots (t : Nat) (named : List Nat) (floor : Nat) (s : State) : State :=
  { s with slots := s.slots.zipIdx.map fun (r, i) =>
      if r.target? = some t then
        let r1 := if (r.state = .trial ∨ r.state = .active ∨ r.state = .fallback) ∧ i ∉ named
          then r.leaveRole floor else r
        r1.belowFloor floor
      else r }

/-- R140: steps 1 to 4 for target `t`. -/
def State.reconcileTarget (s : State) (t : Nat) : State :=
  let d := s.dynAt t
  let keep (f : Option Nat) : Option Nat := f.filter (roleStands s t)
  let s1 := reconcileField s t .fallback d.fallback (reconcileField s t .active d.active
    (reconcileField s t .trial d.trial s))
  let trial := keep d.trial
  let active := keep d.active
  let fallback := keep d.fallback
  let s2 := s1.reconcileSlots t (trial.toList ++ active.toList ++ fallback.toList) d.floor
  let left := if d.trial.isSome && trial.isNone then 0 else d.bootsLeft
  let mapped : Bool := s.bootTarget == some t
  s2.updDyn t fun d =>
    { d with
      trial := trial, active := active, fallback := fallback
      bootsLeft := if mapped then min left s.cfg.settings.tMax else 0
      booted := if mapped then d.booted else none }

/-- R140, R156: every target in turn, and the records of what changed in the order of R125 (log entry 28). -/
def State.reconcile (s : State) : State :=
  let s1 := (List.range 16).foldl State.reconcileTarget s
  s1.offerInOrder .nobody (changedSlots s s1)
    ((List.range 16).filter fun t => decide (s.dynAt t ≠ s1.dynAt t))

/-! ### Rebuilding (12.2, step 5) -/

/-- R78: a chunk record after replay. -/
def Chunk.afterReplay : Chunk :=
  { state := .stale, mask := 0, origin := .recovered, queued := false, hostErased := false }

/-- R79: the states in which a reload job is queued. -/
def SlotState.reloads : SlotState → Bool
  | .filling | .sealed | .trial | .active | .fallback => true
  | .empty | .header | .rejected | .failed | .outdated => false

/-- R78, R79: a slot's chunk table and reload mark after replay. -/
def SlotRec.rebuilt (r : SlotRec) : SlotRec :=
  { r with
    reload := r.state.reloads
    chunks := List.replicate ((r.summary.map Summary.chunks).getD 0) Chunk.afterReplay }

/-- R186: the chunk tables are rebuilt and the reload jobs queued, in slot order. -/
def State.rebuild (s : State) : State :=
  { s with
    slots := s.slots.map SlotRec.rebuilt
    manifestJobs := s.slots.zipIdx.filterMap fun (r, i) =>
      if r.state.reloads then some { slot := i, reload := true } else none }

/-- R185 to R187: steps 4, 5 and the start of step 6. -/
def State.afterIdleWait (s : State) : State :=
  ((s.replay.completeRetired.rebuildPool.reconcile.rebuild).beginBoot true).resettle

end Sys2Proof.Machine
end

