-- ==== Sys2Proof/Machine/Pages.lean ====
section
/-! DEFINITION. The control window's pages: their places (R168), their contents (R178 to R180, 11.7) and their snapshots
(R169). -/

namespace Sys2Proof.Machine

open Sys2Proof

/-! ### Codes (R178, R179, 11.7) -/

def SlotState.code : SlotState → Nat
  | .empty => 0 | .header => 1 | .rejected => 2 | .filling => 3 | .sealed => 4
  | .trial => 5 | .active => 6 | .fallback => 7 | .failed => 8 | .outdated => 9

def ChunkState.code : ChunkState → Nat
  | .empty => 0 | .partial_ => 1 | .complete => 2 | .verified => 3 | .mismatch => 4 | .stale => 5

def Reason.code : Reason → Nat
  | .protectedRegion => 0 | .slotState => 1 | .pageWritten => 2 | .staleSector => 3 | .outsideImage => 4
  | .largeErase => 5 | .chipErase => 6 | .eraseHeld => 7 | .controlPage => 8 | .slack => 9 | .badFormat => 10
  | .unknownTarget => 11 | .wrongClass => 12 | .keyRefused => 13 | .tagMismatch => 14 | .badBase => 15
  | .tooLarge => 16 | .rollback => 17 | .programFail => 18 | .eraseFail => 19 | .strikes => 20 | .fold => 21
  | .patrol => 22 | .scan => 23 | .bootsSpent => 24

def ReqReason.code : ReqReason → Nat
  | .badRecord => 1 | .unknownCode => 2 | .badArg => 3 | .wrongState => 4 | .locked => 5 | .notBooted => 6
  | .trialOpen => 7 | .inUse => 8 | .keyRevoked => 9 | .freeTooMany => 10

def ReqOutcome.code : ReqOutcome → Nat
  | .none => 0 | .done => 1 | .pending => 2 | .refused => 3

def KeySlot.code : KeySlot → Nat
  | .empty => 0 | .active _ => 1 | .revoked _ => 2

/-! ### Words of a page -/

/-- FFFFFFFFh, which a field with no value reads. -/
def noneWord : Word := 0xFFFFFFFF#32

def optWord (v : Option Nat) : Word := (v.map natWord).getD noneWord

def boolWord (b : Bool) : Word := if b then 1 else 0

/-- A page whose first words are given, FFh after them (R168). -/
def pageOfWords (ws : List Word) : List Byte := padPage (ws.flatMap bytesOfWord)

def blankPage : List Byte := List.replicate 256 0xFF#8

/-! ### The pages -/

/-- R105: the rescan chunks outstanding. -/
def State.rescanCount (s : State) : Nat :=
  (s.slots.map fun r => if r.state = .filling then
    (r.chunks.filter fun c => c.state == .complete && c.origin == .recovered).length else 0).sum

/-- R46, R63: the retired count R. -/
def State.retiredCount (s : State) : Nat := (s.health.filter fun e => e.2.retired).length

def Tracker.isHeld : Tracker → Bool
  | .eraseHeld _ _ => true
  | _ => false

/-- R178. -/
def State.statusPage (s : State) : List Byte :=
  pageOfWords <|
    [ boolWord (s.store.compaction != .none), boolWord s.locked, boolWord s.configDefaulted, boolWord s.configChanged,
      s.lastSerial.getD noneWord, s.lastCode.getD noneWord, natWord s.lastOutcome.code,
      optWord (s.lastReason.map ReqReason.code), s.lastBusy.getD noneWord,
      natWord s.log.length, boolWord s.overrun, boolWord s.alertPending,
      optWord (s.store.current.map fun h => match h with | .h0 => 0 | .h1 => 1), natWord s.store.freeCount,
      natWord s.pool.length, natWord s.retiredCount, boolWord s.tracker.isHeld, natWord s.rescanCount ] ++
    (List.range 8).map (fun k => natWord (s.keyAt k).code) ++ [natWord s.code, s.nextLogSeq]

/-- The number of a slot's chunks in a state (R179). -/
def SlotRec.countChunks (r : SlotRec) (st : ChunkState) : Nat := (r.chunks.filter fun c => c.state == st).length

/-- R179. -/
def slotPage (i : Nat) (r : SlotRec) : List Byte :=
  pageOfWords
    [ natWord i, natWord r.state.code, natWord r.journaled.code, boolWord r.decayed, boolWord r.reload,
      optWord (r.summary.map Summary.target), optWord (r.summary.map Summary.version),
      optWord (r.summary.map Summary.imageLen), optWord (r.summary.map Summary.chunks),
      optWord (r.summary.map Summary.base), optWord (r.summary.map Summary.keySlot),
      optWord (if r.state = .rejected then r.reason.map Reason.code else none),
      optWord (if r.state = .header then some r.headerMask.toNat else none),
      if r.state = .header then (r.captured.map Prod.snd).getD noneWord else noneWord,
      natWord (r.countChunks .empty), natWord (r.countChunks .partial_), natWord (r.countChunks .complete),
      natWord (r.countChunks .verified), natWord (r.countChunks .mismatch), natWord (r.countChunks .stale) ]

/-- R168, R179: chunk-state page `k` of a slot shows chunks 256 k + 1 to 256 k + 256. -/
def chunkStatePage (k : Nat) (r : SlotRec) : List Byte :=
  padPage (((r.chunks.drop (256 * k)).take 256).map fun c => BitVec.ofNat 8 c.state.code)

/-- R180. -/
def targetPage (t : Nat) (st : TargetStatic) (d : TargetDyn) : List Byte :=
  pageOfWords
    [ natWord t, boolWord st.inUse, natWord st.cls, natWord st.keyMask.toNat, boolWord st.bootMapped,
      natWord d.floor, optWord d.active, optWord d.trial, optWord d.fallback, optWord d.booted,
      natWord d.bootsLeft, boolWord d.recovery ]

/-- A log entry's 16 bytes (11.7). -/
def LogEntry.words (e : LogEntry) : List Word :=
  [ e.seq,
    natWord (e.kind.number + 16 * ((e.reason.map Reason.code).getD 31) + 512 * (e.slot.getD 31) +
      16384 * (e.target.getD 31) + 524288 * (e.chunk.getD 2047)),
    optWord e.value, optWord e.address ]

/-- R174: log page `j`. -/
def State.logPage (s : State) (j : Nat) : List Byte :=
  pageOfWords (((s.log.drop (16 * j)).take 16).flatMap LogEntry.words)

/-- 11.7: the identity page, fixed when the rows are loaded (R180); `serial` is 16 bytes. -/
def identityPage (serial : List Byte) (cfg : InForce) : List Byte :=
  let words : List Word :=
    [0x0000A7C5#32, 0x00000316#32, 0x00000001#32, wordAt serial 0, wordAt serial 4, wordAt serial 8, wordAt serial 12,
     wordOfBytes 64 32 16 8, natWord cfg.geometry.sectors, natWord cfg.sPhys, natWord cfg.sSp]
  pageOfWords (words ++ [checkWord words])

/-- R168: what lies at window page `p` (window sector p div 16, page p mod 16), where a report page lies there. -/
def State.reportPage (s : State) (p : Nat) : Option (List Byte) :=
  if p = 0 then some s.identity
  else if p = 1 then some s.statusPage
  else if 3 ≤ p ∧ p ≤ 6 then some (s.logPage (p - 3))
  else if 16 ≤ p ∧ p < 32 then
    some (if p - 16 < s.slotCount then slotPage (p - 16) (s.slotAt (p - 16)) else blankPage)
  else if 32 ≤ p ∧ p < 48 then some (targetPage (p - 32) (s.staticAt (p - 32)) (s.dynAt (p - 32)))
  else if 48 ≤ p ∧ p < 112 then
    some (if (p - 48) / 4 < s.slotCount then chunkStatePage ((p - 48) % 4) (s.slotAt ((p - 48) / 4)) else blankPage)
  else none

/-- R168: the request page's window page. -/
def requestPageNo : Nat := 2

/-- R168: log page 0's window page. -/
def logPage0No : Nat := 3

/-- R169, R177: a read reaches byte `off` of report page `p`: a fresh snapshot at byte 0 or where there is none, and
under ON_READ the alert's release at byte 0 of log page 0. -/
def State.touchPage (p off : Nat) (page : List Byte) (s : State) : State :=
  let s1 := if off = 0 ∨ (lookupAt p s.snapshots).isNone then { s with snapshots := putAt p (some page) s.snapshots } else s
  if p = logPage0No ∧ off = 0 ∧ s.cfg.settings.alertMode = .onRead then { s1 with alertPending := false } else s1

/-- R157: the request page holds the record of a KEY_WRITE that has written a key slot. -/
def State.keyInPage (s : State) : Bool := s.lastCode == some 10 && (s.lastOutcome == .pending || s.lastOutcome == .done)

/-- 11.7, R157: the bytes of a KEY_WRITE record that tell its value: argument 2, and the check folded over it. -/
def tellsKey (off : Nat) : Bool := (decide (16 ≤ off) && decide (off < 20)) || (decide (28 ≤ off) && decide (off < 32))

/-- R38, R157: the byte of the request page that a READ is served: that of its current image, but that no transaction reads
a key value back, in whose place FFh is read (DESIGN CHOICE, log entry 49). -/
def State.requestByte (s : State) (off : Nat) : Byte :=
  if s.keyInPage && tellsKey off then 0xFF#8 else s.reqPage.getD off 0xFF#8

/-- R38, R168, R169: the byte at a window offset, with what reading it does. A snapshot is served as it was taken, also
where the slot code has since put its slot out of range (DESIGN CHOICE, log entry 50). -/
def State.windowByte (o : Nat) (s : State) : Byte × State :=
  if o / 256 = requestPageNo then (s.requestByte (o % 256), s)
  else match s.reportPage (o / 256) with
    | none => (0xFF#8, s)
    | some page =>
      let s1 := s.touchPage (o / 256) (o % 256) page
      ((((lookupAt (o / 256) s1.snapshots).getD []).getD (o % 256) 0xFF#8), s1)

end Sys2Proof.Machine
end

