-- ==== Sys2Proof/Machine/Requests.lean ====
section
/-! DEFINITION. Requests: the taking of a record (R170 to R172) and what each code does (3.3, 8.3, chapter 10, R173). -/

namespace Sys2Proof.Machine

open Sys2Proof

/-! ### Outcomes (R171, R172) -/

def State.refuseRequest (r : ReqReason) (s : State) : State := { s with lastOutcome := .refused, lastReason := some r }

def State.requestDone (s : State) : State := { s with lastOutcome := .done, lastReason := none }

def State.requestPending (s : State) : State := { s with lastOutcome := .pending, lastReason := none }

/-- R125: PENDING while a record the request offered is to be written, DONE at its take where it offered none. -/
def State.requestAwaits (s : State) : State :=
  if s.store.owes .request then s.requestPending else s.requestDone

/-- R143: the row write a request makes. -/
def State.writeRow (w : RowWrite) (s : State) : State := s.updStore fun st => { st with rowWait := some w }

/-- R125: the slot argument names a slot under the code in force. -/
def State.namesSlot (s : State) (slot : Word) : Bool := decide (slot.toNat < s.slotCount)

/-! ### Part resets (R181) -/

/-- R181, R182: a part reset. The on-die memory is cut where it stands and volatile state is lost; the flash, which the
reset does not reach, stays as it was. -/
def State.partReset (rowBlank : Bool) (s : State) : State :=
  { State.reset with
    store := s.store.cut rowBlank s.freeCount, flash := s.flash, freeCount := s.freeCount + 2, pending := s.pending }

/-! ### Role requests (8.3) -/

/-- R126. -/
def State.reqActivate (slot : Word) (s : State) : State :=
  let i := slot.toNat
  let r := s.slotAt i
  let t := r.target?.getD 16
  if !s.namesSlot slot then s.refuseRequest .badArg
  else if !(r.state == .sealed && !r.reload) then s.refuseRequest .wrongState
  else if (s.dynAt t).trial.isSome then s.refuseRequest .trialOpen
  else match s.keyAt ((r.summary.map Summary.keySlot).getD 8) with
    | .active _ =>
      ((((s.updSlot i fun r => { r with state := .trial }).updDyn t fun d =>
          { d with trial := some i, bootsLeft := if s.bootTarget = some t then s.cfg.settings.tMax else 0 }).appendLog
          (s.slotEntry .trialStarted i none none)).offerTarget .request t).offerSlot .request i |>.requestPending
    | _ => s.refuseRequest .keyRevoked

/-- R127, R128: a slot that a confirmation takes out of service loses its jobs and its reload mark. -/
def State.confirmDrops (i : Nat) (s : State) : State :=
  ((s.dropSlotJobs i).dropManifest i).updSlot i SlotRec.reloadFailed

/-- R128: the OUTDATED and REJECTED entries of a confirmation, with the slots' versions as they were before. -/
def State.confirmLog (s before : State) (i : Nat) : State :=
  match (s.slotAt i).state with
  | .outdated => s.appendLog (before.slotEntry .outdated i none none)
  | .rejected => s.appendLog (before.slotEntry .rejected i (some .rollback) none)
  | _ => s

/-- R127: the slots whose roles move: the trial slot, the old active slot and the old fallback slot. -/
def State.confirmRoles (i t floor : Nat) (s : State) : State :=
  let d := s.dynAt t
  let s1 := match d.fallback with
    | none => s
    | some f =>
      let s' := s.updSlot f (SlotRec.leaveRole floor)
      if (s'.slotAt f).state = SlotState.sealed then s' else s'.confirmDrops f
  let s2 := match d.active with
    | none => s1
    | some a => s1.updSlot a fun r => { r with state := .fallback }
  (s2.updSlot i fun r => { r with state := .active }).updDyn t fun d =>
    { d with floor := floor, active := some i, fallback := d.active, trial := none, bootsLeft := 0, recovery := false }

/-- R128: the target's SEALED and FILLING slots below the new floor, ascending. -/
def State.belowFloor (s : State) (t floor : Nat) : List Nat :=
  (List.range s.slots.length).filter fun j =>
    let r := s.slotAt j
    r.target? == some t && (r.state == .sealed || r.state == .filling) && decide (r.version < floor)

/-- R128: one slot left below the new floor. -/
def State.outdate (floor j : Nat) (s : State) : State := (s.confirmDrops j).updSlot j (SlotRec.belowFloor floor)

/-- R127, R128. -/
def State.reqConfirm (slot : Word) (s : State) : State :=
  let i := slot.toNat
  let r := s.slotAt i
  let t := r.target?.getD 16
  if !s.namesSlot slot then s.refuseRequest .badArg
  else if !(r.state == .trial) then s.refuseRequest .wrongState
  else if s.bootTarget = some t ∧ (s.dynAt t).booted ≠ some i then s.refuseRequest .notBooted
  else
    let floor := max (s.dynAt t).floor r.version
    let below := s.belowFloor t floor
    let s1 := below.foldl (fun s j => s.outdate floor j) (s.confirmRoles i t floor)
    let changed := changedSlots s s1
    let s2 := s1.appendLog { LogEntry.of .confirmed with slot := some i, target := some t, value := some floor }
    let s3 := changed.foldl (fun x j => x.confirmLog s j) s2
    (s3.offerInOrder .request changed [t]).requestPending.resettle

/-- R129. -/
def State.reqAbandon (slot : Word) (s : State) : State :=
  let i := slot.toNat
  let r := s.slotAt i
  let t := r.target?.getD 16
  if !s.namesSlot slot then s.refuseRequest .badArg
  else if !(r.state == .trial) then s.refuseRequest .wrongState
  else
    ((((s.updSlot i fun r => { r with state := .sealed }).updDyn t TargetDyn.endTrial).appendLog
      (s.slotEntry .abandoned i none none)).offerTarget .request t).offerSlot .request i |>.requestPending

/-- R130: a slot becomes EMPTY and its old state goes with it; what the journal holds is left for its record. -/
def State.emptySlot (i : Nat) (s : State) : State :=
  let r := s.slotAt i
  let s1 := ((s.dropManifest i).dropSlotJobs i).updSlot i fun r => { SlotRec.blank with journaled := r.journaled }
  if r.state = .fallback then s1.updDyn (r.target?.getD 16) fun d => { d with fallback := none } else s1

/-- R130, R131: a slot that a discard does not touch. -/
def State.discardBarred (s : State) (i : Nat) : Bool :=
  (s.slotAt i).state == .trial || (s.slotAt i).state == .active || s.bootedSlot == some i

/-- R130. -/
def State.reqDiscard (slot : Word) (s : State) : State :=
  let i := slot.toNat
  let r := s.slotAt i
  if !s.namesSlot slot then s.refuseRequest .badArg
  else if s.discardBarred i then s.refuseRequest .inUse
  else if r.state = .empty then s.requestDone
  else
    let s1 := s.emptySlot i
    let s2 := if r.journaled = .empty then s1 else s1.offerSlot .request i
    let s3 := if r.state = .fallback then s2.offerTarget .request (r.target?.getD 16) else s2
    s3.requestAwaits.resettle

/-- R131. -/
def State.reqClearStaging (s : State) : State :=
  let ids := (List.range s.slots.length).filter fun i => !s.discardBarred i && (s.slotAt i).state != .empty
  let targets := (List.range 16).filter fun t =>
    ids.any fun i => (s.slotAt i).state == .fallback && (s.slotAt i).target? == some t
  let s1 := ids.foldl (fun s i => s.emptySlot i) s
  (s1.offerInOrder .request (ids.filter fun i => (s.slotAt i).journaled != .empty) targets).requestAwaits.resettle

/-! ### SET_SLOT_CODE (3.3) -/

/-- R45: every slot and every manifest, chunk and patrol job goes, and the new code applies. -/
def State.changeSlotCode (c : Nat) (s : State) : State :=
  { s with
    code := c, slots := List.replicate (2 ^ c) SlotRec.blank, manifestJobs := [], verifyQueue := [], job := none,
    aside := none, patrolSlot := 0, patrolChunk := 1 }

/-- R44, R45. -/
def State.reqSetSlotCode (code : Word) (s : State) : State :=
  if 4 < code.toNat then s.refuseRequest .badArg
  else if s.slots.any fun r => r.state == .trial || r.state == .active || r.state == .fallback then
    s.refuseRequest .wrongState
  else if s.bootedSlot.isSome then s.refuseRequest .inUse
  else ((s.changeSlotCode code.toNat).offer .request (.slotCode code.toNat)).requestPending

/-! ### The control window and the part (R173) -/

def State.reqLogFree (n : Word) (s : State) : State :=
  if n.toNat = 0 then s.refuseRequest .badArg
  else if s.log.length < n.toNat then s.refuseRequest .freeTooMany
  else { s with log := s.log.drop n.toNat, overrun := false }.requestDone

def State.reqAckAlert (s : State) : State :=
  (if s.cfg.settings.alertMode = .onAck then { s with alertPending := false } else s).requestDone

/-- R182: DONE at its take, and the part resets at once. -/
def State.reqReload (s : State) : State := s.requestDone.partReset false

/-! ### Keys and lock (10.1 to 10.3) -/

/-- The key row's content that a rewrite starts from (R143). -/
def Store.keyContent (st : Store) : KeyRow :=
  st.keyRow.content?.getD { keys := List.replicate 8 .empty, locked := false }

/-- R143: the working table takes the row's new content, and the row is rewritten. -/
def State.putKeyRow (r : KeyRow) (s : State) : State :=
  { s with keys := r.keys, locked := r.locked }.writeRow (.key r) |>.requestPending

/-- R158. -/
def State.reqKeyWrite (slot value : Word) (s : State) : State :=
  let k := slot.toNat
  if !decide (k < 8) then s.refuseRequest .badArg
  else if !(decide (2 ≤ value.toNat) && decide (value.toNat < foldModulus)) then s.refuseRequest .badArg
  else if s.locked && s.keyAt k != .empty then s.refuseRequest .locked
  else
    (s.putKeyRow { s.store.keyContent with keys := s.store.keyContent.keys.set k (.active value.toNat) }).restartSecondPass
      (· == k)

/-- R159. -/
def State.reqKeyRevoke (slot : Word) (s : State) : State :=
  let k := slot.toNat
  if !decide (k < 8) then s.refuseRequest .badArg
  else match s.keyAt k with
    | .active v =>
      (s.putKeyRow { s.store.keyContent with keys := s.store.keyContent.keys.set k (.revoked v) }).restartSecondPass
        (· == k)
    | _ => s.refuseRequest .wrongState

/-- R161. -/
def State.reqLock (s : State) : State :=
  if s.locked then s.requestDone else s.putKeyRow { s.store.keyContent with locked := true }

/-- R162. -/
def State.reqFactoryClear (s : State) : State :=
  let s1 : State := { s with targets := s.targets.map fun d => { d with floor := 0 } }
  let s2 := s1.putKeyRow { keys := List.replicate 8 .empty, locked := false }
  ((List.range 16).foldl (fun s t => s.offerTarget .request t) s2).restartSecondPass fun _ => true

/-! ### Target writes (10.4) -/

/-- R163, check 4: the target is held in use by a slot or by its booted slot. -/
def State.targetHeld (s : State) (t : Nat) : Bool :=
  (s.dynAt t).booted.isSome || s.slots.any fun r =>
    r.target? == some t && (r.state == .filling || r.state == .sealed || r.state == .trial || r.state == .active ||
      r.state == .fallback || r.state == .failed)

/-- R163, R164; a request sets in use to no where the record held yes (log entry 34). Argument 4 holds the key mask, in use
and boot-mapped (11.7). -/
def State.reqTargetWrite (target cls flags : Word) (s : State) : State :=
  let t := target.toNat
  let old := s.staticAt t
  let new : TargetStatic :=
    { inUse := flags.getLsbD 8, cls := cls.toNat, keyMask := flags.extractLsb' 0 8, bootMapped := flags.getLsbD 9 }
  if !(decide (t < 16) && decide (cls.toNat < 65536) && decide (flags.toNat < 1024)) then s.refuseRequest .badArg
  else if s.locked then s.refuseRequest .locked
  else if new.bootMapped && (List.range 16).any (fun u => u != t && (s.staticAt u).bootMapped) then
    s.refuseRequest .badArg
  else if (new.cls != old.cls || new.bootMapped != old.bootMapped || (old.inUse && !new.inUse)) &&
      s.targetHeld t then
    s.refuseRequest .inUse
  else ({ s with statics := s.statics.set t new }.writeRow (.target t new)).requestPending

/-! ### Configuration writes (10.5) -/

def TxClass.ofCode : Nat → Option TxClass
  | 0 => some .read | 1 => some .program | 2 => some .eraseSector | 3 => some .eraseLarge | 4 => some .eraseChip
  | 5 => some .writeEnable | 6 => some .writeDisable | 7 => some .statusRead | 8 => some .pass | 9 => some .block
  | _ => none

def RegionKind.ofCode : Nat → Option RegionKind
  | 0 => some .liveOpen | 1 => some .liveProtected | 2 => some .bootWindow | 3 => some .staging | 4 => some .control
  | _ => none

def ScanScope.ofCode : Nat → Option ScanScope
  | 0 => some .none | 1 => some .bootHeader | 2 => some .bootFull
  | _ => Option.none

def AlertMode.ofCode : Nat → Option AlertMode
  | 0 => some .onRead | 1 => some .onAck
  | _ => none

/-- A value kept if the test holds. -/
def inRange (good : Bool) (w : RowWrite) : Option RowWrite := if good then some w else none

/-- R166: geometry items 1 to 4. -/
def geometryWrite (g : Geometry) (item v : Nat) : Option RowWrite :=
  match item with
  | 1 => inRange (v == 8 || v == 16 || v == 32 || v == 64) (.geometry { g with capacity := v })
  | 2 => inRange (v == 3 || v == 4) (.geometry { g with addrBytes := v })
  | 3 => inRange (decide (v ≤ 7)) (.geometry { g with busyBit := v })
  | 4 => inRange (decide (v ≤ 7)) (.geometry { g with failBit := v })
  | _ => none

/-- R166: profile items 5 to 8 of entry `n`. -/
def profileWrite (p : List ProfileEntry) (item n v : Nat) : Option RowWrite :=
  match item with
  | 5 => inRange (decide (v ≤ 255)) (.profile (p.modify n fun e => { e with opcode := BitVec.ofNat 8 v }))
  | 6 => (TxClass.ofCode v).map fun c => .profile (p.modify n fun e => { e with cls := c })
  | 7 => inRange (v == 0 || v == 3 || v == 4) (.profile (p.modify n fun e => { e with addrLen := v }))
  | 8 => inRange (decide (v ≤ 15)) (.profile (p.modify n fun e => { e with dummyLen := v }))
  | _ => none

/-- R166: partition items 9 to 11 of entry `n`. -/
def partitionWrite (p : List Region) (item n v : Nat) : Option RowWrite :=
  match item with
  | 9 => (RegionKind.ofCode v).map fun k => .partition (p.modify n fun r => { r with kind := k })
  | 10 => inRange (decide (v ≤ 16383)) (.partition (p.modify n fun r => { r with start := v }))
  | 11 => inRange (decide (v ≤ 16384)) (.partition (p.modify n fun r => { r with length := v }))
  | _ => none

/-- R166: settings items 12 to 20. -/
def settingsWrite (c : Settings) (item v : Nat) : Option RowWrite :=
  match item with
  | 12 => inRange (decide (8 ≤ v) && decide (v ≤ 256)) (.settings { c with spareCount := v })
  | 13 => inRange (decide (1 ≤ v) && decide (v ≤ 16)) (.settings { c with egMax := v })
  | 14 => inRange (decide (100 ≤ v) && decide (v ≤ 60000)) (.settings { c with egWindow := v })
  | 15 => inRange (decide (16 ≤ v) && decide (v ≤ 4096)) (.settings { c with wearGap := v })
  | 16 => inRange (decide (1 ≤ v) && decide (v ≤ 7)) (.settings { c with tMax := v })
  | 17 => inRange (decide (v ≤ 3600)) (.settings { c with patrolPeriod := v })
  | 18 => (ScanScope.ofCode v).map fun x => .settings { c with scanScope := x }
  | 19 => (AlertMode.ofCode v).map fun x => .settings { c with alertMode := x }
  | 20 => inRange (decide (v ≤ 65535)) (.settings { c with alertMask := BitVec.ofNat 16 v })
  | _ => none

/-- R165: the row write of a CONFIG_WRITE that starts from the stored rows (R143), or none where an argument is outside
its range. The defaults of a row that is blank or fails its check are those it would be loaded with (log entry 25). -/
def State.configRow (s : State) (item n v : Nat) : Option RowWrite :=
  if 1 ≤ item ∧ item ≤ 4 then
    if n = 0 then geometryWrite (s.store.geometryRow.content?.getD defaultGeometry) item v else none
  else if 5 ≤ item ∧ item ≤ 8 then
    if n ≤ 15 then
      profileWrite (s.store.profileRow.content?.getD (defaultProfile s.cfg.geometry)) item n v
    else none
  else if 9 ≤ item ∧ item ≤ 11 then
    if n ≤ 7 then
      partitionWrite (s.store.partitionRow.content?.getD (defaultPartition s.cfg.geometry.sectors)) item n v
    else none
  else if n = 0 then settingsWrite (s.store.settingsRow.content?.getD defaultSettings) item v
  else none

/-- R165. -/
def State.reqConfigWrite (item index value : Word) (s : State) : State :=
  match s.configRow item.toNat index.toNat value.toNat with
  | none => s.refuseRequest .badArg
  | some w =>
    if s.locked then s.refuseRequest .locked
    else ({ s with configChanged := true }.writeRow w).requestPending

/-! ### Taking a record (R170, R171) -/

/-- R171: the request magic. -/
def requestMagic : Word := 0x31524B48#32

/-- The page image of a request record with the given words 0 to 6 and the check that makes it good (11.7). -/
def recordImage (serial code a1 a2 a3 a4 : Word) : List Byte :=
  let ws := [requestMagic, serial, code, a1, a2, a3, a4]
  pageOfWords (ws ++ [checkWord ws])

/-- R171, cases 1 and 4: BUSY leaves everything but the last-busy serial as it was; otherwise the page image replaces the
request page and the request is judged by the rule of its code. What a READ is served of the page is
`State.requestByte`'s (R38, R157). -/
def State.takeRequest (image : List Byte) (serial code : Word) (act : State → State) (s : State) : State :=
  if s.lastOutcome = .pending then { s with lastBusy := some serial }
  else act { s with reqPage := image, lastSerial := some serial, lastCode := some code }

/-- R171, case 2: the magic and the check of a record. -/
def recordGood (image : List Byte) : Bool :=
  wordAt image 0 == requestMagic &&
  wordAt image 28 == checkWord ((List.range 7).map fun n => wordAt image (4 * n))

/-- R171, case 4: the rule that owns a code (11.7); none for a number that is no code. -/
def requestRule (code a1 a2 a3 a4 : Word) : Option (State → State) :=
  match code.toNat with
  | 1 => some (State.reqActivate a1)
  | 2 => some (State.reqConfirm a1)
  | 3 => some (State.reqAbandon a1)
  | 4 => some (State.reqDiscard a1)
  | 5 => some State.reqClearStaging
  | 6 => some (State.reqSetSlotCode a1)
  | 7 => some (State.reqLogFree a1)
  | 8 => some State.reqAckAlert
  | 9 => some State.reqReload
  | 10 => some (State.reqKeyWrite a1 a2)
  | 11 => some (State.reqKeyRevoke a1)
  | 12 => some (State.reqTargetWrite a1 a2 a4)
  | 13 => some (State.reqConfigWrite a1 a2 a3)
  | 14 => some State.reqLock
  | 15 => some State.reqFactoryClear
  | _ => none

/-- The rule of the code in a page image's record. -/
def imageRule (image : List Byte) : Option (State → State) :=
  requestRule (wordAt image 8) (wordAt image 12) (wordAt image 16) (wordAt image 20) (wordAt image 24)

/-- R171: a taken page image is judged; the first case that applies decides it. -/
def State.judgeRecord (image : List Byte) (s : State) : State :=
  s.takeRequest image (wordAt image 4) (wordAt image 8) <|
    if recordGood image then
      match imageRule image with
      | none => State.refuseRequest .unknownCode
      | some act => act
    else State.refuseRequest .badRecord

/-- R39, R9: a request is taken while the port takes transactions and the tracker is IDLE; the take of its PROGRAM clears
the refusal echo (R11). -/
def State.mayRequest (s : State) : Bool := s.accepts && s.tracker == .idle

/-- A request row of the table: a good record of the code, taken (log entry 12). -/
def State.request (serial code a1 a2 a3 a4 : Word) (act : State → State) (s : State) : State :=
  if s.mayRequest then
    { s with echo := false }.takeRequest (recordImage serial code a1 a2 a3 a4) serial code act
  else s

end Sys2Proof.Machine
end

