-- ==== Sys2Proof/Machine/Writes.lean ====
section
/-! DEFINITION. What the part does with programs, erases and status bytes: the erase rate guard (R22), holds (R19), the
judgement of staging writes (R35, R43, R66 to R70, R94 to R101), and the ends of operations (R16, R69, R96, R97, R99). -/

namespace Sys2Proof.Machine

open Sys2Proof

/-- The timebase goes on while the part runs or waits for the flash (R181, log entry 4). -/
def State.tick (elapsed : Nat) (s : State) : State :=
  { s with clock := if s.phase = .running ∨ s.phase = .idleWait then s.clock + elapsed else s.clock }

/-! ### The erase rate guard (R22) -/

/-- R22: fewer than EG_MAX of the listed times lie in (t − EG_WINDOW, t]. -/
def State.guardAllows (s : State) (t : Nat) : Bool :=
  decide ((s.guard.filter fun x => decide (t < x + s.cfg.settings.egWindow) && decide (x ≤ t)).length <
    s.cfg.settings.egMax)

/-- R22: a forwarding time joins the list, and the oldest of EG_MAX leaves it. -/
def State.pushGuard (t : Nat) (s : State) : State :=
  { s with guard := (if s.guard.length < s.cfg.settings.egMax then s.guard else s.guard.drop 1) ++ [t] }

/-! ### Erases (R3, R19, R20) -/

/-- R3, R15, R20, R22: an erase goes to the flash at the time on the clock, and its owners are told. -/
def State.forwardErase (txn : MemTxn) (op : OpRecord) (decision : Option Decision) (s : State) : State :=
  let s1 := { (s.send txn).pushGuard s.clock with
    pendingWD := false, tracker := .eraseInFlight op
    flash := s.flash.startOp (eraseRange op.cls (s.eraseAddress op decision)) }
  match decision with
  | none => s1
  | some d => s1.stagingForwarded d

/-- R19, R3: an accepted erase is held, or cut by the host's next transaction and so held, or forwarded. -/
def State.acceptErase (tx : HostTxn) (op : OpRecord) (decision : Option Decision) (cut : Bool) (s : State) : State :=
  let recordOpen := decision.any Decision.namesRecord
  let guardOpen := !s.guardAllows s.clock
  let txn : MemTxn := { forwardTxn tx (some (s.eraseAddress op decision)) 0 with data := [], cut := cut }
  let hold : Hold := { recordOpen := recordOpen, guardOpen := guardOpen, decision := decision }
  if recordOpen || guardOpen then { s with tracker := .eraseHeld op hold }
  else if cut then { s.send txn with tracker := .eraseHeld op hold }
  else s.forwardErase txn op decision

/-- R43, R70, R98, R101: the slot controller's judgement of an erase of sector `k` of slot `i`. -/
def State.judgeErase (s : State) (i k : Nat) : Option Reason :=
  match (s.slotAt i).state with
  | .empty | .header | .rejected => none
  | .filling => if k = 0 then some .slotState else none
  | .sealed | .trial | .active | .fallback | .failed | .outdated => some .slotState

/-- R70: the header erase of a slot in HEADER or REJECTED empties it at the take. -/
def State.takeHeaderErase (i : Nat) (s : State) : State :=
  let emptied (r : SlotRec) : SlotRec := { SlotRec.blank with journaled := r.journaled }
  match (s.slotAt i).state with
  | .header => (s.dropManifest i).updSlot i emptied
  | .rejected =>
    let s1 := s.updSlot i emptied
    if (s.slotAt i).journaled = .empty then s1 else s1.offerSlot .nobody i
  | _ => s

/-- R98: the erase of a chunk of a FILLING slot makes it STALE at the take, and a reload that passes later leaves it as the
erase does (R99). -/
def State.takeBodyErase (i k : Nat) (s : State) : State :=
  if (s.slotAt i).state = .filling ∧ (s.chunkAt i k).isSome then
    (s.dropChunkJob i k).updChunk i k fun c => { c with state := .stale, mask := 0, hostErased := true }
  else s

/-- R35: an ERASE_SECTOR taken in IDLE at a staging address. -/
def State.stagingErase (tx : HostTxn) (a : Nat) (cut : Bool) (s : State) : State :=
  let l := s.cfg.logicalOf a
  match s.slotOf l with
  | none => s.refuseWrite .slack tx.opcode (some a)
  | some (i, k) =>
    match s.judgeErase i k with
    | some r => s.refuseWrite r tx.opcode (some a)
    | none =>
      let s1 := if k = 0 then s.takeHeaderErase i else s.takeBodyErase i k
      let d := s1.eraseDecision l
      let op : OpRecord :=
        { cls := .eraseSector, opcode := tx.opcode, address := a, region := .staging, sectors := some (l, d.target) }
      ((s1.takeDecision d a).acceptErase tx op (some d) cut).resettle

/-- R30 to R32, R35, R37, R39: an ERASE_SECTOR taken in IDLE. -/
def State.idleEraseSector (tx : HostTxn) (a : Nat) (cut : Bool) (s : State) : State :=
  match s.cfg.kindAt (a / 4096) with
  | some .liveOpen =>
    s.acceptErase tx { cls := .eraseSector, opcode := tx.opcode, address := a, region := .liveOpen, sectors := none }
      none cut
  | some .staging => s.stagingErase tx a cut
  | some .control => s.refuseWrite .controlPage tx.opcode (some a)
  | some .liveProtected | some .bootWindow | none => s.refuseWrite .protectedRegion tx.opcode (some a)

/-- R32: an ERASE_LARGE taken in IDLE. -/
def State.idleEraseLarge (tx : HostTxn) (a : Nat) (cut : Bool) (s : State) : State :=
  if s.largeAccepted a then
    s.acceptErase tx { cls := .eraseLarge, opcode := tx.opcode, address := a, region := .liveOpen, sectors := none }
      none cut
  else s.refuseWrite .largeErase tx.opcode (some a)

/-- R11, R18: a write by tracker state: dropped while an operation is in flight, refused with ERASE_HELD during a hold,
and handed on in IDLE with the refusal echo cleared. -/
def State.takeWrite (op : Byte) (address : Option Nat) (idle : State → State) (s : State) : State :=
  match s.tracker with
  | .programInFlight _ => s
  | .eraseInFlight _ => s
  | .eraseHeld _ _ => s.refuseHeld op address
  | .idle => idle { s with echo := false }

/-! ### Programs (R35, R39, R43, R66 to R68, R94, R95) -/

/-- R66, R67: the judgement of a program into a page of a header sector. -/
def State.judgeHeaderProgram (s : State) (i l page : Nat) : Option Reason :=
  match (s.slotAt i).state with
  | .empty => if s.isClean l then none else some .staleSector
  | .header => if (s.slotAt i).headerMask.getLsbD page then some .pageWritten else none
  | .rejected | .filling | .sealed | .trial | .active | .fallback | .failed | .outdated => some .slotState

/-- R94: the judgement of a program into a page of body sector `k` of a FILLING slot. -/
def SlotRec.judgeChunkProgram (r : SlotRec) (k page : Nat) : Option Reason :=
  match r.summary, r.chunkAt k with
  | some m, some c =>
    if m.pagesNeeded k ≤ page then some .outsideImage
    else match c.state with
      | .stale => some .staleSector
      | .complete | .verified | .mismatch => some .pageWritten
      | .empty | .partial_ => if c.mask.getLsbD page then some .pageWritten else none
  | _, _ => some .outsideImage

/-- R43: the judgement of a program into sector `k` of slot `i`. -/
def State.judgeProgram (s : State) (i k l page : Nat) : Option Reason :=
  if k = 0 then s.judgeHeaderProgram i l page
  else if (s.slotAt i).state = .filling ∧ (s.slotAt i).reload = false then (s.slotAt i).judgeChunkProgram k page
  else some .slotState

/-- R66, R67: a header page joins the mask at the take. -/
def SlotRec.takeHeaderPage (page : Nat) (r : SlotRec) : SlotRec :=
  if r.state = .header then { r with headerMask := addPage r.headerMask page }
  else { r with state := .header, headerMask := addPage 0 page, captured := none }

/-- R95: a chunk page joins the mask at the take. -/
def Chunk.takePage (needed page : Nat) (c : Chunk) : Chunk :=
  let mask := addPage c.mask page
  { c with mask := mask, origin := .written, state := if coversPages mask needed then .complete else .partial_ }

def State.takeProgram (i k page : Nat) (s : State) : State :=
  if k = 0 then s.updSlot i (SlotRec.takeHeaderPage page)
  else s.updChunk i k (Chunk.takePage (((s.slotAt i).summary.map fun m => m.pagesNeeded k).getD 16) page)

/-- R68: manifest words 0 and 1 as a page-0 program's data leaves them, FFh where no byte was sent. -/
def capturedWords (a : Nat) (data : List Byte) : Word × Word :=
  let sent := programBytes a data
  let b (o : Nat) : Byte := (lookupAt (a / 256 * 256 + o) sent).getD 0xFF#8
  (wordOfBytes (b 0) (b 1) (b 2) (b 3), wordOfBytes (b 4) (b 5) (b 6) (b 7))

/-- R68: the capture, and its judgement at the rise of HCS_N. -/
def State.capture (i a : Nat) (data : List Byte) (s : State) : State :=
  let w := capturedWords a data
  if w.1 = manifestMagic ∧ lengthInRange w.2.toNat then s.updSlot i fun r => { r with captured := some w }
  else
    ((s.rejectHeader i .badFormat).appendLog
      { LogEntry.of .rejected with reason := some .badFormat, slot := some i }).resettle

/-- R35: a PROGRAM taken in IDLE at a staging address. -/
def State.stagingProgram (tx : HostTxn) (a : Nat) (s : State) : State :=
  let l := s.cfg.logicalOf a
  let p := s.physical l
  match s.slotOf l with
  | none => s.refuseWrite .slack tx.opcode (some a)
  | some (i, k) =>
    match s.judgeProgram i k l (pageOf a) with
    | some r => s.refuseWrite r tx.opcode (some a)
    | none =>
      let op : OpRecord :=
        { cls := .program, opcode := tx.opcode, address := a, region := .staging, sectors := some (l, p) }
      let s1 := ((s.takeProgram i k (pageOf a)).sendProgram tx (s.translate l (a % 4096))).clearClean l
      let s2 := { s1 with tracker := .programInFlight op }
      if k = 0 ∧ pageOf a = 0 then s2.capture i a tx.data else s2

/-- R170: the page image a program to the request page gives. -/
def requestImage (a : Nat) (data : List Byte) : List Byte :=
  let sent := programBytes (a % 256) data
  (List.range 256).map fun o => (lookupAt o sent).getD 0xFF#8

/-- R168: the address lies in the request page. -/
def State.inRequestPage (s : State) (a : Nat) : Bool :=
  (a - s.cfg.startOf .control * 4096) / 256 == requestPageNo

/-- R11, R30, R31, R35, R37, R39: a PROGRAM taken in IDLE. -/
def State.idleProgram (tx : HostTxn) (a : Nat) (s : State) : State :=
  match s.cfg.kindAt (a / 4096) with
  | some .liveOpen =>
    { s.sendProgram tx a with
      tracker := .programInFlight
        { cls := .program, opcode := tx.opcode, address := a, region := .liveOpen, sectors := none } }
  | some .staging => s.stagingProgram tx a
  | some .control =>
    if s.inRequestPage a then s.judgeRecord (requestImage a tx.data)
    else s.refuseWrite .controlPage tx.opcode (some a)
  | some .liveProtected | some .bootWindow | none => s.refuseWrite .protectedRegion tx.opcode (some a)

/-! ### The ends of operations (R16) -/

/-- R69: the slot's admission job is queued when every page of the manifest has been programmed. -/
def State.headerProgramEnded (i : Nat) (s : State) : State :=
  match (s.slotAt i).captured with
  | none => s
  | some w =>
    if (s.slotAt i).state = .header ∧ coversPages (s.slotAt i).headerMask ((w.2.toNat + 63) / 64) = true ∧
        s.manifestJobs.all (fun m => m.slot != i) = true then
      { s with manifestJobs := joinManifest { slot := i, reload := false } s.manifestJobs }
    else s

/-- R104: the offer of a COMPLETE chunk at the end of the program that completed it. -/
def State.offerChunk (i c : Nat) (s : State) : State :=
  match s.chunkAt i c with
  | none => s
  | some k =>
    if (s.slotAt i).state = .filling ∧ k.state = .complete ∧ k.queued = false ∧
        s.verifyQueue.length < queueCapacity then
      s.joinQueue { kind := .chunk, slot := i, chunk := c }
    else s

/-- R97: a chunk whose program failed. -/
def State.chunkProgramFailed (i c p address : Nat) (s : State) : State :=
  if (s.slotAt i).state = .filling ∧ (s.chunkAt i c).isSome then
    (s.updChunk i c fun k => { k with state := .mismatch }).appendLog
      { s.mismatchEntry .programFail i c p with address := some address }
  else s

/-- R16, R50, R69, R96, R97: the end of a program is reported to the owners of its address. -/
def State.programEnded (op : OpRecord) (failed : Bool) (s : State) : State :=
  let s0 := { s with tracker := .idle }
  match op.sectors with
  | none => s0
  | some (l, p) =>
    let suspect (s : State) : State := if failed then s.markSuspect .programFail p l (some op.address) else s
    match s.slotOf l with
    | none => suspect s0
    | some (i, k) =>
      if k = 0 then ((suspect s0).headerProgramEnded i).resettle
      else if failed then (suspect (s0.chunkProgramFailed i k p op.address)).resettle
      else (s0.offerChunk i k).resettle

/-- R16, R50, R53, R99: the end of an erase is reported to the owners of its address. -/
def State.eraseEnded (op : OpRecord) (failed : Bool) (s : State) : State :=
  let s0 := { s with tracker := .idle }
  match op.sectors with
  | none => s0
  | some (l, p) =>
    if failed then
      ((s0.clearClean l).markSuspect .eraseFail p l (some op.address)).eraseChunk l fun c => { c with state := .stale }
    else s0

/-- R16: the tracker observes a status byte as the flash returned it. -/
def State.observe (raw : Byte) (s : State) : State :=
  let s1 := s.flashObserved raw
  match s.tracker with
  | .programInFlight op => if s.cfg.busy raw then s1 else s1.programEnded op (s.cfg.failed raw)
  | .eraseInFlight op => if s.cfg.busy raw then s1 else s1.eraseEnded op (s.cfg.failed raw)
  | .idle => s1
  | .eraseHeld _ _ => s1

/-- R8: one byte of a host status read: it is observed, and passed to the host as composed. -/
def State.statusByte (s : State) (answer : Byte) : State :=
  let raw := s.flashAnswer answer
  let s1 := s.observe raw
  { s1 with hostOut := s1.hostOut ++ [s1.composeStatus raw] }

/-- An operation is in flight (1.5). -/
def Tracker.inFlight : Tracker → Bool
  | .programInFlight _ => true
  | .eraseInFlight _ => true
  | .idle => false
  | .eraseHeld _ _ => false

/-- R17: the bytes of a poll, until one ends the operation; with the number of bytes read. -/
def State.pollBytes : List Byte → Nat → State → Nat × State
  | [], n, s => (n, s)
  | b :: bs, n, s => if s.tracker.inFlight then State.pollBytes bs (n + 1) (s.observe (s.flashAnswer b)) else (n, s)

/-- R61, R21: a held erase is discarded at a boot event; its records stay offered, and nobody waits for them. -/
def State.discardHeld (s : State) : State :=
  match s.tracker with
  | .eraseHeld _ h =>
    let free (o : Offer) : Offer :=
      if o.owner = .holdMap ∨ o.owner = .holdWear then { o with owner := .nobody } else o
    let s1 := { s with tracker := .idle }.updStore fun st =>
      { st with queue := st.queue.map free, waiting := st.waiting.map free }
    match h.decision with
    | none => s1
    | some d => s1.stagingDiscarded d
  | _ => s

end Sys2Proof.Machine
end

