-- ==== Sys2Proof/Machine/HostCommands.lean ====
section
/-! DEFINITION. The meanings of the host's transactions (1.3, chapter 2): READ to BLOCK, and the dropped transaction. -/

namespace Sys2Proof.Machine

open Sys2Proof

/-! ### Where a byte of a READ comes from (R29) -/

/-- The three kinds of source of R29: the flash at the host's own address, the flash at a translated address, or the
part. -/
inductive Source where
  | host
  | translated (a : Nat)
  | part
  deriving DecidableEq, Repr

/-- R34: the states in which a slot's body is readable. -/
def SlotState.readable : SlotState → Bool
  | .sealed | .trial | .active | .fallback => true
  | .empty | .header | .filling | .rejected | .failed | .outdated => false

/-- R34: the source of a staging byte. -/
def State.stagingSource (s : State) (a : Nat) : Source :=
  let l := s.cfg.logicalOf a
  match s.slotOf l with
  | none => .part
  | some (i, k) =>
    if k = 0 ∨ (s.slotAt i).state.readable then .translated (s.translate l (a % 4096)) else .part

/-- R36: the states of a booted slot whose body the boot window serves. -/
def SlotState.bootable : SlotState → Bool
  | .sealed | .trial | .active | .fallback | .failed | .outdated => true
  | .empty | .header | .filling | .rejected => false

/-- R36: the source of a boot-window byte. -/
def State.bootSource (s : State) (a : Nat) : Source :=
  let o := a - s.cfg.startOf .bootWindow * 4096
  match s.bootedSlot with
  | none => .part
  | some b =>
    if b < s.slotCount ∧ (s.slotAt b).state.bootable ∧ o < ((s.slotAt b).summary.map Summary.imageLen).getD 0 then
      .translated (s.translate (s.logicalSector b (1 + o / 4096)) (o % 4096))
    else .part

/-- R28 to R38: the source of the byte at an address within the capacity. -/
def State.sourceAt (s : State) (a : Nat) : Source :=
  match s.cfg.kindAt (a / 4096) with
  | some .staging => s.stagingSource a
  | some .bootWindow => s.bootSource a
  | some .control => .part
  | some .liveOpen | some .liveProtected | none => .host

/-- R38: the byte the part supplies at an address, with what reading it does: FFh but in the control window. -/
def State.partByte (a : Nat) (s : State) : Byte × State :=
  if s.cfg.kindAt (a / 4096) = some .control then s.windowByte (a - s.cfg.startOf .control * 4096)
  else (0xFF#8, s)

/-- R29: the run a flash byte belongs to: 0 for the host's own address, n + 1 for host sector n of a translated run. -/
def runTag (src : Source) (a : Nat) : Option Nat :=
  match src with
  | .host => some 0
  | .translated _ => some (a / 4096 + 1)
  | .part => none

/-- The flash address of a source. -/
def sourceAddr (src : Source) (a : Nat) : Nat :=
  match src with
  | .host => a
  | .translated b => b
  | .part => a

/-- One more byte taken in the last transaction on the memory side. -/
def bumpLast : List MemTxn → List MemTxn
  | [] => []
  | [t] => [{ t with readLen := t.readLen + 1 }]
  | t :: u :: ts => t :: bumpLast (u :: ts)

/-- R28: the byte after the last of the flash is byte 0. -/
def State.nextAddr (s : State) (a : Nat) : Nat := if a + 1 = s.cfg.bytes then 0 else a + 1

/-- R29: `n` bytes of a READ from address `a`, byte `i` being the next; `prev` is the run of the byte before. Each byte's
source is fixed when it is served. -/
def State.serve (tx : HostTxn) : Nat → Nat → Nat → Option Nat → State → State
  | 0, _, _, _, s => s
  | n + 1, i, a, prev, s =>
    let src := s.sourceAt a
    let tag := runTag src a
    let s1 := match src with
      | .part =>
        let r := s.partByte a
        { r.2 with hostOut := r.2.hostOut ++ [r.1] }
      | .host | .translated _ =>
        { s with
          hostOut := s.hostOut ++ [s.flashByte i (sourceAddr src a)]
          memOut := if tag = prev then bumpLast s.memOut
            else s.memOut ++ [forwardTxn tx (some (sourceAddr src a)) 1] }
    State.serve tx n (i + 1) (s.nextAddr a) tag s1

/-- R28, R29: a READ of `len` data bytes. -/
def State.readRuns (tx : HostTxn) (len : Nat) (s : State) : State :=
  let a := txnAddress tx
  if s.cfg.bytes ≤ a then { s with hostOut := List.replicate len 0xFF#8 }
  else
    let src := s.sourceAt a
    let s1 := match src with
      | .part => s
      | .host | .translated _ => s.send (forwardTxn tx (some (sourceAddr src a)) 0)
    { s1.serve tx len 0 a (runTag src a) with freeCount := s.freeCount + 1 }

/-! ### Meanings -/

/-- READ (R7). -/
def execRead (tx : HostTxn) (len : Nat) (drift : Drift) (s : State) : Host.Outcome State Fault Refusal :=
  .next <| if s.takes .read tx len then (s.begin.drift drift).readRuns tx len else s.begin

/-- STATUS_READ (R8): forwarded in every tracker state; each byte is observed and composed. -/
def execStatusRead (tx : HostTxn) (answers : List Byte) (s : State) : Host.Outcome State Fault Refusal :=
  .next <| if s.takes .statusRead tx answers.length then
    answers.foldl State.statusByte (s.begin.send (forwardTxn tx none answers.length))
  else s.begin

/-- PROGRAM (R11): dropped without a data byte (R3). -/
def execProgram (tx : HostTxn) (s : State) : Host.Outcome State Fault Refusal :=
  .next <| if s.takes .program tx && !tx.data.isEmpty then
    s.begin.takeWrite tx.opcode (some (txnAddress tx)) (State.idleProgram tx (txnAddress tx))
  else s.begin

/-- ERASE_SECTOR (R11). -/
def execEraseSector (tx : HostTxn) (elapsed : Nat) (cut : Bool) (s : State) : Host.Outcome State Fault Refusal :=
  .next <| if s.takes .eraseSector tx then
    (s.begin.tick elapsed).takeWrite tx.opcode (some (txnAddress tx)) (State.idleEraseSector tx (txnAddress tx) cut)
  else s.begin.tick elapsed

/-- ERASE_LARGE (R32). -/
def execEraseLarge (tx : HostTxn) (elapsed : Nat) (cut : Bool) (s : State) : Host.Outcome State Fault Refusal :=
  .next <| if s.takes .eraseLarge tx then
    (s.begin.tick elapsed).takeWrite tx.opcode (some (txnAddress tx)) (State.idleEraseLarge tx (txnAddress tx) cut)
  else s.begin.tick elapsed

/-- ERASE_CHIP (R11): refused with CHIP_ERASE in IDLE; it has no address. -/
def execEraseChip (tx : HostTxn) (s : State) : Host.Outcome State Fault Refusal :=
  .next <| if s.takes .eraseChip tx then
    s.begin.takeWrite tx.opcode none (State.refuseWrite .chipErase tx.opcode none)
  else s.begin

/-- WRITE_ENABLE (R9). -/
def execWriteEnable (tx : HostTxn) (s : State) : Host.Outcome State Fault Refusal :=
  .next <| if s.takes .writeEnable tx then
    { (s.begin.send (forwardTxn tx none 0)).setLatch true with echo := false, pendingWD := false }
  else s.begin

/-- WRITE_DISABLE (R9). -/
def execWriteDisable (tx : HostTxn) (s : State) : Host.Outcome State Fault Refusal :=
  .next <| if s.takes .writeDisable tx then
    { (s.begin.send (forwardTxn tx none 0)).setLatch false with pendingWD := false }
  else s.begin

/-- PASS (R9): carried through; what it does to the flash's latch is free (log entry 9). -/
def execPass (tx : HostTxn) (answers : List Byte) (s : State) : Host.Outcome State Fault Refusal :=
  .next <| if s.takes .pass tx answers.length then
    { (s.begin.send (forwardTxn tx (if tx.addrBytes = [] then none else some (txnAddress tx)) answers.length)).setLatch
        (Config.freeBit s.freeCount 0) with
      hostOut := answers, freeCount := s.freeCount + 1 }
  else s.begin

/-- BLOCK (R10): nothing reaches the flash, and the host receives all-ones. -/
def execBlock (tx : HostTxn) (len : Nat) (s : State) : Host.Outcome State Fault Refusal :=
  .next <| if s.takes .block tx len then { s.begin with hostOut := List.replicate len 0xFF#8 } else s.begin

/-- TRANSACTION_DROPPED (R2): no effect. -/
def execTransactionDropped (_tx : HostTxn) (s : State) : Host.Outcome State Fault Refusal := .next s.begin

end Sys2Proof.Machine
end

