-- ==== Sys2Proof/Machine/RequestCommands.lean ====
section
/-! DEFINITION. The meanings of the requests: each is the taking of a good record of its code (R171, 11.7), with the
arguments its code does not read at 0 (log entry 12). -/

namespace Sys2Proof.Machine

open Sys2Proof

/-- ACTIVATE, code 1 (R126). -/
def execActivate (serial slot : Word) (s : State) : Host.Outcome State Fault Refusal :=
  .next <| s.begin.request serial 1 slot 0 0 0 (State.reqActivate slot)

/-- CONFIRM, code 2 (R127). -/
def execConfirm (serial slot : Word) (s : State) : Host.Outcome State Fault Refusal :=
  .next <| s.begin.request serial 2 slot 0 0 0 (State.reqConfirm slot)

/-- ABANDON, code 3 (R129). -/
def execAbandon (serial slot : Word) (s : State) : Host.Outcome State Fault Refusal :=
  .next <| s.begin.request serial 3 slot 0 0 0 (State.reqAbandon slot)

/-- DISCARD, code 4 (R130). -/
def execDiscard (serial slot : Word) (s : State) : Host.Outcome State Fault Refusal :=
  .next <| s.begin.request serial 4 slot 0 0 0 (State.reqDiscard slot)

/-- CLEAR_STAGING, code 5 (R131). -/
def execClearStaging (serial : Word) (s : State) : Host.Outcome State Fault Refusal :=
  .next <| s.begin.request serial 5 0 0 0 0 State.reqClearStaging

/-- SET_SLOT_CODE, code 6 (R45). -/
def execSetSlotCode (serial code : Word) (s : State) : Host.Outcome State Fault Refusal :=
  .next <| s.begin.request serial 6 code 0 0 0 (State.reqSetSlotCode code)

/-- LOG_FREE, code 7 (R173). -/
def execLogFree (serial n : Word) (s : State) : Host.Outcome State Fault Refusal :=
  .next <| s.begin.request serial 7 n 0 0 0 (State.reqLogFree n)

/-- ACK_ALERT, code 8 (R173). -/
def execAckAlert (serial : Word) (s : State) : Host.Outcome State Fault Refusal :=
  .next <| s.begin.request serial 8 0 0 0 0 State.reqAckAlert

/-- RELOAD, code 9 (R182). -/
def execReload (serial : Word) (s : State) : Host.Outcome State Fault Refusal :=
  .next <| s.begin.request serial 9 0 0 0 0 State.reqReload

/-- KEY_WRITE, code 10 (R158). -/
def execKeyWrite (serial slot value : Word) (s : State) : Host.Outcome State Fault Refusal :=
  .next <| s.begin.request serial 10 slot value 0 0 (State.reqKeyWrite slot value)

/-- KEY_REVOKE, code 11 (R159). -/
def execKeyRevoke (serial slot : Word) (s : State) : Host.Outcome State Fault Refusal :=
  .next <| s.begin.request serial 11 slot 0 0 0 (State.reqKeyRevoke slot)

/-- TARGET_WRITE, code 12 (R163). -/
def execTargetWrite (serial target cls flags : Word) (s : State) : Host.Outcome State Fault Refusal :=
  .next <| s.begin.request serial 12 target cls 0 flags (State.reqTargetWrite target cls flags)

/-- CONFIG_WRITE, code 13 (R165). -/
def execConfigWrite (serial item index value : Word) (s : State) : Host.Outcome State Fault Refusal :=
  .next <| s.begin.request serial 13 item index value 0 (State.reqConfigWrite item index value)

/-- LOCK, code 14 (R161). -/
def execLock (serial : Word) (s : State) : Host.Outcome State Fault Refusal :=
  .next <| s.begin.request serial 14 0 0 0 0 State.reqLock

/-- FACTORY_CLEAR, code 15 (R162). -/
def execFactoryClear (serial : Word) (s : State) : Host.Outcome State Fault Refusal :=
  .next <| s.begin.request serial 15 0 0 0 0 State.reqFactoryClear

/-- The record of a page image is turned away before its code's own rule: BUSY, BAD_RECORD or UNKNOWN_CODE (R171). -/
def State.notCarried (image : List Byte) (s : State) : Bool :=
  s.lastOutcome == .pending || !recordGood image || (imageRule image).isNone

/-- REQUEST_NOT_CARRIED (R171). -/
def execRequestNotCarried (image : List Byte) (s : State) : Host.Outcome State Fault Refusal :=
  .next <| if s.mayRequest && s.notCarried image then { s.begin with echo := false }.judgeRecord image else s.begin

end Sys2Proof.Machine
end

