-- ==== Sys2Proof/Machine/PartCommands.lean ====
section
/-! DEFINITION. The meanings of the part's own steps on the memory side: the ends of operations, polls, the pending
write-disable, the guard, the held erase, and verify reads (1.4 to 1.8, 5.2). -/

namespace Sys2Proof.Machine

open Sys2Proof

/-- R16: a status byte is observed by the tracker if it shows busy 0, and else changes nothing. -/
def State.observeEnd (answer : Byte) (s : State) : State :=
  if s.cfg.busy (s.flashAnswer answer) then s else s.observe (s.flashAnswer answer)

/-- PROGRAM_END (R16; log entry 13). -/
def execProgramEnd (answer : Byte) (s : State) : Host.Outcome State Fault Refusal :=
  .next <| match s.phase, s.tracker with
    | .running, .programInFlight _ => s.begin.observeEnd answer
    | _, _ => s.begin

/-- ERASE_END (R16; log entry 13). -/
def execEraseEnd (answer : Byte) (s : State) : Host.Outcome State Fault Refusal :=
  .next <| match s.phase, s.tracker with
    | .running, .eraseInFlight _ => s.begin.observeEnd answer
    | _, _ => s.begin

/-- STATUS_POLL (R17): a poll whose bytes end without busy 0 was cut by the host (R23), or goes on where the host cannot
cut it (R2; log entry 11). -/
def execStatusPoll (answers : List Byte) (s : State) : Host.Outcome State Fault Refusal :=
  .next <| if s.idleGap && s.tracker.inFlight then
    let r := State.pollBytes answers 0 s.begin
    r.2.send (ownTxn (firstOfClass s.cfg.profile .statusRead) none r.1 (r.2.tracker.inFlight && s.accepts))
  else s.begin

/-- Whether the hold has ended: no condition is open (R19). -/
def Hold.ended (h : Hold) : Bool := !h.recordOpen && !h.guardOpen

/-- R14, R24: the pending write-disable may take the memory side: the tracker is IDLE, or holds an erase that may not be
forwarded yet. -/
def State.disableReady (s : State) : Bool :=
  s.idleGap && s.pendingWD && (match s.tracker with
    | .idle => true
    | .eraseHeld _ h => !h.ended
    | .programInFlight _ => false
    | .eraseInFlight _ => false)

/-- PENDING_WRITE_DISABLE (R14), which the host can cut where the port heeds HCS_N (R2, R23). -/
def execPendingWriteDisable (cut : Bool) (s : State) : Host.Outcome State Fault Refusal :=
  .next <| if s.disableReady then
    let cut := cut && s.accepts
    let s1 := s.begin.send (ownTxn (firstOfClass s.cfg.profile .writeDisable) none 0 cut)
    if cut then s1 else { s1.setLatch false with pendingWD := false }
  else s.begin

/-- R19, R22: the guard condition of a held erase is released once the erase may be forwarded. -/
def State.releaseGuard (s : State) : State :=
  match s.tracker with
  | .eraseHeld op h =>
    if h.guardOpen && s.guardAllows s.clock then { s with tracker := .eraseHeld op { h with guardOpen := false } } else s
  | _ => s

/-- GUARD_RELEASE (R22). -/
def execGuardRelease (elapsed : Nat) (s : State) : Host.Outcome State Fault Refusal :=
  .next (s.begin.tick elapsed).releaseGuard

/-- R20: the held erase's own transaction, with the host's opcode and the translated address. -/
def State.heldTxn (s : State) (op : OpRecord) (h : Hold) (cut : Bool) : MemTxn :=
  { ownTxn (s.entryOf op.opcode) (some (s.eraseAddress op h.decision)) 0 cut with opcode := op.opcode }

/-- R20: a WRITE_ENABLE, then the held erase; a cut leaves the erase held. The host cuts where the port heeds HCS_N (R2). -/
def State.forwardHeld (op : OpRecord) (h : Hold) (cut : SendCut) (s : State) : State :=
  let enable := firstOfClass s.cfg.profile .writeEnable
  match (if s.accepts then cut else .whole) with
  | .inEnable => s.send (ownTxn enable none 0 true)
  | .inErase => ((s.send (ownTxn enable none 0 false)).setLatch true).send (s.heldTxn op h true)
  | .whole =>
    ((s.send (ownTxn enable none 0 false)).setLatch true).forwardErase (s.heldTxn op h false) op h.decision

/-- HELD_ERASE_FORWARD (R20). -/
def execHeldEraseForward (elapsed : Nat) (cut : SendCut) (s : State) : Host.Outcome State Fault Refusal :=
  .next <| match s.tracker with
    | .eraseHeld op h =>
      if s.idleGap && h.ended then (s.begin.tick elapsed).forwardHeld op h cut else s.begin.tick elapsed
    | _ => s.begin.tick elapsed

/-- VERIFY_READ (R87). -/
def execVerifyRead (bytes : Nat) (drift : Drift) (s : State) : Host.Outcome State Fault Refusal :=
  .next ((s.begin.drift drift).verifyRead bytes)

end Sys2Proof.Machine
end

