-- ==== Sys2Proof/Machine/VerdictCommands.lean ====
section
/-! DEFINITION. The meanings of the verdicts of the verify engine's jobs (4.5, 4.6, 6.6, 7.1, 7.2) and of the patrol tick.
A verdict is reached at the fourth byte of its job's last word (R88, log entry 14). -/

namespace Sys2Proof.Machine

open Sys2Proof

/-- R74: the outcome of an admission job that has read its words. -/
def State.admissionOutcome (i : Nat) (words : List Word) (tagGood : Bool) (s : State) : State :=
  match s.admissionFailure i words tagGood with
  | none => s.admitSlot i words
  | some r => s.rejectAdmission i r words

/-- R80: the outcome of a reload job that has read its words. -/
def State.reloadOutcome (i : Nat) (words : List Word) (tagGood : Bool) (s : State) : State :=
  match s.reloadFailure i words tagGood with
  | none => s.reloadPassedSlot i
  | some r => s.reloadFailedSlot i r

/-- ADMISSION_VERDICT (R74). -/
def execAdmissionVerdict (drift : Drift) (s : State) : Host.Outcome State Fault Refusal :=
  let s0 := s.begin.drift drift
  .next <| match s0.verdictJob .admission with
    | none => s0
    | some j => ((s0.endJob j).admissionOutcome j.slot (s0.manifestWords j) (s0.foldMatches j)).resettle

/-- RELOAD_VERDICT (R80). -/
def execReloadVerdict (drift : Drift) (s : State) : Host.Outcome State Fault Refusal :=
  let s0 := s.begin.drift drift
  .next <| match s0.verdictJob .reload with
    | none => s0
    | some j => ((s0.endJob j).reloadOutcome j.slot (s0.manifestWords j) (s0.foldMatches j)).resettle

/-- CHUNK_VERDICT (R107). -/
def execChunkVerdict (drift : Drift) (s : State) : Host.Outcome State Fault Refusal :=
  let s0 := s.begin.drift drift
  .next <| match s0.verdictJob .chunk with
    | none => s0
    | some j => ((s0.endJob j).chunkVerdict j.slot j.chunk (s0.physical j.sector) (s0.foldMatches j)).resettle

/-- PATROL_VERDICT (R117). -/
def execPatrolVerdict (drift : Drift) (s : State) : Host.Outcome State Fault Refusal :=
  let s0 := s.begin.drift drift
  .next <| match s0.verdictJob .patrol with
    | none => s0
    | some j => ((s0.endJob j).patrolVerdict j.slot j.chunk (s0.physical j.sector) (s0.foldMatches j)).resettle

/-- BOOT_SCAN_MANIFEST_VERDICT (R119). -/
def execBootScanManifestVerdict (drift : Drift) (s : State) : Host.Outcome State Fault Refusal :=
  let s0 := s.begin.drift drift
  .next <| match s0.verdictJob .scanManifest, s0.scan with
    | some j, some c => ((s0.endJob j).scanManifestVerdict c (s0.manifestWords j) (s0.foldMatches j)).resettle
    | _, _ => s0

/-- BOOT_SCAN_CHUNK_VERDICT (R120). -/
def execBootScanChunkVerdict (drift : Drift) (s : State) : Host.Outcome State Fault Refusal :=
  let s0 := s.begin.drift drift
  .next <| match s0.verdictJob .scanChunk, s0.scan with
    | some j, some c => ((s0.endJob j).scanChunkVerdict c (s0.physical j.sector) (s0.foldMatches j)).resettle
    | _, _ => s0

/-! ### Patrol (R114, R115) -/

/-- The chunks of every slot, slot by slot. -/
def State.allChunks (s : State) : List (Nat × Nat) :=
  s.slots.zipIdx.flatMap fun (r, i) => (List.range' 1 r.chunks.length).map fun c => (i, c)

/-- R115: the chunks in the order of the walk from the pointer. -/
def State.walk (s : State) : List (Nat × Nat) :=
  let before (p : Nat × Nat) : Bool :=
    decide (p.1 < s.patrolSlot) || (p.1 == s.patrolSlot && decide (p.2 < s.patrolChunk))
  s.allChunks.filter (fun p => !before p) ++ s.allChunks.filter before

/-- R115: chunk `c` of slot `i` is eligible. -/
def State.patrolEligible (s : State) (p : Nat × Nat) : Bool :=
  (s.slotAt p.1).patrolled &&
  match s.chunkAt p.1 p.2 with
  | some k => k.state == .verified && !k.queued
  | none => false

/-- R115: the pointer after the chunk taken, in the walk's order. -/
def State.pointerAfter (s : State) (p : Nat × Nat) : Nat × Nat :=
  if p.2 < (s.slotAt p.1).chunks.length then (p.1, p.2 + 1) else ((p.1 + 1) % s.slotCount, 1)

/-- R115: the three outcomes of a tick. -/
def State.patrolStep (s : State) : State :=
  match s.walk.find? s.patrolEligible with
  | none => s
  | some p =>
    if s.verifyQueue.length < queueCapacity then
      ({ s.joinQueue { kind := .patrol, slot := p.1, chunk := p.2 } with
        patrolSlot := (s.pointerAfter p).1, patrolChunk := (s.pointerAfter p).2 }).startJob
    else s

/-- PATROL_TICK (R115): it takes effect when the timer is due (R114, log entry 35). -/
def execPatrolTick (elapsed : Nat) (s : State) : Host.Outcome State Fault Refusal :=
  let s0 := s.begin.tick elapsed
  .next <| match s0.phase, s0.nextTick with
    | .running, some t =>
      if t ≤ s0.clock then { s0 with nextTick := some (t + s0.cfg.settings.patrolPeriod * 1000) }.patrolStep else s0
    | _, _ => s0

end Sys2Proof.Machine
end

