-- ==== Sys2Proof/Machine/ResetCommands.lean ====
section
/-! DEFINITION. The meanings of boot events, part resets and start-up (8.5, chapter 12). -/

namespace Sys2Proof.Machine

open Sys2Proof

/-! ### Host resets (R133, R138, R189) -/

/-- HOST_RESET_SEEN (R133). -/
def execHostResetSeen (s : State) : Host.Outcome State Fault Refusal :=
  .next <| if s.phase == .running && !s.hrstDriven && s.hrstSeenHigh then
    (({ s.begin with hrstDriven := true, portOpen := false }.discardHeld).beginBoot false).resettle
  else s.begin

/-- R138: the boot event is settled and every record it offered has been written. -/
def State.releaseReady (s : State) : Bool :=
  s.phase == .running && s.hrstDriven && (s.boot.any BootEvent.settled) && !s.store.owes .boot

/-- The end of start-up, where it left no record in the queue: a due compaction holds no append back any more than R148
says (DESIGN CHOICE, log entry 47). -/
def Store.startEnded (st : Store) : Store := if st.offers = [] then { st with startHold := false } else st

/-- R138, R187: HRST_N is released and the port opens; at the end of start-up the patrol timer starts (R114). -/
def State.releaseHost (s : State) : State :=
  { s with
    store := s.store.startEnded
    hrstDriven := false, hrstSeenHigh := false, portOpen := true, boot := none
    nextTick :=
      if s.boot.any BootEvent.startup then
        if s.cfg.settings.patrolPeriod = 0 then none else some (s.clock + s.cfg.settings.patrolPeriod * 1000)
      else s.nextTick }

/-- HRST_RELEASE (R138). -/
def execHrstRelease (elapsed : Nat) (s : State) : Host.Outcome State Fault Refusal :=
  let s0 := s.begin.tick elapsed
  .next <| if s0.releaseReady then s0.releaseHost else s0

/-- HRST_N_SEEN_HIGH (R133): only the running part releases the line. -/
def execHrstNSeenHigh (s : State) : Host.Outcome State Fault Refusal :=
  .next <| if s.phase == .running && !s.hrstDriven then { s.begin with hrstSeenHigh := true } else s.begin

/-! ### Part resets (R181) -/

/-- POWER_ON (R181). -/
def execPowerOn (rowBlank : Bool) (s : State) : Host.Outcome State Fault Refusal := .next (s.partReset rowBlank)

/-- RESET_IN_ASSERT (R181): nothing while the part has no supply. -/
def execResetInAssert (rowBlank : Bool) (s : State) : Host.Outcome State Fault Refusal :=
  .next <| if s.phase = .unpowered then s.begin else s.partReset rowBlank

/-- POWER_LOSS (R141): the part without supply drives nothing. -/
def execPowerLoss (rowBlank : Bool) (s : State) : Host.Outcome State Fault Refusal :=
  .next { s.partReset rowBlank with phase := .unpowered, hrstDriven := false }

/-! ### Start-up, steps 1 and 2 (R142, R183) -/

/-- R142: a row loaded with its defaults when it is blank, fails its check or breaks its conditions; the flag says that
CONFIG_DEFAULTED is set for it. -/
def loadRow {α : Type} (valid : α → Bool) (defaults : α) (row : Row α) : α × Bool :=
  match row.content? with
  | some c => if valid c then (c, false) else (defaults, true)
  | none => (defaults, row.isGarbled)

/-- R142: of two targets that both give boot-mapped, the lower-numbered keeps it. -/
def keepFirstMapped : Bool → List TargetStatic → List TargetStatic
  | _, [] => []
  | seen, t :: ts =>
    { t with bootMapped := t.bootMapped && !seen } :: keepFirstMapped (seen || t.bootMapped) ts

/-- R142: the configuration in force that the stored rows give, and whether a row was replaced. -/
def Store.loadConfig (st : Store) : InForce × Bool :=
  let g := loadRow geometryValid defaultGeometry st.geometryRow
  let p := loadRow (profileValid g.1) (defaultProfile g.1) st.profileRow
  let t := loadRow (partitionValid g.1.sectors) (defaultPartition g.1.sectors) st.partitionRow
  let c := loadRow (fun _ => true) defaultSettings st.settingsRow
  let n := stagingNumbers t.1 c.1.spareCount
  ({ geometry := g.1, profile := p.1, partition := t.1, settings := c.1, sPhys := n.1, sSp := n.2 },
    g.2 || p.2 || t.2 || c.2 || decide (n.1 / 4 < c.1.spareCount))

/-- R142: the static target records that the stored rows give, and whether a row was replaced. -/
def Store.loadStatics (st : Store) : List TargetStatic × Bool :=
  let rows := st.targetRows.map fun r => r.content?.getD TargetStatic.blank
  (keepFirstMapped false rows,
    st.targetRows.any Row.isGarbled || decide (1 < (rows.filter TargetStatic.bootMapped).length))

/-- R142, R180: the serial number shown, all-ones where the identity row is blank or fails its check. -/
def Store.serial (st : Store) : List Byte := st.identityRow.content?.getD (List.replicate 16 0xFF#8)

/-- R183: the rows are loaded, and what follows from them is fixed until the next start-up. -/
def State.loadRows (s : State) : State :=
  let c := s.store.loadConfig
  let t := s.store.loadStatics
  { s with
    cfg := c.1
    configDefaulted := c.2 || s.store.keyRow.isGarbled || t.2 || s.store.identityRow.isGarbled
    configChanged := false
    keys := s.store.keyContent.keys
    locked := s.store.keyContent.locked
    statics := t.1
    identity := identityPage s.store.serial c.1 }

/-- STARTUP (R183): the reset ends, and the timebase starts from 0 (R181). -/
def execStartup (s : State) : Host.Outcome State Fault Refusal :=
  .next <| if s.phase = .inReset then { s.begin.loadRows with clock := 0, phase := .idleWait } else s.begin

/-! ### Start-up, steps 3 to 6 (R184 to R187) -/

/-- R184: the status bytes of the wait, until one shows busy 0; with the number of bytes read and whether it came. -/
def State.idleBytes : List Byte → Nat → State → Nat × Bool × State
  | [], n, s => (n, false, s)
  | b :: bs, n, s =>
    let raw := s.flashAnswer b
    if s.cfg.busy raw then State.idleBytes bs (n + 1) (s.flashObserved raw) else (n + 1, true, s.flashObserved raw)

/-- FLASH_IDLE_WAIT_END (R184). -/
def execFlashIdleWaitEnd (answers : List Byte) (s : State) : Host.Outcome State Fault Refusal :=
  .next <| if s.phase = .idleWait then
    let r := State.idleBytes answers 0 s.begin
    let s1 := r.2.2.send (ownTxn (firstOfClass s.cfg.profile .statusRead) none r.1 false)
    if r.2.1 then { s1 with phase := .running }.afterIdleWait else s1
  else s.begin

end Sys2Proof.Machine
end

