-- ==== Sys2Proof/Machine/StoreCommands.lean ====
section
/-! DEFINITION. The meanings of the record store's steps (chapter 9). -/

namespace Sys2Proof.Machine

open Sys2Proof

/-- A step of the record store, which works while the part runs. -/
def State.storeStep (f : State → State) (s : State) : State := if s.phase = .running then f s.begin else s.begin

/-- RECORD_WRITE_BEGIN (R146). -/
def execRecordWriteBegin (s : State) : Host.Outcome State Fault Refusal :=
  .next <| s.storeStep fun s => s.updStore Store.beginRecord

/-- R146: the record write in progress ends, and the unit that offered the record is told. -/
def State.recordWritten (s : State) : State :=
  match s.store.port with
  | some (.record h pos r) => ((s.updStore fun st => st.endRecord h pos r).releaseHold).completeRequest
  | _ => s

/-- RECORD_WRITE_END (R146). -/
def execRecordWriteEnd (s : State) : Host.Outcome State Fault Refusal := .next <| s.storeStep State.recordWritten

/-- ROW_WRITE_BEGIN (R141). -/
def execRowWriteBegin (s : State) : Host.Outcome State Fault Refusal :=
  .next <| s.storeStep fun s => s.updStore Store.beginRow

/-- R143: the row write in progress ends, and the request that waits for it is told. -/
def State.rowWritten (s : State) : State :=
  match s.store.port with
  | some (.row w) => (s.updStore fun st => { st.storeRow w with port := none }).completeRequest
  | _ => s

/-- ROW_WRITE_END (R143). -/
def execRowWriteEnd (s : State) : Host.Outcome State Fault Refusal := .next <| s.storeStep State.rowWritten

/-- COMPACTION_START (R149). -/
def execCompactionStart (s : State) : Host.Outcome State Fault Refusal := .next <| s.storeStep State.startCompaction

/-- SNAPSHOT_RECORD_WRITE (R141, R149): the write of the next snapshot record begins, or the one in progress ends (log entry
17). -/
def execSnapshotRecordWrite (s : State) : Host.Outcome State Fault Refusal := .next <| s.storeStep State.writeSnapshot

/-- HALF_ERASE_END (R151). -/
def execHalfEraseEnd (half : Half) (s : State) : Host.Outcome State Fault Refusal :=
  .next <| s.storeStep fun s => s.updStore fun st => st.updHalf half HalfState.erased

end Sys2Proof.Machine
end

