-- ==== Sys2Proof/Machine/Dispatch.lean ====
section
/-! DEFINITION. The dispatch: one arm per command, each a direct call of its meaning. -/

namespace Sys2Proof.Machine

open Sys2Proof

def exec (i : Instr) (s : State) : Host.Outcome State Fault Refusal :=
  match i with
  | .read tx len drift => Sys2Proof.Machine.execRead tx len drift s
  | .statusRead tx answers => Sys2Proof.Machine.execStatusRead tx answers s
  | .program tx => Sys2Proof.Machine.execProgram tx s
  | .eraseSector tx elapsed cut => Sys2Proof.Machine.execEraseSector tx elapsed cut s
  | .eraseLarge tx elapsed cut => Sys2Proof.Machine.execEraseLarge tx elapsed cut s
  | .eraseChip tx => Sys2Proof.Machine.execEraseChip tx s
  | .writeEnable tx => Sys2Proof.Machine.execWriteEnable tx s
  | .writeDisable tx => Sys2Proof.Machine.execWriteDisable tx s
  | .pass tx answers => Sys2Proof.Machine.execPass tx answers s
  | .block tx len => Sys2Proof.Machine.execBlock tx len s
  | .transactionDropped tx => Sys2Proof.Machine.execTransactionDropped tx s
  | .activate serial slot => Sys2Proof.Machine.execActivate serial slot s
  | .confirm serial slot => Sys2Proof.Machine.execConfirm serial slot s
  | .abandon serial slot => Sys2Proof.Machine.execAbandon serial slot s
  | .discard serial slot => Sys2Proof.Machine.execDiscard serial slot s
  | .clearStaging serial => Sys2Proof.Machine.execClearStaging serial s
  | .setSlotCode serial code => Sys2Proof.Machine.execSetSlotCode serial code s
  | .logFree serial n => Sys2Proof.Machine.execLogFree serial n s
  | .ackAlert serial => Sys2Proof.Machine.execAckAlert serial s
  | .reload serial => Sys2Proof.Machine.execReload serial s
  | .keyWrite serial slot value => Sys2Proof.Machine.execKeyWrite serial slot value s
  | .keyRevoke serial slot => Sys2Proof.Machine.execKeyRevoke serial slot s
  | .targetWrite serial target cls flags => Sys2Proof.Machine.execTargetWrite serial target cls flags s
  | .configWrite serial item index value => Sys2Proof.Machine.execConfigWrite serial item index value s
  | .lock serial => Sys2Proof.Machine.execLock serial s
  | .factoryClear serial => Sys2Proof.Machine.execFactoryClear serial s
  | .requestNotCarried image => Sys2Proof.Machine.execRequestNotCarried image s
  | .programEnd answer => Sys2Proof.Machine.execProgramEnd answer s
  | .eraseEnd answer => Sys2Proof.Machine.execEraseEnd answer s
  | .statusPoll answers => Sys2Proof.Machine.execStatusPoll answers s
  | .pendingWriteDisable cut => Sys2Proof.Machine.execPendingWriteDisable cut s
  | .guardRelease elapsed => Sys2Proof.Machine.execGuardRelease elapsed s
  | .heldEraseForward elapsed cut => Sys2Proof.Machine.execHeldEraseForward elapsed cut s
  | .verifyRead bytes drift => Sys2Proof.Machine.execVerifyRead bytes drift s
  | .admissionVerdict drift => Sys2Proof.Machine.execAdmissionVerdict drift s
  | .reloadVerdict drift => Sys2Proof.Machine.execReloadVerdict drift s
  | .chunkVerdict drift => Sys2Proof.Machine.execChunkVerdict drift s
  | .patrolTick elapsed => Sys2Proof.Machine.execPatrolTick elapsed s
  | .patrolVerdict drift => Sys2Proof.Machine.execPatrolVerdict drift s
  | .hostResetSeen => Sys2Proof.Machine.execHostResetSeen s
  | .bootScanManifestVerdict drift => Sys2Proof.Machine.execBootScanManifestVerdict drift s
  | .bootScanChunkVerdict drift => Sys2Proof.Machine.execBootScanChunkVerdict drift s
  | .hrstRelease elapsed => Sys2Proof.Machine.execHrstRelease elapsed s
  | .recordWriteBegin => Sys2Proof.Machine.execRecordWriteBegin s
  | .recordWriteEnd => Sys2Proof.Machine.execRecordWriteEnd s
  | .rowWriteBegin => Sys2Proof.Machine.execRowWriteBegin s
  | .rowWriteEnd => Sys2Proof.Machine.execRowWriteEnd s
  | .compactionStart => Sys2Proof.Machine.execCompactionStart s
  | .snapshotRecordWrite => Sys2Proof.Machine.execSnapshotRecordWrite s
  | .halfEraseEnd half => Sys2Proof.Machine.execHalfEraseEnd half s
  | .powerOn rowBlank => Sys2Proof.Machine.execPowerOn rowBlank s
  | .resetInAssert rowBlank => Sys2Proof.Machine.execResetInAssert rowBlank s
  | .startup => Sys2Proof.Machine.execStartup s
  | .flashIdleWaitEnd answers => Sys2Proof.Machine.execFlashIdleWaitEnd answers s
  | .powerLoss rowBlank => Sys2Proof.Machine.execPowerLoss rowBlank s
  | .hrstNSeenHigh => Sys2Proof.Machine.execHrstNSeenHigh s

end Sys2Proof.Machine
end

