-- ==== Sys2Proof/Safety.lean ====
section
/-! DEFINITION. What counts as a safe state of the part, in the terms the statements use: bounds of the lists, the lines to
the host, waits that something will end, the sector map, and the flash's canonical form. -/

namespace Sys2Proof.Machine

open Sys2Proof

/-- R103, R145, R174: no list with a stated capacity is longer, and offers wait only behind a full append queue; 3.1, 8.1:
there are 2^code slot records and 16 target records. -/
def State.bounded (s : State) : Prop :=
  s.log.length ≤ 64 ∧ s.verifyQueue.length ≤ 32 ∧ s.store.queue.length ≤ 16 ∧
  (s.store.waiting = [] ∨ s.store.queue.length = 16) ∧ s.slots.length = 2 ^ s.code ∧ s.targets.length = 16

/-- R2, R133, R181, R187: the port is open only while the part runs and does not drive HRST_N, the line is driven through
a reset and start-up, and while the part runs only for a boot event in progress. -/
def State.linesSafe (s : State) : Prop :=
  (s.portOpen = true → s.phase = .running ∧ s.hrstDriven = false) ∧
  (s.phase = .inReset ∨ s.phase = .idleWait → s.hrstDriven = true) ∧
  (s.phase = .running → s.hrstDriven = true → s.boot.isSome = true)

/-- R19, R145, R172: a hold with its record condition open still has a record to be written, and a PENDING request a record
or a row. -/
def State.waitsBacked (s : State) : Prop :=
  (∀ op h, s.tracker = .eraseHeld op h → h.recordOpen = true →
    s.store.owes .holdMap = true ∨ s.store.owes .holdWear = true) ∧
  (s.lastOutcome = .pending → s.store.owes .request = true ∨ s.store.rowBusy = true)

/-- R46, R47: no two logical sectors share a physical sector, no spare is mapped or listed twice, and the move of a held
erase is still possible. -/
def State.mapSound (s : State) : Prop :=
  (∀ l l', l < s.cfg.sLog → l' < s.cfg.sLog → s.physical l = s.physical l' → l = l') ∧
  (∀ p, p ∈ s.pool → ∀ l, l < s.cfg.sLog → s.physical l ≠ p) ∧
  s.pool.Nodup ∧
  (∀ op h d, s.tracker = .eraseHeld op h → h.decision = some d → d.moves = true →
    d.logical < s.cfg.sLog ∧ d.source = s.physical d.logical ∧ d.target ∈ s.pool)

/-- The flash's contents and the sparse tables in canonical form (log entries 5 and 33): keys strictly rising, and no entry
equal to what an unlisted key reads as. -/
abbrev State.formsWf (s : State) : Prop :=
  s.flash.wf = true ∧ tableWf (fun l => l) s.map = true ∧ tableWf (fun _ => Health.blank) s.health = true ∧
  tableWf (fun _ => 0) s.strikes = true

/-- R39, R171: the port takes a request record that is not turned away with BUSY. -/
abbrev State.takesRequests (s : State) : Prop :=
  s.phase = .running ∧ s.portOpen = true ∧ s.hrstDriven = false ∧ s.tracker = .idle ∧ s.lastOutcome ≠ .pending

/-- R11, R171: what the take of a good record does before the rule of its code: the echo is cleared, and the record and
the last-request fields are in place. -/
def State.taken (s : State) (serial code a1 a2 a3 a4 : Word) : State :=
  { s with
    hostOut := [], memOut := [], echo := false, reqPage := recordImage serial code a1 a2 a3 a4,
    lastSerial := some serial, lastCode := some code }

/-- R171: a request refused by its rule: its outcome and reason, and nothing else. -/
def State.turnedDown (s : State) (r : ReqReason) : State := { s with lastOutcome := .refused, lastReason := some r }

/-- The outcome of a step is a next state for which a property holds. -/
def staysIn (P : State → Prop) (s : State) : Prop := ∀ s', step s = .next s' → P s'

end Sys2Proof.Machine
end

