-- ==== Sys2Proof/Certificates/Slice0/Obligations.lean ====
section
/-! DEFINITION. The statements for the provers. -/

open Sys2Proof Sys2Proof.Machine

/-! ### The queue -/

/-- A step takes the command at the front of the queue and runs it with the queue's rest. -/
def Obligations.StepTakesFront : Prop :=
  ∀ (c : Instr) (s : State), step { s with pending := c :: s.pending } = exec c s

/-! ### Invariants (Safety) -/

/-- The state right after a part reset at factory state meets every invariant below. -/
def Obligations.InvariantsAtReset : Prop :=
  State.reset.bounded ∧ State.reset.linesSafe ∧ State.reset.waitsBacked ∧ State.reset.mapSound ∧ State.reset.formsWf

/-- R103, R145, R174: every step keeps the lists within their capacities. -/
def Obligations.BoundsKept : Prop := ∀ s : State, s.bounded → staysIn State.bounded s

/-- R2, R133, R181, R187: every step keeps the rule of the lines to the host. -/
def Obligations.LinesKept : Prop := ∀ s : State, s.linesSafe → staysIn State.linesSafe s

/-- R19, R145, R172: no step leaves a hold or a PENDING request waiting for nothing. -/
def Obligations.WaitsKept : Prop := ∀ s : State, s.waitsBacked → staysIn State.waitsBacked s

/-- R46, R47: every step keeps the map one-to-one, but for the two steps of a start-up that take it from the journal. -/
def Obligations.MapKept : Prop :=
  ∀ s : State, s.mapSound → s.formsWf →
    (∀ c, s.pending.head? = some c → c ≠ .startup ∧ ∀ answers, c ≠ .flashIdleWaitEnd answers) →
    staysIn State.mapSound s

/-- Log entries 5 and 33, the model's choice of form: every step keeps the flash's contents and the sparse tables canonical,
so that equal contents are equal data. -/
def Obligations.FormsKept : Prop := ∀ s : State, s.formsWf → staysIn State.formsWf s

/-! ### Host transactions -/

/-- R9: WRITE_ENABLE, WRITE_DISABLE and PASS are forwarded; nothing of the part changes but the flags the first two clear.
What each does to the flash's latch is R1's, and left free after a PASS (log entry 9, the model's choice). -/
def Obligations.CommandsPassedOn : Prop :=
  ∀ (tx : HostTxn) (answers : List Byte) (s : State),
    (s.takes .writeEnable tx = true →
      exec (.writeEnable tx) s = .next { s with
        hostOut := [], memOut := [forwardTxn tx none 0], echo := false, pendingWD := false,
        flash := { s.flash with latch := true } }) ∧
    (s.takes .writeDisable tx = true →
      exec (.writeDisable tx) s = .next { s with
        hostOut := [], memOut := [forwardTxn tx none 0], pendingWD := false,
        flash := { s.flash with latch := false } }) ∧
    (s.takes .pass tx answers.length = true →
      ∃ latch n, exec (.pass tx answers) s = .next { s with
        hostOut := answers
        memOut := [forwardTxn tx (if tx.addrBytes = [] then none else some (txnAddress tx)) answers.length]
        flash := { s.flash with latch := latch }, freeCount := n })

/-- R10: a BLOCK transaction is answered with all-ones, reaches nothing and changes nothing; an opcode in no entry is
BLOCK with an address length of 0. -/
def Obligations.BlockAllOnes : Prop :=
  (∀ (tx : HostTxn) (len : Nat) (s : State), s.takes .block tx len = true →
    exec (.block tx len) s = .next { s with hostOut := List.replicate len 0xFF#8, memOut := [] }) ∧
  (∀ (s : State) (op : Byte), (∀ e ∈ s.cfg.profile, e.opcode ≠ op) →
    s.entryOf op = { opcode := op, cls := .block, addrLen := 0, dummyLen := 0 })

/-- R2: a dropped transaction has no effect; while the port is closed or the part drives HRST_N low, every host
transaction is dropped, the time that passes with an erase apart. -/
def Obligations.DroppedNoEffect : Prop :=
  ∀ (tx : HostTxn) (s : State),
    exec (.transactionDropped tx) s = .next { s with hostOut := [], memOut := [] } ∧
    (s.portOpen = false ∨ s.hrstDriven = true → ∀ (len : Nat) (answers : List Byte),
      exec (.read tx len []) s = .next { s with hostOut := [], memOut := [] } ∧
      exec (.statusRead tx answers) s = .next { s with hostOut := [], memOut := [] } ∧
      exec (.program tx) s = .next { s with hostOut := [], memOut := [] } ∧
      exec (.eraseSector tx 0 false) s = .next { s with hostOut := [], memOut := [] } ∧
      exec (.eraseLarge tx 0 false) s = .next { s with hostOut := [], memOut := [] } ∧
      exec (.eraseChip tx) s = .next { s with hostOut := [], memOut := [] } ∧
      exec (.writeEnable tx) s = .next { s with hostOut := [], memOut := [] } ∧
      exec (.writeDisable tx) s = .next { s with hostOut := [], memOut := [] } ∧
      exec (.pass tx answers) s = .next { s with hostOut := [], memOut := [] } ∧
      exec (.block tx len) s = .next { s with hostOut := [], memOut := [] })

/-- R8: what the host sees of a status byte, by the hold and the echo, bit by bit. -/
def Obligations.StatusComposed : Prop :=
  ∀ (s : State) (raw : Byte) (i : Nat), i < 8 → s.cfg.geometry.busyBit ≠ s.cfg.geometry.failBit →
    s.cfg.geometry.busyBit < 8 → s.cfg.geometry.failBit < 8 →
    (∀ op h, s.tracker = .eraseHeld op h →
      (s.composeStatus raw).getLsbD i = (raw.getLsbD i || decide (i = s.cfg.geometry.busyBit))) ∧
    ((∀ op h, s.tracker ≠ .eraseHeld op h) → s.echo = true →
      (s.composeStatus raw).getLsbD i =
        (if i = s.cfg.geometry.busyBit then false else if i = s.cfg.geometry.failBit then true else raw.getLsbD i)) ∧
    ((∀ op h, s.tracker ≠ .eraseHeld op h) → s.echo = false → s.composeStatus raw = raw)

/-- R8, R16: with the tracker IDLE or holding an erase and the flash idle, a STATUS_READ changes nothing, and the host
receives each byte as composed. -/
def Obligations.StatusReadQuiet : Prop :=
  ∀ (tx : HostTxn) (answers : List Byte) (s : State), s.takes .statusRead tx answers.length = true →
    s.tracker.inFlight = false → s.flash.op = none → s.flash.ignored = false →
    exec (.statusRead tx answers) s = .next { s with
      hostOut := answers.map s.composeStatus, memOut := [forwardTxn tx none answers.length] }

/-- R29 to R31: a READ whose bytes all lie in LIVE_OPEN, LIVE_PROTECTED or no entry returns the flash's bytes at the host's
own addresses in one run, and changes nothing; only the counter behind the free values goes on. -/
def Obligations.ReadOwnAddress : Prop :=
  ∀ (tx : HostTxn) (len : Nat) (s : State), s.takes .read tx len = true → s.flash.op = none →
    0 < len → txnAddress tx + len ≤ s.cfg.bytes →
    (∀ i, i < len → s.sourceAt (txnAddress tx + i) = .host) →
    exec (.read tx len []) s = .next { s with
      hostOut := (List.range len).map fun i => cellAt s.flash.cells (txnAddress tx + i)
      memOut := [forwardTxn tx (some (txnAddress tx)) len]
      freeCount := s.freeCount + 1 }

/-- R28 to R38: the source of a byte within the capacity, by the kind of the entry its sector lies in; a READ that starts
beyond the capacity returns all-ones from no source and changes nothing; and one that runs over the flash's last byte goes
on at byte 0 (in one run, log entry 26). -/
def Obligations.SourceOfByte : Prop :=
  (∀ (s : State) (a : Nat), a < s.cfg.bytes →
    (s.cfg.kindAt (a / 4096) = none ∨ s.cfg.kindAt (a / 4096) = some .liveOpen ∨
      s.cfg.kindAt (a / 4096) = some .liveProtected → s.sourceAt a = .host) ∧
    (s.cfg.kindAt (a / 4096) = some .control → s.sourceAt a = .part) ∧
    (s.cfg.kindAt (a / 4096) = some .staging →
      let l := a / 4096 - s.cfg.stagingStart
      s.sourceAt a =
        if s.slotCount * s.slotSize ≤ l then .part
        else if l % s.slotSize = 0 ∨ (s.slotAt (l / s.slotSize)).state = .sealed ∨
            (s.slotAt (l / s.slotSize)).state = .trial ∨ (s.slotAt (l / s.slotSize)).state = .active ∨
            (s.slotAt (l / s.slotSize)).state = .fallback then
          .translated ((s.cfg.stagingStart + s.physical l) * 4096 + a % 4096)
        else .part) ∧
    (s.cfg.kindAt (a / 4096) = some .bootWindow →
      let o := a - s.cfg.startOf .bootWindow * 4096
      (s.bootedSlot = none → s.sourceAt a = .part) ∧
      (∀ b, s.bootedSlot = some b →
        let r := s.slotAt b
        let served : Prop := b < s.slotCount ∧ r.state ≠ .empty ∧ r.state ≠ .header ∧ r.state ≠ .filling ∧
          r.state ≠ .rejected ∧ ∃ m, r.summary = some m ∧ o < m.imageLen
        let l := b * s.slotSize + 1 + o / 4096
        (served → s.sourceAt a = .translated ((s.cfg.stagingStart + s.physical l) * 4096 + o % 4096)) ∧
        (¬ served → s.sourceAt a = .part)))) ∧
  (∀ (tx : HostTxn) (len : Nat) (s : State), s.takes .read tx len = true → s.cfg.bytes ≤ txnAddress tx →
    exec (.read tx len []) s = .next { s with hostOut := List.replicate len 0xFF#8, memOut := [] }) ∧
  (∀ (tx : HostTxn) (s : State), s.takes .read tx 2 = true → s.flash.op = none →
    txnAddress tx + 1 = s.cfg.bytes → s.sourceAt (txnAddress tx) = .host → s.sourceAt 0 = .host →
    exec (.read tx 2 []) s = .next { s with
      hostOut := [cellAt s.flash.cells (txnAddress tx), cellAt s.flash.cells 0]
      memOut := [forwardTxn tx (some (txnAddress tx)) 2], freeCount := s.freeCount + 1 })

/-- R38, R157, R169, R172, R174, R176 to R180: a READ of one byte of the control window. The request page gives the byte of
its current image, but FFh for the value and the check of a KEY_WRITE that has written a key slot (R157; that it is FFh is
log entry 49, the model's choice). A report page gives the byte of its snapshot, a fresh one at its byte 0 or where it has
none (an old snapshot also where the slot code has since put its slot out of range: log entry 50, the model's choice), and
byte 0 of log page 0 releases the alert under ON_READ; nothing else changes but the counter behind the free values. ALERT_N
is driven exactly while an alert is pending, which an entry of a kind in the mask sets. The words of the status, slot and
target pages, the bytes of the chunk-state pages and the words of a log entry are as their tables give them. -/
def Obligations.ReadRequestPage : Prop :=
  (∀ (tx : HostTxn) (o : Nat) (s : State), s.takes .read tx 1 = true → o < 256 →
    txnAddress tx = s.cfg.startOf .control * 4096 + 512 + o → s.cfg.kindAt (txnAddress tx / 4096) = some .control →
    let keyHeld : Prop := s.lastCode = some 10 ∧ (s.lastOutcome = .pending ∨ s.lastOutcome = .done)
    let hidden : Prop := keyHeld ∧ ((16 ≤ o ∧ o < 20) ∨ (28 ≤ o ∧ o < 32))
    (¬ hidden → exec (.read tx 1 []) s = .next { s with
      hostOut := [s.reqPage.getD o 0xFF#8], memOut := [], freeCount := s.freeCount + 1 }) ∧
    (hidden → exec (.read tx 1 []) s = .next { s with
      hostOut := [0xFF#8], memOut := [], freeCount := s.freeCount + 1 })) ∧
  (∀ (tx : HostTxn) (p o : Nat) (page : List Byte) (s : State), s.takes .read tx 1 = true → o < 256 →
    txnAddress tx = s.cfg.startOf .control * 4096 + 256 * p + o → s.cfg.kindAt (txnAddress tx / 4096) = some .control →
    p ≠ 2 → s.reportPage p = some page →
    (∀ old, o ≠ 0 → lookupAt p s.snapshots = some old →
      exec (.read tx 1 []) s = .next { s with
        hostOut := [old.getD o 0xFF#8], memOut := [], freeCount := s.freeCount + 1 }) ∧
    (o = 0 ∨ lookupAt p s.snapshots = none →
      exec (.read tx 1 []) s = .next { s with
        hostOut := [page.getD o 0xFF#8], memOut := [], freeCount := s.freeCount + 1,
        snapshots := putAt p (some page) s.snapshots,
        alertPending := s.alertPending && !decide (p = 3 ∧ o = 0 ∧ s.cfg.settings.alertMode = .onRead) })) ∧
  (∀ (s : State) (e : LogEntry), s.alertDriven = s.alertPending ∧
    (s.appendLog e).alertDriven = (s.alertDriven || s.cfg.settings.alertMask.getLsbD e.kind.number)) ∧
  (∀ s : State,
    let none32 : Word := 0xFFFFFFFF#32
    let num (n : Nat) : Word := BitVec.ofNat 32 n
    let opt (v : Option Nat) : Word := (v.map num).getD none32
    let flag (b : Bool) : Word := if b then 1 else 0
    let shows (p : Nat) (words : List Word) : Prop :=
      ∃ page, s.reportPage p = some page ∧ ∀ n, n < words.length → wordAt page (4 * n) = words.getD n 0
    shows 1
      [ flag (s.store.compaction != .none), flag s.locked, flag s.configDefaulted, flag s.configChanged,
        s.lastSerial.getD none32, s.lastCode.getD none32,
        (match s.lastOutcome with | .none => 0 | .done => 1 | .pending => 2 | .refused => 3),
        (match s.lastReason with
          | none => none32
          | some .badRecord => 1 | some .unknownCode => 2 | some .badArg => 3 | some .wrongState => 4
          | some .locked => 5 | some .notBooted => 6 | some .trialOpen => 7 | some .inUse => 8
          | some .keyRevoked => 9 | some .freeTooMany => 10),
        s.lastBusy.getD none32, num s.log.length, flag s.overrun, flag s.alertPending,
        (match s.store.current with | none => none32 | some .h0 => 0 | some .h1 => 1),
        num (if s.store.closed = true ∨ s.store.current = none then 0 else 7680 - s.store.nextFree),
        num s.pool.length, num (s.health.filter fun e => e.2.retired).length,
        (match s.tracker with | .eraseHeld _ _ => 1 | _ => 0), num s.rescanCount,
        num (s.keyAt 0).code, num (s.keyAt 1).code, num (s.keyAt 2).code, num (s.keyAt 3).code,
        num (s.keyAt 4).code, num (s.keyAt 5).code, num (s.keyAt 6).code, num (s.keyAt 7).code,
        num s.code, s.nextLogSeq ] ∧
    (∀ i, i < s.slotCount → i < 16 →
      let r := s.slotAt i
      let count (st : ChunkState) : Word := num (r.chunks.filter fun c => c.state == st).length
      shows (16 + i)
        [ num i, num r.state.code, num r.journaled.code, flag r.decayed, flag r.reload,
          opt (r.summary.map Summary.target), opt (r.summary.map Summary.version),
          opt (r.summary.map Summary.imageLen), opt (r.summary.map Summary.chunks),
          opt (r.summary.map Summary.base), opt (r.summary.map Summary.keySlot),
          opt (if r.state = .rejected then r.reason.map Reason.code else none),
          (if r.state = .header then num r.headerMask.toNat else none32),
          (if r.state = .header then (r.captured.map Prod.snd).getD none32 else none32),
          count .empty, count .partial_, count .complete, count .verified, count .mismatch, count .stale ]) ∧
    (∀ u, u < 16 →
      let st := s.staticAt u
      let d := s.dynAt u
      shows (32 + u)
        [ num u, flag st.inUse, num st.cls, num st.keyMask.toNat, flag st.bootMapped, num d.floor, opt d.active,
          opt d.trial, opt d.fallback, opt d.booted, num d.bootsLeft, flag d.recovery ]) ∧
    (∀ i k b page, i < s.slotCount → i < 16 → k < 4 → b < 256 → s.reportPage (48 + 4 * i + k) = some page →
      page.getD b 0 = match s.chunkAt i (256 * k + b + 1) with
        | none => 0xFF#8
        | some c => match c.state with
          | .empty => 0 | .partial_ => 1 | .complete => 2 | .verified => 3 | .mismatch => 4 | .stale => 5) ∧
    (∀ j n page e, j < 4 → n < 16 → s.reportPage (3 + j) = some page → s.log[16 * j + n]? = some e →
      wordAt page (16 * n) = e.seq ∧
      wordAt page (16 * n + 4) = num (e.kind.number + 16 * ((e.reason.map Reason.code).getD 31) +
        512 * (e.slot.getD 31) + 16384 * (e.target.getD 31) + 524288 * (e.chunk.getD 2047)) ∧
      wordAt page (16 * n + 8) = opt e.value ∧ wordAt page (16 * n + 12) = opt e.address))

/-- R3, R15, R30: a PROGRAM taken in IDLE in LIVE_OPEN is forwarded at the host's address, and the tracker follows it. -/
def Obligations.ProgramLiveOpen : Prop :=
  ∀ (tx : HostTxn) (s : State), s.takes .program tx = true → tx.data ≠ [] → s.tracker = .idle →
    s.cfg.kindAt (txnAddress tx / 4096) = some .liveOpen →
    exec (.program tx) s = .next { s with
      hostOut := [], memOut := [forwardTxn tx (some (txnAddress tx)) 0], echo := false, pendingWD := false
      flash := s.flash.startOp (.program (programBytes (txnAddress tx) tx.data))
      tracker := .programInFlight
        { cls := .program, opcode := tx.opcode, address := txnAddress tx, region := .liveOpen, sectors := none } }

/-- R12, R31, R32, R35, R37, R39, R43, R70: a refused write reaches nothing, sets the echo and the pending write-disable, and
is logged: PROGRAM and ERASE_SECTOR in LIVE_PROTECTED, BOOT_WINDOW or no entry, in slack, and in the control window but for
a program to the request page; an ERASE_SECTOR in a slot whose state protects it; ERASE_LARGE outside one LIVE_OPEN entry;
ERASE_CHIP anywhere. -/
def Obligations.WritesRefused : Prop :=
  ∀ (tx : HostTxn) (s : State), s.tracker = .idle →
    let refused (r : Reason) (a : Option Nat) : State :=
      { s with hostOut := [], memOut := [], echo := true, pendingWD := true }.appendLog
        { seq := 0, kind := .writeRefused, reason := some r, slot := a.bind s.slotOfAddress, target := none,
          chunk := none, value := some tx.opcode.toNat, address := a }
    let barred := s.cfg.kindAt (txnAddress tx / 4096) = some .liveProtected ∨
      s.cfg.kindAt (txnAddress tx / 4096) = some .bootWindow ∨ s.cfg.kindAt (txnAddress tx / 4096) = none
    (s.takes .program tx = true → tx.data ≠ [] → barred →
      exec (.program tx) s = .next (refused .protectedRegion (some (txnAddress tx)))) ∧
    (s.takes .eraseSector tx = true → barred →
      exec (.eraseSector tx 0 false) s = .next (refused .protectedRegion (some (txnAddress tx)))) ∧
    (s.cfg.kindAt (txnAddress tx / 4096) = some .staging → s.slotOf (s.cfg.logicalOf (txnAddress tx)) = none →
      (s.takes .program tx = true → tx.data ≠ [] →
        exec (.program tx) s = .next (refused .slack (some (txnAddress tx)))) ∧
      (s.takes .eraseSector tx = true →
        exec (.eraseSector tx 0 false) s = .next (refused .slack (some (txnAddress tx))))) ∧
    (s.cfg.kindAt (txnAddress tx / 4096) = some .control →
      (s.takes .program tx = true → tx.data ≠ [] →
        (txnAddress tx - s.cfg.startOf .control * 4096) / 256 ≠ 2 →
        exec (.program tx) s = .next (refused .controlPage (some (txnAddress tx)))) ∧
      (s.takes .eraseSector tx = true →
        exec (.eraseSector tx 0 false) s = .next (refused .controlPage (some (txnAddress tx))))) ∧
    (∀ i k, s.cfg.kindAt (txnAddress tx / 4096) = some .staging →
      s.slotOf (s.cfg.logicalOf (txnAddress tx)) = some (i, k) →
      ((s.slotAt i).state = .sealed ∨ (s.slotAt i).state = .trial ∨ (s.slotAt i).state = .active ∨
        (s.slotAt i).state = .fallback ∨ (s.slotAt i).state = .failed ∨ (s.slotAt i).state = .outdated ∨
        ((s.slotAt i).state = .filling ∧ k = 0)) →
      s.takes .eraseSector tx = true →
      exec (.eraseSector tx 0 false) s = .next (refused .slotState (some (txnAddress tx)))) ∧
    (s.takes .eraseLarge tx = true → s.largeAccepted (txnAddress tx) = false →
      exec (.eraseLarge tx 0 false) s = .next (refused .largeErase (some (txnAddress tx)))) ∧
    (s.takes .eraseChip tx = true → exec (.eraseChip tx) s = .next (refused .chipErase none))

/-- R11: a write that arrives while an operation is in flight is dropped, whatever its region. -/
def Obligations.WritesDroppedInFlight : Prop :=
  ∀ (tx : HostTxn) (s : State), s.tracker.inFlight = true →
    exec (.program tx) s = .next { s with hostOut := [], memOut := [] } ∧
    exec (.eraseSector tx 0 false) s = .next { s with hostOut := [], memOut := [] } ∧
    exec (.eraseLarge tx 0 false) s = .next { s with hostOut := [], memOut := [] } ∧
    exec (.eraseChip tx) s = .next { s with hostOut := [], memOut := [] }

/-- R18: a write during a hold is refused with ERASE_HELD in every region; the echo is left clear, and the hold and the
pending write-disable stay. -/
def Obligations.WritesRefusedHeld : Prop :=
  ∀ (tx : HostTxn) (s : State) (op : OpRecord) (h : Hold), s.tracker = .eraseHeld op h →
    let refused (a : Option Nat) : State :=
      { s with hostOut := [], memOut := [], echo := false }.appendLog
        { seq := 0, kind := .writeRefused, reason := some .eraseHeld, slot := a.bind s.slotOfAddress, target := none,
          chunk := none, value := some tx.opcode.toNat, address := a }
    (s.takes .program tx = true → tx.data ≠ [] →
      exec (.program tx) s = .next (refused (some (txnAddress tx)))) ∧
    (s.takes .eraseSector tx = true →
      exec (.eraseSector tx 0 false) s = .next (refused (some (txnAddress tx)))) ∧
    (s.takes .eraseLarge tx = true →
      exec (.eraseLarge tx 0 false) s = .next (refused (some (txnAddress tx)))) ∧
    (s.takes .eraseChip tx = true → exec (.eraseChip tx) s = .next (refused none))

/-- R3, R19, R22, R30, R32: an erase accepted in LIVE_OPEN is forwarded when fewer than EG_MAX forwarding times lie in the
window, its time joins the list, and it is held with the guard condition open otherwise. Where the host's next transaction
cuts its send, it is held with no condition open, and nothing starts at the flash. -/
def Obligations.LiveErase : Prop :=
  ∀ (tx : HostTxn) (elapsed : Nat) (s : State), s.tracker = .idle →
    let a := txnAddress tx
    let now := s.clock + elapsed
    let used := (s.guard.filter fun x => decide (now < x + s.cfg.settings.egWindow) && decide (x ≤ now)).length
    let op (c : TxClass) : OpRecord :=
      { cls := c, opcode := tx.opcode, address := a, region := .liveOpen, sectors := none }
    let txn (cut : Bool) : MemTxn := { forwardTxn tx (some a) 0 with data := [], cut := cut }
    let held (c : TxClass) (guardOpen : Bool) : State :=
      { s with
        hostOut := [], memOut := [], clock := now, echo := false,
        tracker := .eraseHeld (op c) { recordOpen := false, guardOpen := guardOpen, decision := none } }
    let outcome (c : TxClass) (range : FlashOp) : State :=
      if used < s.cfg.settings.egMax then
        { s with
          hostOut := [], memOut := [txn false], clock := now, echo := false,
          pendingWD := false, tracker := .eraseInFlight (op c), flash := s.flash.startOp range,
          guard := (if s.guard.length < s.cfg.settings.egMax then s.guard else s.guard.drop 1) ++ [now] }
      else held c true
    let cutOutcome (c : TxClass) : State :=
      if used < s.cfg.settings.egMax then { held c false with memOut := [txn true] } else held c true
    (s.takes .eraseSector tx = true → s.cfg.kindAt (a / 4096) = some .liveOpen →
      exec (.eraseSector tx elapsed false) s = .next (outcome .eraseSector (.erase (a / 4096 * 4096) 4096)) ∧
      exec (.eraseSector tx elapsed true) s = .next (cutOutcome .eraseSector)) ∧
    (s.takes .eraseLarge tx = true → s.largeAccepted a = true →
      exec (.eraseLarge tx elapsed false) s = .next (outcome .eraseLarge (.erase (a / 65536 * 65536) 65536)) ∧
      exec (.eraseLarge tx elapsed true) s = .next (cutOutcome .eraseLarge))

/-! ### Staging writes -/

/-- R33, R66 to R68: header programs: accepted into a clean EMPTY slot and, for a page not yet written, in HEADER; refused
with STALE_SECTOR, PAGE_WRITTEN or SLOT_STATE otherwise. An accepted program of page 0 also captures manifest words 0 and 1,
and makes the slot REJECTED with BAD_FORMAT where they are no manifest's. An address beyond what 3 address bytes carry is
log entry 41, the model's choice. -/
def Obligations.HeaderProgram : Prop :=
  ∀ (tx : HostTxn) (s : State) (i : Nat), s.takes .program tx = true → tx.data ≠ [] → s.tracker = .idle →
    s.cfg.kindAt (txnAddress tx / 4096) = some .staging →
    s.slotOf (s.cfg.logicalOf (txnAddress tx)) = some (i, 0) →
    let a := txnAddress tx
    let l := s.cfg.logicalOf a
    let r := s.slotAt i
    let w := capturedWords a tx.data
    let good : Prop := w.1 = 0x314D4B48#32 ∧ 10 ≤ w.2.toNat ∧ w.2.toNat ≤ 1024
    let op : OpRecord :=
      { cls := .program, opcode := tx.opcode, address := a, region := .staging, sectors := some (l, s.physical l) }
    let flash := s.flash.startOp (.program (programBytes (s.translate l (a % 4096)) tx.data))
    let refused (x : Reason) : State :=
      { s with hostOut := [], memOut := [], echo := true, pendingWD := true }.appendLog
        { seq := 0, kind := .writeRefused, reason := some x, slot := some i, target := none, chunk := none,
          value := some tx.opcode.toNat, address := some a }
    let accepted (f : SlotRec → SlotRec) : State :=
      { s with
        hostOut := [], memOut := [forwardTxn tx (some (s.translate l (a % 4096))) 0], echo := false, pendingWD := false,
        flash := flash, clean := s.clean.filter (· != l), slots := s.slots.modify i f, tracker := .programInFlight op }
    let takes : Prop := (r.state = .empty ∧ s.isClean l = true) ∨
      (r.state = .header ∧ r.headerMask.getLsbD (pageOf a) = false)
    (r.state = .empty → s.isClean l = false → exec (.program tx) s = .next (refused .staleSector)) ∧
    (r.state = .header → r.headerMask.getLsbD (pageOf a) = true → exec (.program tx) s = .next (refused .pageWritten)) ∧
    (r.state ≠ .empty → r.state ≠ .header → exec (.program tx) s = .next (refused .slotState)) ∧
    (takes → pageOf a ≠ 0 ∨ good →
      exec (.program tx) s = .next (accepted fun x => { x with
        state := .header,
        headerMask := (if r.state = .header then x.headerMask else 0) ||| BitVec.ofNat 16 (2 ^ pageOf a),
        captured := if pageOf a = 0 then some w else if r.state = .header then x.captured else none })) ∧
    (takes → pageOf a = 0 → ¬ good → i < s.slots.length →
      ∃ t, exec (.program tx) s = .next t ∧ (t.slotAt i).state = .rejected ∧ (t.slotAt i).reason = some .badFormat ∧
        (t.slotAt i).headerMask = 0 ∧ (t.slotAt i).captured = none ∧ t.tracker = .programInFlight op ∧ t.flash = flash ∧
        t.memOut = [forwardTxn tx (some (s.translate l (a % 4096))) 0] ∧ t.isClean l = false ∧
        t.log.getLast? = some
          { seq := s.nextLogSeq, kind := .rejected, reason := some .badFormat, slot := some i, target := none,
            chunk := none, value := none, address := none } ∧
        t.store = s.store ∧ t.map = s.map ∧ t.targets = s.targets ∧ t.echo = false)

/-- R43, R94, R95: a program to body sector `k`: refused with SLOT_STATE but in a FILLING slot whose reload has ended, and
there with OUTSIDE_IMAGE, STALE_SECTOR or PAGE_WRITTEN; an accepted one adds its page, sets origin WRITTEN and makes the
chunk PARTIAL, or COMPLETE when every page needed is in. An address beyond what 3 address bytes carry is log entry 41, the
model's choice. -/
def Obligations.ChunkProgram : Prop :=
  ∀ (tx : HostTxn) (s : State) (i k : Nat), s.takes .program tx = true → tx.data ≠ [] → s.tracker = .idle →
    s.cfg.kindAt (txnAddress tx / 4096) = some .staging →
    s.slotOf (s.cfg.logicalOf (txnAddress tx)) = some (i, k) → 0 < k →
    let a := txnAddress tx
    let l := s.cfg.logicalOf a
    let page := pageOf a
    let refused (x : Reason) : State :=
      { s with hostOut := [], memOut := [], echo := true, pendingWD := true }.appendLog
        { seq := 0, kind := .writeRefused, reason := some x, slot := some i, target := none, chunk := none,
          value := some tx.opcode.toNat, address := some a }
    ((s.slotAt i).state ≠ .filling ∨ (s.slotAt i).reload = true →
      exec (.program tx) s = .next (refused .slotState)) ∧
    ((s.slotAt i).state = .filling → (s.slotAt i).reload = false → s.chunkAt i k = none →
      exec (.program tx) s = .next (refused .outsideImage)) ∧
    (∀ m c, (s.slotAt i).state = .filling → (s.slotAt i).reload = false → (s.slotAt i).summary = some m →
      s.chunkAt i k = some c →
      let mask := c.mask ||| BitVec.ofNat 16 (2 ^ page)
      let written : Prop := c.state = .complete ∨ c.state = .verified ∨ c.state = .mismatch ∨
        (c.state ≠ .stale ∧ c.mask.getLsbD page = true)
      (m.pagesNeeded k ≤ page → exec (.program tx) s = .next (refused .outsideImage)) ∧
      (page < m.pagesNeeded k → c.state = .stale → exec (.program tx) s = .next (refused .staleSector)) ∧
      (page < m.pagesNeeded k → written → exec (.program tx) s = .next (refused .pageWritten)) ∧
      (page < m.pagesNeeded k → c.state ≠ .stale → ¬ written →
        exec (.program tx) s = .next { s with
          hostOut := [], memOut := [forwardTxn tx (some (s.translate l (a % 4096))) 0], echo := false,
          pendingWD := false,
          flash := s.flash.startOp (.program (programBytes (s.translate l (a % 4096)) tx.data)),
          clean := s.clean.filter (· != l),
          slots := s.slots.modify i fun r => { r with chunks := r.chunks.modify (k - 1) fun _ =>
            { c with
              mask := mask, origin := .written,
              state := if coversPages mask (m.pagesNeeded k) then .complete else .partial_ } },
          tracker := .programInFlight
            { cls := .program, opcode := tx.opcode, address := a, region := .staging,
              sectors := some (l, s.physical l) } }))

/-- R54, R55, R57, R60: the four cases of the erase decision of logical sector `l` mapped to `p`, and whether the erase must
wait for a record. -/
def Obligations.EraseDecision : Prop :=
  ∀ (s : State) (l : Nat),
    let p := s.physical l
    let d := s.eraseDecision l
    let wear (q : Nat) : Nat := (s.healthOf q).wear
    let suspect : Bool := (s.healthOf p).suspect
    d.logical = l ∧ d.source = p ∧
    (∀ h t, s.pool = h :: t → suspect = true → d.case = .retire ∧ d.target = h) ∧
    (s.pool = [] → suspect = true → d.case = .degrade ∧ d.target = p) ∧
    (∀ h t, s.pool = h :: t → suspect = false → wear h + s.cfg.settings.wearGap ≤ wear p →
      d.case = .swap ∧ d.target = h) ∧
    (suspect = false → (∀ h t, s.pool = h :: t → wear p < wear h + s.cfg.settings.wearGap) →
      d.case = .inPlace ∧ d.target = p) ∧
    d.wear = (if (wear d.target + 1) % 8 = 0 ∧ wear d.target + 1 ≤ 65534 then some (wear d.target + 1) else none) ∧
    (d.namesRecord = true ↔ d.case = .retire ∨ d.case = .swap ∨ d.wear ≠ none)

/-- R3, R19, R20, R35, R43, R53 to R60, R70, R98, R99: an accepted erase of a staging sector, whose guard condition is noted
at its take (log entry 22). In an EMPTY slot, with a busy engine and nothing to sweep: decided with no record named and
allowed by the guard, it is forwarded at the translated address, the sector's wear rises and it is clean; cut in its send,
or stopped by the guard alone, it is held; an empty pool under a suspect sector is logged. Decided with a record named, it
is held for it: the records are offered in the order of R55 and R60 (log entry 42), a retirement and an empty pool are
logged, and the map, the pool, the health table and the clean flags stay. The erase of a chunk of a FILLING slot drops the
chunk's entry and job and makes it EMPTY where it is forwarded and STALE where it is held. The erase of the header of a
HEADER or REJECTED slot empties the slot at the take, drops a HEADER slot's manifest job and offers a SLOT record where the
journal holds a REJECTED slot as anything but EMPTY (before the decision's records, log entry 29). An address beyond what 3
address bytes carry is log entry 41, the model's choice. -/
def Obligations.StagingErase : Prop :=
  ∀ (tx : HostTxn) (elapsed : Nat) (s : State) (i k : Nat), s.takes .eraseSector tx = true → s.tracker = .idle →
    s.cfg.kindAt (txnAddress tx / 4096) = some .staging →
    s.slotOf (s.cfg.logicalOf (txnAddress tx)) = some (i, k) →
    let a := txnAddress tx
    let l := s.cfg.logicalOf a
    let p := s.physical l
    let d := s.eraseDecision l
    let now := s.clock + elapsed
    let op : OpRecord :=
      { cls := .eraseSector, opcode := tx.opcode, address := a, region := .staging, sectors := some (l, d.target) }
    let used := (s.guard.filter fun x => decide (now < x + s.cfg.settings.egWindow) && decide (x ≤ now)).length
    let guard := (if s.guard.length < s.cfg.settings.egMax then s.guard else s.guard.drop 1) ++ [now]
    let txn (cut : Bool) : MemTxn :=
      { forwardTxn tx (some (s.cfg.physicalAddr p (a % 4096))) 0 with data := [], cut := cut }
    let started := s.flash.startOp (.erase (s.cfg.physicalAddr p (a % 4096) / 4096 * 4096) 4096)
    let goes : Prop := d.namesRecord = false ∧ used < s.cfg.settings.egMax
    let hold : Hold :=
      { recordOpen := d.namesRecord, guardOpen := decide (s.cfg.settings.egMax ≤ used), decision := some d }
    let logged (kind : LogKind) : LogEntry :=
      { seq := s.nextLogSeq, kind := kind, reason := none, slot := some i, target := (s.slotAt i).target?,
        chunk := if 1 ≤ k ∧ k ≤ 2046 then some k else none, value := some p, address := some a }
    let records : List Offer :=
      (match d.case with
        | .retire =>
          [{ payload := .map l d.target, owner := .holdMap },
            { payload := .health p { s.healthOf p with retired := true }, owner := .nobody }]
        | .swap => [{ payload := .map l d.target, owner := .holdMap }]
        | .degrade => []
        | .inPlace => []) ++
      (match d.wear with
        | none => []
        | some w => [{ payload := .health d.target { s.healthOf d.target with wear := w }, owner := .holdWear }])
    ((s.slotAt i).state = .empty → d.namesRecord = false → s.job.isSome = true → s.eligibleChunks = [] →
      let taken : State :=
        { (if d.case = .degrade then s.appendLog (logged .poolEmpty) else s) with
          hostOut := [], memOut := [], clock := now, echo := false }
      (used < s.cfg.settings.egMax →
        exec (.eraseSector tx elapsed false) s = .next { taken with
          memOut := [txn false], pendingWD := false, tracker := .eraseInFlight op, flash := started, guard := guard,
          health := healthStore p { s.healthOf p with wear := min ((s.healthOf p).wear + 1) 65534 } s.health,
          clean := insertNat l s.clean } ∧
        exec (.eraseSector tx elapsed true) s = .next { taken with
          memOut := [txn true], tracker := .eraseHeld op hold }) ∧
      (s.cfg.settings.egMax ≤ used → ∀ cut,
        exec (.eraseSector tx elapsed cut) s = .next { taken with tracker := .eraseHeld op hold })) ∧
    ((s.slotAt i).state = .empty → d.namesRecord = true → ∀ cut,
      ∃ t, exec (.eraseSector tx elapsed cut) s = .next t ∧
        t.tracker = .eraseHeld op hold ∧ t.store.offers = s.store.offers ++ records ∧
        (d.case = .swap ∨ d.case = .inPlace → t.log = s.log) ∧
        (d.case = .retire → t.log.getLast? = some (logged .sectorRetired)) ∧
        (d.case = .degrade → t.log.getLast? = some (logged .poolEmpty)) ∧
        t.memOut = [] ∧ t.flash = s.flash ∧ t.map = s.map ∧ t.pool = s.pool ∧ t.health = s.health ∧
        t.clean = s.clean ∧ t.guard = s.guard ∧ t.targets = s.targets ∧ t.pendingWD = s.pendingWD ∧
        t.echo = false) ∧
    (∀ c, (s.slotAt i).state = .filling → s.chunkAt i k = some c →
      ∃ t, exec (.eraseSector tx elapsed false) s = .next t ∧ (t.slotAt i).state = .filling ∧
        (∀ e ∈ t.verifyQueue, ¬ (e.slot = i ∧ e.chunk = k)) ∧
        (∀ j, t.job = some j → j.kind = .chunk ∨ j.kind = .patrol → ¬ (j.slot = i ∧ j.chunk = k)) ∧
        t.map = s.map ∧ t.pool = s.pool ∧ t.targets = s.targets ∧ t.store.offers = s.store.offers ++ records ∧
        (goes → t.tracker = .eraseInFlight op ∧ t.memOut = [txn false] ∧ t.flash = started ∧ t.guard = guard ∧
          t.isClean l = true ∧
          t.chunkAt i k = some { state := .empty, mask := 0, origin := .written, queued := false, hostErased := true }) ∧
        (¬ goes → t.tracker = .eraseHeld op hold ∧ t.memOut = [] ∧ t.flash = s.flash ∧ t.guard = s.guard ∧
          t.clean = s.clean ∧ t.health = s.health ∧
          t.chunkAt i k = some { c with state := .stale, mask := 0, queued := false, hostErased := true })) ∧
    (k = 0 → (s.slotAt i).state = .header ∨ (s.slotAt i).state = .rejected →
      let carried : Bool := (s.slotAt i).state == .rejected && (s.slotAt i).journaled != .empty
      ∃ t, exec (.eraseSector tx elapsed false) s = .next t ∧
        t.slotAt i = { SlotRec.blank with journaled := if carried then .empty else (s.slotAt i).journaled } ∧
        ((s.slotAt i).state = .header → (∀ m ∈ t.manifestJobs, m.slot ≠ i) ∧
          ∀ j, t.job = some j → j.kind = .admission ∨ j.kind = .reload → j.slot ≠ i) ∧
        t.store.offers = s.store.offers ++
          (if carried then
            [{ payload := .slot i { state := .empty, decayed := false, summary := none }, owner := .nobody }]
          else []) ++ records ∧
        t.map = s.map ∧ t.pool = s.pool ∧ t.targets = s.targets ∧
        (goes → t.tracker = .eraseInFlight op ∧ t.memOut = [txn false] ∧ t.flash = started ∧ t.guard = guard ∧
          t.isClean l = true) ∧
        (¬ goes → t.tracker = .eraseHeld op hold ∧ t.memOut = [] ∧ t.flash = s.flash ∧ t.guard = s.guard ∧
          t.clean = s.clean ∧ t.health = s.health))

/-! ### Requests -/

/-- R126: ACTIVATE, its checks in order, and what it does to the slot and its target. -/
def Obligations.Activate : Prop :=
  ∀ (serial slot : Word) (s : State), s.takesRequests →
    let i := slot.toNat
    let r := s.slotAt i
    let base := s.taken serial 1 slot 0 0 0
    (2 ^ s.code ≤ i → exec (.activate serial slot) s = .next (base.turnedDown .badArg)) ∧
    (i < 2 ^ s.code → (r.state ≠ .sealed ∨ r.reload = true) →
      exec (.activate serial slot) s = .next (base.turnedDown .wrongState)) ∧
    (∀ m, i < 2 ^ s.code → r.state = .sealed → r.reload = false → r.summary = some m →
      m.target < s.targets.length →
      ((s.dynAt m.target).trial ≠ none → exec (.activate serial slot) s = .next (base.turnedDown .trialOpen)) ∧
      ((s.dynAt m.target).trial = none → (∀ v, s.keyAt m.keySlot ≠ .active v) →
        exec (.activate serial slot) s = .next (base.turnedDown .keyRevoked)) ∧
      (∀ v, (s.dynAt m.target).trial = none → s.keyAt m.keySlot = .active v →
        let left := if s.bootTarget = some m.target then s.cfg.settings.tMax else 0
        exec (.activate serial slot) s = .next {
          ((({ base with
              slots := s.slots.modify i fun r => { r with state := .trial, journaled := .trial },
              targets := s.targets.modify m.target fun d => { d with trial := some i, bootsLeft := left } }.appendLog
            { seq := 0, kind := .trialStarted, reason := none, slot := some i, target := some m.target, chunk := none,
              value := some m.version, address := none }).offer .request
            (.target m.target { s.dynAt m.target with trial := some i, bootsLeft := left })).offer .request
            (.slot i { state := .trial, decayed := r.decayed, summary := some m })) with
          lastOutcome := .pending, lastReason := none }))

/-- R127, R128: CONFIRM, its checks in order, and what it does to the target's fields and to the states of the slots. -/
def Obligations.Confirm : Prop :=
  ∀ (serial slot : Word) (s : State), s.takesRequests →
    let i := slot.toNat
    let r := s.slotAt i
    let base := s.taken serial 2 slot 0 0 0
    (2 ^ s.code ≤ i → exec (.confirm serial slot) s = .next (base.turnedDown .badArg)) ∧
    (i < 2 ^ s.code → r.state ≠ .trial → exec (.confirm serial slot) s = .next (base.turnedDown .wrongState)) ∧
    (∀ m, i < 2 ^ s.code → r.state = .trial → r.summary = some m → m.target < s.targets.length →
      let d := s.dynAt m.target
      let floor := max d.floor m.version
      (s.bootTarget = some m.target → d.booted ≠ some i →
        exec (.confirm serial slot) s = .next (base.turnedDown .notBooted)) ∧
      ((s.bootTarget = some m.target → d.booted = some i) →
        ∃ t, exec (.confirm serial slot) s = .next t ∧ t.lastOutcome = .pending ∧
          t.dynAt m.target =
            { d with
              floor := floor, active := some i, fallback := d.active, trial := none, bootsLeft := 0,
              recovery := false } ∧
          (∀ u, u ≠ m.target → t.dynAt u = s.dynAt u) ∧
          (t.slotAt i).state = .active ∧
          (∀ a, d.active = some a → a ≠ i → a < s.slots.length → (t.slotAt a).state = .fallback) ∧
          (∀ f, d.fallback = some f → f ≠ i → d.active ≠ some f → f < s.slots.length →
            (t.slotAt f).state =
              if (s.slotAt f).decayed then .failed
              else if floor ≤ (s.slotAt f).version then .sealed else .outdated) ∧
          (∀ j, j ≠ i → d.active ≠ some j → d.fallback ≠ some j → j < s.slots.length →
            (t.slotAt j).state =
              if (s.slotAt j).target? = some m.target ∧ (s.slotAt j).version < floor then
                match (s.slotAt j).state with
                | .sealed => .outdated
                | .filling => .rejected
                | x => x
              else (s.slotAt j).state) ∧
          t.flash = s.flash ∧ t.tracker = s.tracker ∧ t.guard = s.guard ∧ t.map = s.map ∧ t.pool = s.pool ∧
          t.health = s.health ∧ t.clean = s.clean ∧ t.keys = s.keys ∧ t.statics = s.statics ∧ t.cfg = s.cfg ∧
          t.reqPage = base.reqPage ∧ t.pendingWD = s.pendingWD))

/-- R129: ABANDON. -/
def Obligations.Abandon : Prop :=
  ∀ (serial slot : Word) (s : State), s.takesRequests →
    let i := slot.toNat
    let r := s.slotAt i
    let base := s.taken serial 3 slot 0 0 0
    (2 ^ s.code ≤ i → exec (.abandon serial slot) s = .next (base.turnedDown .badArg)) ∧
    (i < 2 ^ s.code → r.state ≠ .trial → exec (.abandon serial slot) s = .next (base.turnedDown .wrongState)) ∧
    (∀ m, i < 2 ^ s.code → r.state = .trial → r.summary = some m → m.target < s.targets.length →
      exec (.abandon serial slot) s = .next {
        ((({ base with
            slots := s.slots.modify i fun r => { r with state := .sealed, journaled := .sealed },
            targets := s.targets.modify m.target fun d => { d with trial := none, bootsLeft := 0 } }.appendLog
          { seq := 0, kind := .abandoned, reason := none, slot := some i, target := some m.target, chunk := none,
            value := some m.version, address := none }).offer .request
          (.target m.target { s.dynAt m.target with trial := none, bootsLeft := 0 })).offer .request
          (.slot i { state := .sealed, decayed := r.decayed, summary := some m })) with
        lastOutcome := .pending, lastReason := none })

/-- R130: DISCARD: refused or without effect as its rule says, and otherwise the slot is EMPTY with nothing of its old
state, and PENDING where the journal holds it as anything but EMPTY. -/
def Obligations.Discard : Prop :=
  ∀ (serial slot : Word) (s : State), s.takesRequests →
    let i := slot.toNat
    let r := s.slotAt i
    let base := s.taken serial 4 slot 0 0 0
    (2 ^ s.code ≤ i → exec (.discard serial slot) s = .next (base.turnedDown .badArg)) ∧
    (i < 2 ^ s.code → (r.state = .trial ∨ r.state = .active ∨ s.bootedSlot = some i) →
      exec (.discard serial slot) s = .next (base.turnedDown .inUse)) ∧
    (i < 2 ^ s.code → s.bootedSlot ≠ some i → r.state = .empty →
      exec (.discard serial slot) s = .next { base with lastOutcome := .done, lastReason := none }) ∧
    (i < 2 ^ s.code → s.bootedSlot ≠ some i → r.state ≠ .trial → r.state ≠ .active → r.state ≠ .empty →
      ∃ t, exec (.discard serial slot) s = .next t ∧ t.slotAt i = SlotRec.blank ∧
        (∀ j, j ≠ i → (t.slotAt j).state = (s.slotAt j).state ∧ (t.slotAt j).summary = (s.slotAt j).summary) ∧
        (r.journaled ≠ .empty → t.lastOutcome = .pending) ∧
        (∀ m, r.state = .fallback → r.summary = some m → (t.dynAt m.target).fallback = none) ∧
        (r.state ≠ .fallback → t.targets = s.targets) ∧
        t.flash = s.flash ∧ t.log = s.log ∧ t.map = s.map ∧ t.pool = s.pool ∧ t.health = s.health ∧
        t.clean = s.clean ∧ t.guard = s.guard ∧ t.tracker = s.tracker ∧ t.keys = s.keys)

/-- R130, R131: CLEAR_STAGING makes every slot that is not EMPTY, TRIAL, ACTIVE or booted an EMPTY one with nothing of its old
state, and drops its jobs; every other slot keeps its whole record, the sweep's queued marks apart; a target whose FALLBACK
slot is emptied loses its fallback field and nothing else, and the other targets stay. The records are offered in the order
of R131, and the request is PENDING where it offers one. -/
def Obligations.ClearStaging : Prop :=
  ∀ (serial : Word) (s : State), s.takesRequests →
    let emptied (j : Nat) : Bool :=
      (s.slotAt j).state != .empty && (s.slotAt j).state != .trial && (s.slotAt j).state != .active &&
      s.bootedSlot != some j
    let loses (u : Nat) : Bool := (List.range s.slots.length).any fun j =>
      emptied j && (s.slotAt j).state == .fallback && (s.slotAt j).target? == some u
    let unmarked (r : SlotRec) : SlotRec := { r with chunks := r.chunks.map fun c => { c with queued := false } }
    let records : List Offer :=
      ((List.range s.slots.length).filter fun j => emptied j && (s.slotAt j).journaled != .empty).map (fun j =>
        { payload := .slot j { state := .empty, decayed := false, summary := none }, owner := .request }) ++
      ((List.range 16).filter loses).map (fun u =>
        { payload := .target u { s.dynAt u with fallback := none }, owner := .request })
    ∃ t, exec (.clearStaging serial) s = .next t ∧
      (∀ j, emptied j = true → t.slotAt j = SlotRec.blank) ∧
      (∀ j, emptied j = false → unmarked (t.slotAt j) = unmarked (s.slotAt j) ∧
        ((s.slotAt j).state ≠ .filling → t.slotAt j = s.slotAt j)) ∧
      (∀ u, u < 16 → t.dynAt u = if loses u = true then { s.dynAt u with fallback := none } else s.dynAt u) ∧
      (∀ m ∈ t.manifestJobs, emptied m.slot = false) ∧ (∀ e ∈ t.verifyQueue, emptied e.slot = false) ∧
      (∀ j, t.job = some j → emptied j.slot = true → j.kind = .scanManifest ∨ j.kind = .scanChunk) ∧
      t.store.offers = s.store.offers ++ records ∧
      (records ≠ [] → t.lastOutcome = .pending) ∧
      (records = [] → s.store.owes .request = false → t.lastOutcome = .done) ∧
      t.flash = s.flash ∧ t.log = s.log ∧ t.map = s.map ∧ t.pool = s.pool ∧ t.health = s.health ∧
      t.clean = s.clean ∧ t.guard = s.guard ∧ t.tracker = s.tracker ∧ t.keys = s.keys ∧ t.statics = s.statics ∧
      t.cfg = s.cfg

/-- R44, R45: SET_SLOT_CODE, its checks in order and its whole effect. -/
def Obligations.SetSlotCode : Prop :=
  ∀ (serial code : Word) (s : State), s.takesRequests →
    let base := s.taken serial 6 code 0 0 0
    let role (x : SlotState) : Prop := x = .trial ∨ x = .active ∨ x = .fallback
    (4 < code.toNat → exec (.setSlotCode serial code) s = .next (base.turnedDown .badArg)) ∧
    (code.toNat ≤ 4 → (∃ r ∈ s.slots, role r.state) →
      exec (.setSlotCode serial code) s = .next (base.turnedDown .wrongState)) ∧
    (code.toNat ≤ 4 → (∀ r ∈ s.slots, ¬ role r.state) → s.bootedSlot ≠ none →
      exec (.setSlotCode serial code) s = .next (base.turnedDown .inUse)) ∧
    (code.toNat ≤ 4 → (∀ r ∈ s.slots, ¬ role r.state) → s.bootedSlot = none →
      exec (.setSlotCode serial code) s = .next {
        ({ base with
            code := code.toNat, slots := List.replicate (2 ^ code.toNat) SlotRec.blank, manifestJobs := [],
            verifyQueue := [], job := none, aside := none, patrolSlot := 0, patrolChunk := 1 }.offer .request
          (.slotCode code.toNat)) with
        lastOutcome := .pending, lastReason := none })

/-- R173: LOG_FREE, ACK_ALERT and RELOAD, which resets the part as a RESET_IN_N reset does. -/
def Obligations.LogAndAlert : Prop :=
  ∀ (serial n : Word) (s : State), s.takesRequests →
    let base := s.taken serial 7 n 0 0 0
    (n = 0 → exec (.logFree serial n) s = .next (base.turnedDown .badArg)) ∧
    (s.log.length < n.toNat → exec (.logFree serial n) s = .next (base.turnedDown .freeTooMany)) ∧
    (n ≠ 0 → n.toNat ≤ s.log.length →
      exec (.logFree serial n) s = .next
        { base with log := s.log.drop n.toNat, overrun := false, lastOutcome := .done, lastReason := none }) ∧
    exec (.ackAlert serial) s = .next { s.taken serial 8 0 0 0 0 with
      alertPending := (if s.cfg.settings.alertMode = .onAck then false else s.alertPending),
      lastOutcome := .done, lastReason := none } ∧
    exec (.reload serial) s = exec (.resetInAssert false) s

/-- R141, R181, R182: POWER_ON, RESET_IN_ASSERT of a part with supply, and RELOAD take the part to the same reset: the
volatile state of the table in 12.2 and the on-die memory as it stood where nothing was in progress; a record write in
progress, of an append or of a snapshot, leaves its position failing, and a half whose erase is cut stays marked so until it
is erased again (log entry 45). POWER_LOSS does the same and leaves no supply. That the flash is untouched, by a loss of
supply too, is the model's choice of log entry 36, and that POWER_ON is taken in every state that of log entry 38. -/
def Obligations.PartResets : Prop :=
  ∀ (s : State) (serial : Word) (blank : Bool),
    let after (t : State) : Prop :=
      t.tracker = .idle ∧ t.echo = false ∧ t.pendingWD = false ∧ t.guard = [] ∧ t.clean = [] ∧ t.strikes = [] ∧
      t.verifyQueue = [] ∧ t.job = none ∧ t.aside = none ∧ t.manifestJobs = [] ∧ t.patrolSlot = 0 ∧
      t.patrolChunk = 1 ∧ t.nextTick = none ∧ t.store.queue = [] ∧ t.store.waiting = [] ∧ t.log = [] ∧
      t.overrun = false ∧ t.nextLogSeq = 0 ∧ t.alertPending = false ∧ t.snapshots = [] ∧
      t.reqPage = List.replicate 256 0xFF#8 ∧ t.lastOutcome = .none ∧ t.lastBusy = none ∧ t.portOpen = false ∧
      t.flash = s.flash ∧
      (s.store.port = none →
        t.store.geometryRow = s.store.geometryRow ∧ t.store.profileRow = s.store.profileRow ∧
        t.store.partitionRow = s.store.partitionRow ∧ t.store.settingsRow = s.store.settingsRow ∧
        t.store.keyRow = s.store.keyRow ∧ t.store.targetRows = s.store.targetRows ∧
        t.store.identityRow = s.store.identityRow ∧
        (s.store.half0.cond ≠ .erasing → t.store.half0.cells = s.store.half0.cells) ∧
        (s.store.half1.cond ≠ .erasing → t.store.half1.cells = s.store.half1.cells)) ∧
      (∀ pos r, s.store.port = some (.record .h0 pos r) → s.store.half0.cond ≠ .erasing →
        t.store.half0.cells = putCell pos .torn s.store.half0.cells) ∧
      (∀ pos r, s.store.port = some (.record .h1 pos r) → s.store.half1.cond ≠ .erasing →
        t.store.half1.cells = putCell pos .torn s.store.half1.cells) ∧
      (∀ pos r, s.store.port = some (.snapshot .h0 pos r) → s.store.half0.cond ≠ .erasing →
        t.store.half0.cells = putCell pos .torn s.store.half0.cells) ∧
      (∀ pos r, s.store.port = some (.snapshot .h1 pos r) → s.store.half1.cond ≠ .erasing →
        t.store.half1.cells = putCell pos .torn s.store.half1.cells) ∧
      (∀ h, (t.store.half h).eraseCut = true ↔
        (s.store.half h).eraseCut = true ∨ (s.store.half h).cond = .erasing)
    (∃ t, exec (.powerOn blank) s = .next t ∧ after t ∧ t.phase = .inReset ∧ t.hrstDriven = true) ∧
    (s.phase ≠ .unpowered →
      ∃ t, exec (.resetInAssert blank) s = .next t ∧ after t ∧ t.phase = .inReset ∧ t.hrstDriven = true) ∧
    (s.takesRequests → ∃ t, exec (.reload serial) s = .next t ∧ after t ∧ t.phase = .inReset ∧ t.hrstDriven = true) ∧
    (∃ t, exec (.powerLoss blank) s = .next t ∧ after t ∧ t.phase = .unpowered)

/-- R143, R158: KEY_WRITE, its checks in order and its effect; only a manifest job in flight may begin its second pass again
(R73). -/
def Obligations.KeyWrite : Prop :=
  ∀ (serial slot value : Word) (s : State), s.takesRequests →
    let base := s.taken serial 10 slot value 0 0
    let inRange : Prop := slot.toNat < 8 ∧ 2 ≤ value.toNat ∧ value.toNat ≤ 4294967290
    let keys := s.store.keyContent.keys.set slot.toNat (.active value.toNat)
    (¬ inRange → exec (.keyWrite serial slot value) s = .next (base.turnedDown .badArg)) ∧
    (inRange → s.locked = true → s.keyAt slot.toNat ≠ .empty →
      exec (.keyWrite serial slot value) s = .next (base.turnedDown .locked)) ∧
    (inRange → (s.locked = false ∨ s.keyAt slot.toNat = .empty) →
      ∃ job, exec (.keyWrite serial slot value) s = .next { base with
          keys := keys, locked := s.store.keyContent.locked,
          store := { s.store with rowWait := some (.key { s.store.keyContent with keys := keys }) },
          lastOutcome := .pending, lastReason := none, job := job } ∧
        ((∀ j, s.job = some j → j.kind.isManifest = false ∨ j.pass ≠ .fold ∨ s.jobKeySlot j ≠ slot.toNat) →
          job = s.job) ∧
        (∀ j, s.job = some j → j.kind.isManifest = true → j.pass = .fold → s.jobKeySlot j = slot.toNat →
          slot.toNat < s.store.keyContent.keys.length →
          job = some { j with
            base := value.toNat, seed := s.jobLength j, count := s.jobLength j - 1, index := 0,
            acc := s.jobLength j % 4294967291 }))

/-- R143, R159, R161: KEY_REVOKE and LOCK; only a manifest job in flight may begin its second pass again (R73). -/
def Obligations.RevokeAndLock : Prop :=
  ∀ (serial slot : Word) (s : State), s.takesRequests →
    let base := s.taken serial 11 slot 0 0 0
    let base' := s.taken serial 14 0 0 0 0
    (8 ≤ slot.toNat → exec (.keyRevoke serial slot) s = .next (base.turnedDown .badArg)) ∧
    (slot.toNat < 8 → (∀ v, s.keyAt slot.toNat ≠ .active v) →
      exec (.keyRevoke serial slot) s = .next (base.turnedDown .wrongState)) ∧
    (∀ v, slot.toNat < 8 → s.keyAt slot.toNat = .active v →
      let keys := s.store.keyContent.keys.set slot.toNat (.revoked v)
      ∃ job, exec (.keyRevoke serial slot) s = .next { base with
          keys := keys, locked := s.store.keyContent.locked,
          store := { s.store with rowWait := some (.key { s.store.keyContent with keys := keys }) },
          lastOutcome := .pending, lastReason := none, job := job } ∧
        ((∀ j, s.job = some j → j.kind.isManifest = false ∨ j.pass ≠ .fold ∨ s.jobKeySlot j ≠ slot.toNat) →
          job = s.job)) ∧
    (s.locked = true → exec (.lock serial) s = .next { base' with lastOutcome := .done, lastReason := none }) ∧
    (s.locked = false → exec (.lock serial) s = .next { base' with
      keys := s.store.keyContent.keys, locked := true,
      store := { s.store with rowWait := some (.key { s.store.keyContent with locked := true }) },
      lastOutcome := .pending, lastReason := none })

/-- R163, R164, 11.7: TARGET_WRITE, its checks in order and its effect. Check 4 bars a request that sets in use to no where the
record held yes; that reading is the model's (log entry 34). -/
def Obligations.TargetWrite : Prop :=
  ∀ (serial target cls flags : Word) (s : State), s.takesRequests →
    let u := target.toNat
    let old := s.staticAt u
    let new : TargetStatic :=
      { inUse := flags.getLsbD 8, cls := cls.toNat, keyMask := flags.extractLsb' 0 8, bootMapped := flags.getLsbD 9 }
    let base := s.taken serial 12 target cls 0 flags
    let formed : Prop := u < 16 ∧ cls.toNat < 65536 ∧ flags.toNat < 1024
    let clash : Prop := new.bootMapped = true ∧ ∃ v, v < 16 ∧ v ≠ u ∧ (s.staticAt v).bootMapped = true
    let held : Prop := (s.dynAt u).booted ≠ none ∨ ∃ r ∈ s.slots, r.summary.map Summary.target = some u ∧
      (r.state = .filling ∨ r.state = .sealed ∨ r.state = .trial ∨ r.state = .active ∨ r.state = .fallback ∨
        r.state = .failed)
    let bars : Prop := (new.cls ≠ old.cls ∨ new.bootMapped ≠ old.bootMapped ∨
      (old.inUse = true ∧ new.inUse = false)) ∧ held
    (¬ formed → exec (.targetWrite serial target cls flags) s = .next (base.turnedDown .badArg)) ∧
    (formed → s.locked = true → exec (.targetWrite serial target cls flags) s = .next (base.turnedDown .locked)) ∧
    (formed → s.locked = false → clash →
      exec (.targetWrite serial target cls flags) s = .next (base.turnedDown .badArg)) ∧
    (formed → s.locked = false → ¬ clash → bars →
      exec (.targetWrite serial target cls flags) s = .next (base.turnedDown .inUse)) ∧
    (formed → s.locked = false → ¬ clash → ¬ bars →
      exec (.targetWrite serial target cls flags) s = .next { base with
        statics := s.statics.set u new, store := { s.store with rowWait := some (.target u new) },
        lastOutcome := .pending, lastReason := none })

/-- R143, R165, R166: CONFIG_WRITE: refused where item, index or value is out of range, then where the part is LOCKED, and
otherwise the row write waits, CONFIG_CHANGED is set and the rows in force stay. Each of the items 1 to 20 with its index and
its range, over the stored row, or over the defaults of a row that is blank or fails its check (for the profile and the
partition those of the geometry in force, log entries 25 and 40). -/
def Obligations.ConfigWrite : Prop :=
  ∀ (serial item index value : Word) (s : State), s.takesRequests →
    let base := s.taken serial 13 item index value 0
    let n := index.toNat
    let v := value.toNat
    let row := s.configRow item.toNat n v
    (row = none → exec (.configWrite serial item index value) s = .next (base.turnedDown .badArg)) ∧
    (row ≠ none → s.locked = true →
      exec (.configWrite serial item index value) s = .next (base.turnedDown .locked)) ∧
    (∀ w, row = some w → s.locked = false →
      exec (.configWrite serial item index value) s = .next { base with
        configChanged := true, store := { s.store with rowWait := some w },
        lastOutcome := .pending, lastReason := none }) ∧
    (item.toNat = 0 ∨ 20 < item.toNat → row = none) ∧
    (5 ≤ item.toNat → item.toNat ≤ 8 → 15 < n → row = none) ∧
    (9 ≤ item.toNat → item.toNat ≤ 11 → 7 < n → row = none) ∧
    (item.toNat < 5 ∨ 11 < item.toNat → n ≠ 0 → row = none) ∧
    (let g := s.store.geometryRow.content?.getD { capacity := 16, addrBytes := 3, busyBit := 0, failBit := 5 }
     n = 0 →
      (item = 1 → row = if v = 8 ∨ v = 16 ∨ v = 32 ∨ v = 64 then some (.geometry { g with capacity := v }) else none) ∧
      (item = 2 → row = if v = 3 ∨ v = 4 then some (.geometry { g with addrBytes := v }) else none) ∧
      (item = 3 → row = if v ≤ 7 then some (.geometry { g with busyBit := v }) else none) ∧
      (item = 4 → row = if v ≤ 7 then some (.geometry { g with failBit := v }) else none)) ∧
    (let p := s.store.profileRow.content?.getD (defaultProfile s.cfg.geometry)
     let put (f : ProfileEntry → ProfileEntry) : RowWrite := .profile (p.modify n f)
     let classes : List TxClass :=
       [.read, .program, .eraseSector, .eraseLarge, .eraseChip, .writeEnable, .writeDisable, .statusRead, .pass, .block]
     n ≤ 15 →
      (item = 5 → row = if v ≤ 255 then some (put fun e => { e with opcode := BitVec.ofNat 8 v }) else none) ∧
      (item = 6 → row = classes[v]?.map fun c => put fun e => { e with cls := c }) ∧
      (item = 7 → row = if v = 0 ∨ v = 3 ∨ v = 4 then some (put fun e => { e with addrLen := v }) else none) ∧
      (item = 8 → row = if v ≤ 15 then some (put fun e => { e with dummyLen := v }) else none)) ∧
    (let p := s.store.partitionRow.content?.getD (defaultPartition s.cfg.geometry.sectors)
     let put (f : Region → Region) : RowWrite := .partition (p.modify n f)
     let kinds : List RegionKind := [.liveOpen, .liveProtected, .bootWindow, .staging, .control]
     n ≤ 7 →
      (item = 9 → row = kinds[v]?.map fun k => put fun r => { r with kind := k }) ∧
      (item = 10 → row = if v ≤ 16383 then some (put fun r => { r with start := v }) else none) ∧
      (item = 11 → row = if v ≤ 16384 then some (put fun r => { r with length := v }) else none)) ∧
    (let c := s.store.settingsRow.content?.getD
      { spareCount := 32, egMax := 8, egWindow := 1000, wearGap := 256, tMax := 3, patrolPeriod := 5,
        scanScope := .bootHeader, alertMode := .onRead, alertMask := 0x70EA#16 }
     let put (c : Settings) : Option RowWrite := some (.settings c)
     let scopes : List ScanScope := [.none, .bootHeader, .bootFull]
     let modes : List AlertMode := [.onRead, .onAck]
     n = 0 →
      (item = 12 → row = if 8 ≤ v ∧ v ≤ 256 then put { c with spareCount := v } else none) ∧
      (item = 13 → row = if 1 ≤ v ∧ v ≤ 16 then put { c with egMax := v } else none) ∧
      (item = 14 → row = if 100 ≤ v ∧ v ≤ 60000 then put { c with egWindow := v } else none) ∧
      (item = 15 → row = if 16 ≤ v ∧ v ≤ 4096 then put { c with wearGap := v } else none) ∧
      (item = 16 → row = if 1 ≤ v ∧ v ≤ 7 then put { c with tMax := v } else none) ∧
      (item = 17 → row = if v ≤ 3600 then put { c with patrolPeriod := v } else none) ∧
      (item = 18 → row = scopes[v]?.map fun x => .settings { c with scanScope := x }) ∧
      (item = 19 → row = modes[v]?.map fun x => .settings { c with alertMode := x }) ∧
      (item = 20 → row = if v ≤ 65535 then put { c with alertMask := BitVec.ofNat 16 v } else none))

/-- R162: FACTORY_CLEAR. -/
def Obligations.FactoryClear : Prop :=
  ∀ (serial : Word) (s : State), s.takesRequests →
    ∃ t, exec (.factoryClear serial) s = .next t ∧ t.lastOutcome = .pending ∧
      t.keys = List.replicate 8 .empty ∧ t.locked = false ∧
      (∀ u, t.dynAt u = { s.dynAt u with floor := 0 }) ∧
      t.store.rowWait = some (.key { keys := List.replicate 8 .empty, locked := false }) ∧
      t.store.offers = s.store.offers ++
        (List.range 16).map (fun u => { payload := .target u { s.dynAt u with floor := 0 }, owner := .request }) ∧
      t.statics = s.statics ∧ t.cfg = s.cfg ∧ t.code = s.code ∧ t.slots = s.slots ∧ t.map = s.map ∧ t.pool = s.pool ∧
      t.health = s.health ∧ t.log = s.log ∧ t.flash = s.flash ∧ t.guard = s.guard ∧ t.tracker = s.tracker ∧
      t.store.keyRow = s.store.keyRow ∧ t.store.settingsRow = s.store.settingsRow

/-- R171: REQUEST_NOT_CARRIED: BUSY leaves all but the last-busy serial; a bad record and an unknown code replace the request
page and show their reasons; and a PENDING request makes every request BUSY (ACTIVATE and LOG_FREE stand for them). -/
def Obligations.RequestTurnedAway : Prop :=
  ∀ (image : List Byte) (s : State), s.phase = .running → s.portOpen = true → s.hrstDriven = false →
    s.tracker = .idle →
    let base : State := { s with hostOut := [], memOut := [], echo := false }
    let shown (r : ReqReason) : State :=
      { base with
        reqPage := image, lastSerial := some (wordAt image 4), lastCode := some (wordAt image 8),
        lastOutcome := .refused, lastReason := some r }
    (s.lastOutcome = .pending →
      exec (.requestNotCarried image) s = .next { base with lastBusy := some (wordAt image 4) }) ∧
    (s.lastOutcome ≠ .pending → recordGood image = false →
      exec (.requestNotCarried image) s = .next (shown .badRecord)) ∧
    (s.lastOutcome ≠ .pending → recordGood image = true →
      ((wordAt image 8).toNat = 0 ∨ 15 < (wordAt image 8).toNat) →
      exec (.requestNotCarried image) s = .next (shown .unknownCode)) ∧
    (∀ serial x, s.lastOutcome = .pending →
      exec (.activate serial x) s = .next { base with lastBusy := some serial } ∧
      exec (.logFree serial x) s = .next { base with lastBusy := some serial })

/-- R89, R171, 11.7: the record of a request row carries its words and passes its check. -/
def Obligations.RecordRoundTrip : Prop :=
  ∀ serial code a1 a2 a3 a4 : Word,
    let image := recordImage serial code a1 a2 a3 a4
    image.length = 256 ∧ recordGood image = true ∧ wordAt image 0 = 0x31524B48#32 ∧ wordAt image 4 = serial ∧
    wordAt image 8 = code ∧ wordAt image 12 = a1 ∧ wordAt image 16 = a2 ∧ wordAt image 20 = a3 ∧ wordAt image 24 = a4

/-- R39, R170, R171, 11.7: a PROGRAM to the first byte of the request page that carries the image of a record of any of the 15
codes has the effect of that code's row; the arguments a code does not read are 0 there (log entry 12). Nothing of a program to
the request page, whatever its data, reaches the flash. -/
def Obligations.ProgramIsRequest : Prop :=
  ∀ (tx : HostTxn) (n a b c : Word) (s : State), s.takes .program tx = true → s.tracker = .idle →
    txnAddress tx = s.cfg.startOf .control * 4096 + 512 → s.cfg.kindAt (txnAddress tx / 4096) = some .control →
    let sent (code a1 a2 a3 a4 : Word) (i : Instr) : Prop :=
      tx.data = recordImage n code a1 a2 a3 a4 → exec (.program tx) s = exec i s
    (∃ t, exec (.program tx) s = .next t ∧ t.memOut = [] ∧ t.flash = s.flash) ∧
    sent 1 a 0 0 0 (.activate n a) ∧ sent 2 a 0 0 0 (.confirm n a) ∧ sent 3 a 0 0 0 (.abandon n a) ∧
    sent 4 a 0 0 0 (.discard n a) ∧ sent 5 0 0 0 0 (.clearStaging n) ∧ sent 6 a 0 0 0 (.setSlotCode n a) ∧
    sent 7 a 0 0 0 (.logFree n a) ∧ sent 8 0 0 0 0 (.ackAlert n) ∧ sent 9 0 0 0 0 (.reload n) ∧
    sent 10 a b 0 0 (.keyWrite n a b) ∧ sent 11 a 0 0 0 (.keyRevoke n a) ∧ sent 12 a b 0 c (.targetWrite n a b c) ∧
    sent 13 a b c 0 (.configWrite n a b c) ∧ sent 14 0 0 0 0 (.lock n) ∧ sent 15 0 0 0 0 (.factoryClear n)

/-! ### The part's own steps on the memory side -/

/-- R1, R16, R50, R53, R69, R96, R97, R104: a status byte with busy 0 ends an operation: the tracker is IDLE; without the
fail bit nothing else of the part changes at the end of an erase, or of a program with no owner; with it an erased staging
sector is suspect and not clean, and a programmed chunk of a FILLING slot is MISMATCH and its sector suspect. The end of an
erase, or of a program with no owner, that the flash ignored changes nothing but the tracker. At the end of a header page
the slot's admission job joins the list where every page of the manifest is in; at the end of a chunk page a COMPLETE chunk
joins the verify queue's tail, or goes in flight where the engine has nothing to do. A byte with busy 1 changes nothing. -/
def Obligations.OperationEnds : Prop :=
  (∀ (answer : Byte) (s : State) (op : OpRecord), s.phase = .running → s.flash.op = none → s.flash.ignored = true →
    let ended : State :=
      { s with hostOut := [], memOut := [], tracker := .idle, flash := { s.flash with ignored := false } }
    (s.tracker = .programInFlight op → op.sectors = none → exec (.programEnd answer) s = .next ended) ∧
    (s.tracker = .eraseInFlight op → exec (.eraseEnd answer) s = .next ended)) ∧
  (∀ (answer : Byte) (s : State) (op : OpRecord) (fop : FlashOp), s.phase = .running → s.flash.op = some fop →
    let ended : State :=
      { s with
        hostOut := [], memOut := [], tracker := .idle, freeCount := s.freeCount + 1,
        flash := { s.flash.finish fop (s.cfg.failed answer) s.freeCount with ignored := false } }
    (s.tracker = .programInFlight op → s.cfg.busy answer = false → op.sectors = none →
      exec (.programEnd answer) s = .next ended) ∧
    (s.tracker = .eraseInFlight op → s.cfg.busy answer = false →
      (op.sectors = none ∨ s.cfg.failed answer = false) → exec (.eraseEnd answer) s = .next ended) ∧
    (∀ l p, s.tracker = .eraseInFlight op → s.cfg.busy answer = false → s.cfg.failed answer = true →
      op.sectors = some (l, p) →
      ∃ t, exec (.eraseEnd answer) s = .next t ∧ t.tracker = .idle ∧ t.isClean l = false ∧
        (t.healthOf p).suspect = true ∧ t.flash = ended.flash ∧ t.map = s.map ∧ t.pool = s.pool ∧ t.echo = s.echo) ∧
    (∀ l p i k c, s.tracker = .programInFlight op → s.cfg.busy answer = false → s.cfg.failed answer = true →
      op.sectors = some (l, p) → s.slotOf l = some (i, k) → 0 < k → (s.slotAt i).state = .filling →
      s.chunkAt i k = some c →
      ∃ t, exec (.programEnd answer) s = .next t ∧ t.tracker = .idle ∧ (t.healthOf p).suspect = true ∧
        (t.chunkAt i k).map Chunk.state = some .mismatch ∧ (t.slotAt i).state = .filling ∧
        t.flash = ended.flash ∧ t.map = s.map ∧ t.pool = s.pool ∧ t.echo = s.echo ∧ t.pendingWD = s.pendingWD) ∧
    (∀ l p i w, s.tracker = .programInFlight op → s.cfg.busy answer = false → s.cfg.failed answer = false →
      op.sectors = some (l, p) → s.slotOf l = some (i, 0) → (s.slotAt i).state = .header →
      (s.slotAt i).captured = some w → (∀ m ∈ s.manifestJobs, m.slot ≠ i) →
      let whole : Prop := ∀ g, g < (w.2.toNat + 63) / 64 → (s.slotAt i).headerMask.getLsbD g = true
      ∃ t, exec (.programEnd answer) s = .next t ∧ t.tracker = .idle ∧ t.slotAt i = s.slotAt i ∧ t.log = s.log ∧
        t.flash = ended.flash ∧ t.store = s.store ∧ t.health = s.health ∧
        (whole → w.2.toNat ≤ 1024 → { slot := i, reload := false } ∈ t.manifestJobs ∧
          (s.job = none → s.scan = none → s.aside = none → s.manifestJobs = [] →
            ∃ j, t.job = some j ∧ j.kind = .admission ∧ j.slot = i ∧ j.pass = .first ∧ j.index = 0)) ∧
        (¬ whole → w.2.toNat ≤ 1024 → t.manifestJobs = s.manifestJobs)) ∧
    (∀ l p i k c, s.tracker = .programInFlight op → s.cfg.busy answer = false → s.cfg.failed answer = false →
      op.sectors = some (l, p) → s.slotOf l = some (i, k) → 0 < k → (s.slotAt i).state = .filling →
      s.chunkAt i k = some c →
      ∃ t, exec (.programEnd answer) s = .next t ∧ t.tracker = .idle ∧ t.log = s.log ∧ t.flash = ended.flash ∧
        t.store = s.store ∧ t.health = s.health ∧
        (t.chunkAt i k).map (fun x => (x.state, x.mask, x.origin)) = some (c.state, c.mask, c.origin) ∧
        (c.state = .complete → c.queued = false → s.verifyQueue.length < 32 →
          (t.chunkAt i k).map Chunk.queued = some true ∧
          (s.job.isSome = true →
            t.verifyQueue.take (s.verifyQueue.length + 1) =
              s.verifyQueue ++ [{ kind := .chunk, slot := i, chunk := k }]) ∧
          (s.job = none → s.scan = none → s.aside = none → s.manifestJobs = [] → s.verifyQueue = [] →
            ∃ j, t.job = some j ∧ j.kind = .chunk ∧ j.slot = i ∧ j.chunk = k ∧ j.index = 0))) ∧
    (s.tracker = .programInFlight op → s.cfg.busy answer = true →
      exec (.programEnd answer) s = .next { s with hostOut := [], memOut := [] }) ∧
    (s.tracker = .eraseInFlight op → s.cfg.busy answer = true →
      exec (.eraseEnd answer) s = .next { s with hostOut := [], memOut := [] }))

/-- R17: a poll reads status bytes until one shows busy 0 and then has the effect of that byte; a poll with no such byte
changes nothing: the host cut it, or it goes on while the part drives HRST_N low, where the host cannot cut it (R2; that the
model then shows it as an uncut poll of those bytes is log entry 11, the model's choice). -/
def Obligations.StatusPolled : Prop :=
  ∀ (s : State) (waits : List Byte) (last : Byte) (fop : FlashOp), s.idleGap = true → s.tracker.inFlight = true →
    s.flash.op = some fop → (∀ b ∈ waits, s.cfg.busy b = true) →
    let poll (n : Nat) (cut : Bool) : MemTxn := ownTxn (firstOfClass s.cfg.profile .statusRead) none n cut
    exec (.statusPoll waits) s = .next { s with hostOut := [], memOut := [poll waits.length (!s.hrstDriven)] } ∧
    (s.cfg.busy last = false → ∃ t,
      (∀ op, s.tracker = .programInFlight op → exec (.programEnd last) s = .next t) ∧
      (∀ op, s.tracker = .eraseInFlight op → exec (.eraseEnd last) s = .next t) ∧
      exec (.statusPoll (waits ++ [last])) s = .next { t with memOut := [poll (waits.length + 1) false] })

/-- R14, R24: the pending write-disable is sent in an idle gap while the tracker is IDLE or holds an erase that may not go
yet; the flag is cleared at the end of the send, and a cut leaves it. While the part drives HRST_N low the host cuts nothing
(R2). That a cut leaves the flash's latch too is the model's choice (log entry 11, PRESUMED). -/
def Obligations.PendingWriteDisable : Prop :=
  ∀ s : State, s.idleGap = true → s.pendingWD = true →
    (s.tracker = .idle ∨ ∃ op h, s.tracker = .eraseHeld op h ∧ (h.recordOpen = true ∨ h.guardOpen = true)) →
    let sent (cut : Bool) : MemTxn := ownTxn (firstOfClass s.cfg.profile .writeDisable) none 0 cut
    exec (.pendingWriteDisable false) s = .next { s with
      hostOut := [], memOut := [sent false], pendingWD := false, flash := { s.flash with latch := false } } ∧
    (s.hrstDriven = false →
      exec (.pendingWriteDisable true) s = .next { s with hostOut := [], memOut := [sent true] }) ∧
    (s.hrstDriven = true → exec (.pendingWriteDisable true) s = exec (.pendingWriteDisable false) s)

/-- R19, R22: the guard condition of a held erase is released once fewer than EG_MAX forwarding times lie in the window, and
not before; nothing else changes. -/
def Obligations.GuardReleased : Prop :=
  ∀ (elapsed : Nat) (s : State) (op : OpRecord) (h : Hold), s.phase = .running → s.tracker = .eraseHeld op h →
    h.guardOpen = true →
    let now := s.clock + elapsed
    let used := (s.guard.filter fun x => decide (now < x + s.cfg.settings.egWindow) && decide (x ≤ now)).length
    exec (.guardRelease elapsed) s = .next { s with
      hostOut := [], memOut := [], clock := now,
      tracker := .eraseHeld op { h with guardOpen := decide (s.cfg.settings.egMax ≤ used) } }

/-- R20, R22, R59: a held erase whose hold has ended is sent after a WRITE_ENABLE; a cut in either leaves it held, and that
a cut in the WRITE_ENABLE leaves the flash's latch is the model's choice (log entry 11, PRESUMED); the time of a forwarded
erase joins the guard list and the flash starts it; a staging erase moves its logical sector as decided, wears its target
and makes the sector clean. While the part drives HRST_N low the host cuts nothing (R2). An address beyond what 3 address
bytes carry is log entry 41, the model's choice. -/
def Obligations.HeldEraseSent : Prop :=
  ∀ (elapsed : Nat) (s : State) (op : OpRecord) (h : Hold), s.idleGap = true → s.tracker = .eraseHeld op h →
    h.recordOpen = false → h.guardOpen = false → s.formsWf →
    let now := s.clock + elapsed
    let enable (cut : Bool) : MemTxn := ownTxn (firstOfClass s.cfg.profile .writeEnable) none 0 cut
    (s.hrstDriven = false →
      exec (.heldEraseForward elapsed .inEnable) s = .next { s with
        hostOut := [], memOut := [enable true], clock := now } ∧
      exec (.heldEraseForward elapsed .inErase) s = .next { s with
        hostOut := [], memOut := [enable false, s.heldTxn op h true], clock := now,
        flash := { s.flash with latch := true } }) ∧
    (s.hrstDriven = true → ∀ cut,
      exec (.heldEraseForward elapsed cut) s = exec (.heldEraseForward elapsed .whole) s) ∧
    (h.decision = none →
      exec (.heldEraseForward elapsed .whole) s = .next { s with
        hostOut := [], memOut := [enable false, s.heldTxn op h false], clock := now, pendingWD := false,
        tracker := .eraseInFlight op,
        guard := (if s.guard.length < s.cfg.settings.egMax then s.guard else s.guard.drop 1) ++ [now],
        flash := { s.flash with latch := true }.startOp (eraseRange op.cls op.address) }) ∧
    (∀ d, h.decision = some d → ∃ t, exec (.heldEraseForward elapsed .whole) s = .next t ∧
      t.tracker = .eraseInFlight op ∧ t.memOut = [enable false, s.heldTxn op h false] ∧ t.pendingWD = false ∧
      t.clock = now ∧
      t.guard = (if s.guard.length < s.cfg.settings.egMax then s.guard else s.guard.drop 1) ++ [now] ∧
      t.flash = { s.flash with latch := true }.startOp
        (eraseRange op.cls (s.cfg.physicalAddr d.target (op.address % 4096))) ∧
      t.isClean d.logical = true ∧
      (d.moves = true → t.physical d.logical = d.target) ∧
      (d.moves = false → t.map = s.map ∧ t.pool = s.pool) ∧
      (d.target ≠ d.source ∨ d.moves = false →
        (t.healthOf d.target).wear = min ((s.healthOf d.target).wear + 1) 65534) ∧
      (∀ l, l ≠ d.logical → t.physical l = s.physical l) ∧ t.log = s.log ∧ t.echo = s.echo)

/-- R84, R86, R87, R119: a read of `n` words folds each into the accumulator of the job in flight, in order; nothing else
changes but the counter behind the free values. The bytes of a word in which the host cuts the read are discarded, and the
next word index still names that word. While the part drives HRST_N low no read is cut; that the model then reads a word in
progress whole is log entry 11, and that the whole address is read, whatever the entry's address length, log entry 41: the
model's choices. -/
def Obligations.WordsFolded : Prop :=
  ∀ s : State,
    (∀ (j : Job) (n : Nat), s.readReady = true → s.job = some j → j.pass = .fold → j.index + n ≤ j.count →
      j.offset = 0 → s.flash.op = none →
      let byte (k o : Nat) : Byte := cellAt s.flash.cells (s.translate j.sector (4 * (j.index + k) + o))
      let word (k : Nat) : Nat := (wordOfBytes (byte k 0) (byte k 1) (byte k 2) (byte k 3)).toNat
      let folded (bytes : Nat) (cut : Bool) : State := { s with
        hostOut := [],
        memOut := [ownTxn (ownReadEntry s.cfg) (some (s.translate j.sector (4 * j.index))) bytes cut],
        job := some { j with
          index := j.index + n,
          acc := (List.range n).foldl (fun a k => (a * j.base + word k % 4294967291) % 4294967291) j.acc },
        freeCount := s.freeCount + 1 }
      (0 < n → exec (.verifyRead (4 * n) []) s = .next (folded (4 * n) false)) ∧
      (∀ part, s.hrstDriven = false → j.index + n < j.count → 0 < part → part < 4 →
        exec (.verifyRead (4 * n + part) []) s = .next (folded (4 * n + part) true))) ∧
    (s.hrstDriven = true → ∀ (bytes : Nat) (drift : Drift),
      exec (.verifyRead bytes drift) s = exec (.verifyRead (4 * ((bytes - 1) / 4 + 1)) drift) s ∧
      ∃ t, exec (.verifyRead bytes drift) s = .next t ∧ ∀ m ∈ t.memOut, m.cut = false)

/-! ### Verdicts -/

/-- R74 to R77: an admission job whose words pass the eight checks admits its slot; otherwise the slot is REJECTED with the
reason of the first check that fails. -/
def Obligations.AdmissionDecided : Prop :=
  ∀ (s : State) (j : Job), s.verdictJob .admission = some j → j.slot < s.slots.length →
    let i := j.slot
    let w := s.manifestWords j
    let f (n : Nat) : Nat := (w.getD n 0).toNat
    let target := f 2 % 65536
    let chunks := (f 4 + 4095) / 4096
    let c1 : Prop := w.getD 0 0 = 0x314D4B48#32 ∧ (s.slotAt i).captured = some (w.getD 0 0, w.getD 1 0) ∧
      10 ≤ f 1 ∧ f 1 ≤ 1024 ∧ 0 < f 4 ∧ f 4 % 4 = 0 ∧ f 1 = 9 + chunks
    let c2 : Prop := target < 16 ∧ (s.staticAt target).inUse = true
    let c3 : Prop := f 2 / 65536 = (s.staticAt target).cls
    let c4 : Prop := f 6 < 8 ∧ (∃ v, s.keyAt (f 6) = .active v) ∧ (s.staticAt target).keyMask.getLsbD (f 6) = true
    let c5 : Prop := s.foldMatches j = true
    let c6 : Prop := 2 ≤ f 5 ∧ f 5 ≤ 4294967290
    let c7 : Prop := chunks ≤ min (s.slotSize - 1) 1015
    let c8 : Prop := (s.dynAt target).floor ≤ f 3
    let rejected (x : Reason) : Prop :=
      ∃ t, exec (.admissionVerdict []) s = .next t ∧ (t.slotAt i).state = .rejected ∧ (t.slotAt i).reason = some x ∧
        (t.slotAt i).captured = none ∧ (t.slotAt i).headerMask = 0 ∧
        t.log.getLast? = some
          { seq := s.nextLogSeq, kind := .rejected, reason := some x, slot := some i,
            target := if target < 16 then some target else none, chunk := none, value := some (f 3), address := none } ∧
        t.flash = s.flash ∧ t.store = s.store ∧ t.targets = s.targets ∧ t.map = s.map
    (¬ c1 → rejected .badFormat) ∧
    (c1 → ¬ c2 → rejected .unknownTarget) ∧
    (c1 → c2 → ¬ c3 → rejected .wrongClass) ∧
    (c1 → c2 → c3 → ¬ c4 → rejected .keyRefused) ∧
    (c1 → c2 → c3 → c4 → ¬ c5 → rejected .tagMismatch) ∧
    (c1 → c2 → c3 → c4 → c5 → ¬ c6 → rejected .badBase) ∧
    (c1 → c2 → c3 → c4 → c5 → c6 → ¬ c7 → rejected .tooLarge) ∧
    (c1 → c2 → c3 → c4 → c5 → c6 → c7 → ¬ c8 → rejected .rollback) ∧
    (c1 → c2 → c3 → c4 → c5 → c6 → c7 → c8 →
      let m : Summary :=
        { target := target, version := f 3, imageLen := f 4, chunks := chunks, base := f 5, keySlot := f 6 }
      ∃ t, exec (.admissionVerdict []) s = .next t ∧ (t.slotAt i).state = .filling ∧
        (t.slotAt i).summary = some m ∧ (t.slotAt i).decayed = false ∧
        (t.slotAt i).chunks = (List.range' 1 chunks).map (fun c =>
          { state := if s.isClean (i * s.slotSize + c) then .empty else .stale, mask := 0, origin := .written,
            queued := false }) ∧
        (t.slotAt i).captured = none ∧ (t.slotAt i).headerMask = 0 ∧
        t.log.getLast? = some
          { seq := s.nextLogSeq, kind := .admitted, reason := none, slot := some i,
            target := some target, chunk := none, value := some (f 3), address := none } ∧
        t.store.offers = s.store.offers ++
          [{ payload := .slot i { state := .filling, decayed := false, summary := some m }, owner := .nobody }] ∧
        t.flash = s.flash ∧ t.map = s.map ∧ t.targets = s.targets)

/-- R80 to R82, R99, R132: the three checks of a reload in order. A passed reload makes every chunk of a SEALED, TRIAL, ACTIVE or
FALLBACK slot VERIFIED, and every STALE chunk of a FILLING slot that the host has not erased since start-up COMPLETE with
origin RECOVERED and a full page mask; a failed one makes a FILLING, SEALED or TRIAL slot FAILED, ending the trial, and marks
an ACTIVE or FALLBACK slot DECAYED. The mark is cleared either way. -/
def Obligations.ReloadDecided : Prop :=
  ∀ (s : State) (j : Job), s.verdictJob .reload = some j →
    let i := j.slot
    let r := s.slotAt i
    let w := s.manifestWords j
    let f (n : Nat) : Nat := (w.getD n 0).toNat
    let chunks := (f 4 + 4095) / 4096
    let c1 : Bool := w.getD 0 0 == 0x314D4B48#32 && decide (10 ≤ f 1) && decide (f 1 ≤ 1024) && decide (0 < f 4) &&
      f 4 % 4 == 0 && f 1 == 9 + chunks && decide (r.summary = some
        { target := f 2 % 65536, version := f 3, imageLen := f 4, chunks := chunks, base := f 5, keySlot := f 6 })
    let c2 : Bool := s.foldMatches j
    let c3 : Bool := decide (chunks ≤ min (s.slotSize - 1) 1015)
    let failure : Option Reason :=
      if c1 = false then some .badFormat else if c2 = false then some .tagMismatch
      else if c3 = false then some .tooLarge else none
    (failure = none → r.state = .sealed ∨ r.state = .trial ∨ r.state = .active ∨ r.state = .fallback →
      ∃ t, exec (.reloadVerdict []) s = .next t ∧ (t.slotAt i).state = r.state ∧ (t.slotAt i).reload = false ∧
        (∀ c ∈ (t.slotAt i).chunks, c.state = .verified) ∧ t.log = s.log ∧ t.store = s.store ∧ t.flash = s.flash) ∧
    (failure = none → r.state = .filling →
      ∃ t, exec (.reloadVerdict []) s = .next t ∧ (t.slotAt i).state = .filling ∧ (t.slotAt i).reload = false ∧
        (∀ c x m, s.chunkAt i c = some x → r.summary = some m → ∃ y, t.chunkAt i c = some y ∧
          (x.state = .stale → x.hostErased = false →
            y.state = .complete ∧ y.origin = .recovered ∧ y.mask = BitVec.ofNat 16 (2 ^ m.pagesNeeded c - 1)) ∧
          (x.state ≠ .stale ∨ x.hostErased = true → y.state = x.state ∧ y.origin = x.origin ∧ y.mask = x.mask)) ∧
        t.log = s.log ∧ t.store = s.store ∧ t.flash = s.flash) ∧
    (∀ reason m, failure = some reason → r.state = .trial → r.summary = some m → m.target < s.targets.length →
      ∃ t, exec (.reloadVerdict []) s = .next t ∧ (t.slotAt i).state = .failed ∧ (t.slotAt i).reload = false ∧
        t.dynAt m.target = { s.dynAt m.target with trial := none, bootsLeft := 0 } ∧
        t.log.getLast? = some
          { seq := s.nextLogSeq, kind := .trialFailed, reason := some reason, slot := some i,
            target := some m.target, chunk := none, value := some m.version, address := none } ∧ t.flash = s.flash) ∧
    (∀ reason, failure = some reason → r.state = .filling ∨ r.state = .sealed →
      ∃ t, exec (.reloadVerdict []) s = .next t ∧ (t.slotAt i).state = .failed ∧ (t.slotAt i).reload = false ∧
        t.log.getLast? = some
          { seq := s.nextLogSeq, kind := .rejected, reason := some reason, slot := some i,
            target := r.target?, chunk := none, value := some r.version, address := none } ∧ t.flash = s.flash) ∧
    (∀ reason, failure = some reason → r.state = .active ∨ r.state = .fallback →
      ∃ t, exec (.reloadVerdict []) s = .next t ∧ (t.slotAt i).state = r.state ∧ (t.slotAt i).decayed = true ∧
        (t.slotAt i).reload = false ∧ t.flash = s.flash)

/-- R109 to R112: a CHUNK verdict on a COMPLETE chunk of a FILLING slot: a match makes it VERIFIED and clears the strikes of
the sector read, a mismatch makes it MISMATCH or, for a RECOVERED chunk, STALE with no strike and no log entry; on any
other chunk the verdict is discarded. -/
def Obligations.ChunkDecided : Prop :=
  ∀ (s : State) (j : Job) (k : Chunk), s.verdictJob .chunk = some j → s.chunkAt j.slot j.chunk = some k →
    s.formsWf →
    let good := s.foldMatches j
    let p := s.physical j.sector
    ∃ t, exec (.chunkVerdict []) s = .next t ∧
      t.flash = s.flash ∧ t.map = s.map ∧ t.pool = s.pool ∧ t.tracker = s.tracker ∧ t.targets = s.targets ∧
      ((s.slotAt j.slot).state = .filling → k.state = .complete →
        (good = true → (t.chunkAt j.slot j.chunk).map Chunk.state = some .verified ∧ t.strikesOf p = 0) ∧
        (good = false → k.origin = .written → (t.chunkAt j.slot j.chunk).map Chunk.state = some .mismatch) ∧
        (good = false → k.origin = .recovered →
          (t.chunkAt j.slot j.chunk).map Chunk.state = some .stale ∧ t.log = s.log ∧ t.strikes = s.strikes)) ∧
      ((s.slotAt j.slot).state ≠ .filling ∨ k.state ≠ .complete →
        (t.chunkAt j.slot j.chunk).map Chunk.state = some k.state ∧ t.log = s.log ∧ t.strikes = s.strikes ∧
        t.store = s.store)

/-- R113: the match that makes the last chunk of a slot VERIFIED seals the slot, with its log entry and SLOT record. -/
def Obligations.LastMatchSeals : Prop :=
  ∀ (s : State) (j : Job) (k : Chunk), s.verdictJob .chunk = some j → s.chunkAt j.slot j.chunk = some k →
    s.foldMatches j = true → (s.slotAt j.slot).state = .filling → k.state = .complete →
    (∀ c x, s.chunkAt j.slot c = some x → c ≠ j.chunk → x.state = .verified) →
    ∃ t, exec (.chunkVerdict []) s = .next t ∧ (t.slotAt j.slot).state = .sealed ∧
      (t.slotAt j.slot).journaled = .sealed ∧
      t.log.getLast? = some
          { seq := s.nextLogSeq, kind := .sealed, reason := none, slot := some j.slot,
            target := (s.slotAt j.slot).target?, chunk := none, value := some (s.slotAt j.slot).version, address := none } ∧
      t.store.offers = s.store.offers ++
        [{ payload := .slot j.slot
            { state := .sealed, decayed := (s.slotAt j.slot).decayed, summary := (s.slotAt j.slot).summary },
           owner := .nobody }]

/-- R106, R114, R115: a tick that is due finds the first eligible chunk of the walk: it joins the queue's tail behind a busy
engine, is put in flight at once by an engine with nothing to do, is skipped where the queue is full, and nothing happens
where there is none. A tick taken late sets the next one a period after the time it was due, which is the model's choice (log
entry 35). -/
def Obligations.PatrolTicks : Prop :=
  ∀ (elapsed : Nat) (s : State) (due : Nat), s.phase = .running → s.nextTick = some due → due ≤ s.clock + elapsed →
    let ticked : State :=
      { s with
        hostOut := [], memOut := [], clock := s.clock + elapsed,
        nextTick := some (due + s.cfg.settings.patrolPeriod * 1000) }
    (s.walk.find? s.patrolEligible = none → exec (.patrolTick elapsed) s = .next ticked) ∧
    (32 ≤ s.verifyQueue.length → exec (.patrolTick elapsed) s = .next ticked) ∧
    (∀ i c, s.walk.find? s.patrolEligible = some (i, c) → s.verifyQueue.length < 32 → s.job.isSome = true →
      exec (.patrolTick elapsed) s = .next { ticked with
        slots := s.slots.modify i (SlotRec.updChunk c fun k => { k with queued := true }),
        verifyQueue := s.verifyQueue ++ [{ kind := .patrol, slot := i, chunk := c }],
        patrolSlot := if c < (s.slotAt i).chunks.length then i else (i + 1) % 2 ^ s.code,
        patrolChunk := if c < (s.slotAt i).chunks.length then c + 1 else 1 }) ∧
    (∀ i c, s.walk.find? s.patrolEligible = some (i, c) → s.verifyQueue = [] → s.job = none → s.scan = none →
      s.aside = none → s.manifestJobs = [] →
      ∃ t j, exec (.patrolTick elapsed) s = .next t ∧ t.job = some j ∧ j.kind = .patrol ∧ j.slot = i ∧ j.chunk = c ∧
        j.index = 0 ∧ t.nextTick = ticked.nextTick ∧ t.log = s.log ∧ t.store = s.store ∧ t.flash = s.flash)

/-- R116, R117, R132: a PATROL verdict on a VERIFIED chunk of a patrolled slot: a match leaves it VERIFIED in a slot of the
same state, with strikes 0 at the sector read and no log entry or record; a mismatch makes it MISMATCH, a SEALED or TRIAL
slot FAILED, ending the trial, and an ACTIVE or FALLBACK slot DECAYED in its state. -/
def Obligations.PatrolDecided : Prop :=
  ∀ (s : State) (j : Job) (k : Chunk), s.verdictJob .patrol = some j → s.chunkAt j.slot j.chunk = some k →
    s.formsWf →
    (s.slotAt j.slot).reload = false → (s.slotAt j.slot).decayed = false → k.state = .verified →
    let good := s.foldMatches j
    let before := (s.slotAt j.slot).state
    let chunkAfter (t : State) : Option ChunkState := (t.chunkAt j.slot j.chunk).map Chunk.state
    (good = true → before = .sealed ∨ before = .trial ∨ before = .active ∨ before = .fallback →
      ∃ t, exec (.patrolVerdict []) s = .next t ∧ chunkAfter t = some .verified ∧ (t.slotAt j.slot).state = before ∧
        t.strikesOf (s.physical j.sector) = 0 ∧ t.log = s.log ∧ t.store = s.store ∧ t.flash = s.flash) ∧
    (good = false → before = .sealed → ∃ t, exec (.patrolVerdict []) s = .next t ∧ chunkAfter t = some .mismatch ∧
      (t.slotAt j.slot).state = .failed ∧ t.flash = s.flash ∧ t.targets = s.targets) ∧
    (∀ m, good = false → before = .trial → (s.slotAt j.slot).summary = some m → m.target < s.targets.length →
      ∃ t, exec (.patrolVerdict []) s = .next t ∧ chunkAfter t = some .mismatch ∧
        (t.slotAt j.slot).state = .failed ∧ t.flash = s.flash ∧
        t.dynAt m.target = { s.dynAt m.target with trial := none, bootsLeft := 0 } ∧
        t.log.getLast? = some
          { seq := t.nextLogSeq - 1, kind := .trialFailed, reason := some .patrol, slot := some j.slot,
            target := some m.target, chunk := some j.chunk, value := some m.version, address := none }) ∧
    (good = false → before = .active ∨ before = .fallback →
      ∃ t, exec (.patrolVerdict []) s = .next t ∧ chunkAfter t = some .mismatch ∧ (t.slotAt j.slot).state = before ∧
        (t.slotAt j.slot).decayed = true ∧ t.flash = s.flash ∧ t.targets = s.targets)

/-- R119 to R121, R135 to R137: a manifest that passes under BOOT_FULL, or with the scan wish set, moves the cursor to
chunk 1, and a chunk that matches before the last moves it on; a chunk that does not match becomes MISMATCH. A passed scan
gives the boot event its slot, with TRIAL_BOOTED for a trial and RECOVERY_BOOT and the recovery flag for a fallback; a failed
scan of the active slot marks it DECAYED, and it is booted all the same where the target has no fallback. -/
def Obligations.ScanWalks : Prop :=
  ∀ (s : State) (j : Job) (c : Scan), s.scan = some c → s.formsWf →
    (s.verdictJob .scanManifest = some j → s.reloadFailure c.slot (s.manifestWords j) (s.foldMatches j) = none →
      c.full = true ∨ ((s.manifestWords j).getD 7 0).toNat % 2 = 1 →
      ∃ t, exec (.bootScanManifestVerdict []) s = .next t ∧ t.scan = some { c with chunk := 1, full := true } ∧
        (t.slotAt c.slot).state = (s.slotAt c.slot).state ∧ t.log = s.log ∧ t.store = s.store ∧ t.flash = s.flash ∧
        t.hrstDriven = s.hrstDriven) ∧
    (∀ k m, s.verdictJob .scanChunk = some j → s.chunkAt c.slot c.chunk = some k →
      (s.slotAt c.slot).summary = some m → s.foldMatches j = true → c.chunk < m.chunks →
      ∃ t, exec (.bootScanChunkVerdict []) s = .next t ∧ t.scan = some { c with chunk := c.chunk + 1 } ∧
        (t.chunkAt c.slot c.chunk).map Chunk.state = some .verified ∧ t.strikesOf (s.physical j.sector) = 0 ∧
        t.log = s.log ∧ t.store = s.store ∧ t.flash = s.flash ∧ t.hrstDriven = s.hrstDriven) ∧
    (∀ k, s.verdictJob .scanChunk = some j → s.chunkAt c.slot c.chunk = some k → s.foldMatches j = false →
      ∃ t, exec (.bootScanChunkVerdict []) s = .next t ∧
        (t.chunkAt c.slot c.chunk).map Chunk.state = some .mismatch ∧ t.flash = s.flash ∧
        t.hrstDriven = s.hrstDriven) ∧
    (∀ b u k m, s.verdictJob .scanChunk = some j → s.boot = some b → b.target = some u → u < s.targets.length →
      s.chunkAt c.slot c.chunk = some k → (s.slotAt c.slot).summary = some m →
      (s.foldMatches j = true → m.chunks ≤ c.chunk →
        ∃ t e, exec (.bootScanChunkVerdict []) s = .next t ∧ t.scan = none ∧ t.boot = some e ∧ e.settled = true ∧
          (t.dynAt u).booted = some c.slot ∧ (t.slotAt c.slot).state = (s.slotAt c.slot).state ∧
          (c.role = .trial → t.log.getLast? = some
            { seq := s.nextLogSeq, kind := .trialBooted, reason := none, slot := some c.slot, target := some m.target,
              chunk := none, value := some (s.dynAt u).bootsLeft, address := none }) ∧
          (c.role = .active → t.log = s.log) ∧
          (c.role = .fallback → (t.dynAt u).recovery = true ∧ t.log.getLast? = some
            { seq := s.nextLogSeq, kind := .recoveryBoot, reason := none, slot := some c.slot, target := some m.target,
              chunk := none, value := some m.version, address := none })) ∧
      (s.foldMatches j = false → c.role = .active → (s.dynAt u).active = some c.slot → (s.dynAt u).fallback = none →
        ∃ t e, exec (.bootScanChunkVerdict []) s = .next t ∧ t.scan = none ∧ t.boot = some e ∧ e.settled = true ∧
          (t.dynAt u).booted = some c.slot ∧ (t.slotAt c.slot).state = (s.slotAt c.slot).state ∧
          (t.slotAt c.slot).decayed = true))

/-! ### Boot events and start-up -/

/-- R21, R133, R134, R189: a host reset that is seen makes the part drive HRST_N and discard a held erase, whose decision's
moves are applied; an open trial with boots left loses one, and one with none left fails. -/
def Obligations.HostResetBegins : Prop :=
  ∀ s : State, s.phase = .running → s.hrstDriven = false → s.hrstSeenHigh = true → s.formsWf →
    ∃ t, exec .hostResetSeen s = .next t ∧ t.hrstDriven = true ∧ t.portOpen = false ∧ t.boot.isSome = true ∧
      t.phase = .running ∧ t.echo = s.echo ∧ t.pendingWD = s.pendingWD ∧ t.guard = s.guard ∧ t.flash = s.flash ∧
      t.lastOutcome = s.lastOutcome ∧ t.keys = s.keys ∧ t.cfg = s.cfg ∧
      ((∀ op h, s.tracker ≠ .eraseHeld op h) → t.tracker = s.tracker ∧ t.map = s.map ∧ t.clean = s.clean) ∧
      (∀ op h, s.tracker = .eraseHeld op h → t.tracker = .idle ∧
        ∀ d, h.decision = some d → t.isClean d.logical = false ∧
          (d.moves = true → t.physical d.logical = d.target)) ∧
      (∀ b i, s.bootTarget = some b → b < s.targets.length → (s.dynAt b).trial = some i →
        0 < (s.dynAt b).bootsLeft → (s.slotAt i).decayed = false → s.cfg.settings.scanScope ≠ .none →
        (t.dynAt b).bootsLeft = (s.dynAt b).bootsLeft - 1 ∧
        t.scan = some { slot := i, role := .trial, chunk := 0, full := s.cfg.settings.scanScope == .bootFull }) ∧
      (∀ b i, s.bootTarget = some b → b < s.targets.length → (s.dynAt b).trial = some i → (s.dynAt b).bootsLeft = 0 →
        i < s.slots.length →
        (t.slotAt i).state = .failed ∧ (t.dynAt b).trial = none ∧ (t.dynAt b).bootsLeft = 0) ∧
      (s.bootTarget = none → t.boot = some
        { startup := false, target := none, before := TargetDyn.blank, failedTrial := none, decayed := [],
          settled := true })

/-- R114, R133, R138, R187: HRST_N is released, and the port opens, when the boot event is settled and every record it
offered is written, and not before; the patrol timer starts at the end of start-up, and where no record is left in the queue
a due compaction no longer holds appends back (log entry 47). HRST_N is seen high only while the part does not drive it. -/
def Obligations.HrstLines : Prop :=
  ∀ (elapsed : Nat) (s : State) (b : BootEvent), s.phase = .running →
    (s.hrstDriven = true → s.boot = some b → b.settled = true → s.store.owes .boot = false →
      exec (.hrstRelease elapsed) s = .next { s with
        hostOut := [], memOut := [], clock := s.clock + elapsed, hrstDriven := false, hrstSeenHigh := false,
        portOpen := true, boot := none,
        store := (if s.store.queue = [] ∧ s.store.waiting = [] then { s.store with startHold := false } else s.store),
        nextTick :=
          if b.startup then
            if s.cfg.settings.patrolPeriod = 0 then none
            else some (s.clock + elapsed + s.cfg.settings.patrolPeriod * 1000)
          else s.nextTick }) ∧
    (s.boot = some b → b.settled = false ∨ s.store.owes .boot = true →
      exec (.hrstRelease elapsed) s = .next { s with hostOut := [], memOut := [], clock := s.clock + elapsed }) ∧
    (s.hrstDriven = false → exec .hrstNSeenHigh s = .next { s with hostOut := [], memOut := [], hrstSeenHigh := true }) ∧
    (s.hrstDriven = true → exec .hrstNSeenHigh s = .next { s with hostOut := [], memOut := [] })

/-- R5, R26, R40, R90, R142, R166, R167, R183: STARTUP loads the rows, starts the timebase at 0 and goes on to the wait for
the flash. A row that holds the check word of its content and meets its conditions is in force; any other gives its
defaults. Of two target rows with boot-mapped the lower-numbered keeps it. CONFIG_DEFAULTED says exactly whether a row that
is not blank was replaced, the spare count was lowered, or a boot-mapped mark was dropped. Nothing else changes. That a
profile entry shadowed by a lower one counts for the profile's conditions is log entry 39, the kind of the default
partition's unused entries log entry 40: the model's choices. -/
def Obligations.StartupLoads : Prop :=
  ∀ s : State, s.phase = .inReset →
    let st := s.store
    let geometryGood (g : Geometry) : Prop := ¬ (16 < g.capacity ∧ g.addrBytes = 3) ∧ g.busyBit ≠ g.failBit
    let profileGood (g : Geometry) (p : List ProfileEntry) : Prop :=
      (∃ e ∈ p, e.cls = .read) ∧ (∃ e ∈ p, e.cls = .statusRead) ∧ (∃ e ∈ p, e.cls = .writeEnable) ∧
      (∃ e ∈ p, e.cls = .writeDisable) ∧
      (∀ e ∈ p, e.cls = .read ∨ e.cls = .program ∨ e.cls = .eraseSector ∨ e.cls = .eraseLarge →
        e.addrLen = 3 ∨ e.addrLen = 4) ∧
      (∀ e ∈ p, e.cls = .statusRead ∨ e.cls = .writeEnable ∨ e.cls = .writeDisable ∨ e.cls = .eraseChip →
        e.addrLen = 0 ∧ e.dummyLen = 0) ∧
      (∀ e ∈ p, e.cls ≠ .block → e.addrLen = 4 → g.addrBytes ≠ 3)
    let partitionGood (c : Nat) (p : List Region) : Prop :=
      let used := p.filter fun r => r.length != 0
      (∃ r, used.filter (fun x => x.kind == .staging) = [r] ∧ 64 ≤ r.length ∧ r.length ≤ 8192) ∧
      (∃ r, used.filter (fun x => x.kind == .control) = [r] ∧ r.length = 8) ∧
      (used.filter fun x => x.kind == .bootWindow).length ≤ 1 ∧
      (∀ r ∈ used, r.start + r.length ≤ c) ∧
      used.Pairwise fun a b => a.start + a.length ≤ b.start ∨ b.start + b.length ≤ a.start
    let row (u : Nat) : TargetStatic := (st.targetRows.getD u .blank).content?.getD
      { inUse := false, cls := 0, keyMask := 0, bootMapped := false }
    ∃ t, exec .startup s = .next t ∧
      t = { s with
        phase := .idleWait, clock := 0, hostOut := [], memOut := [], configChanged := false, cfg := t.cfg,
        configDefaulted := t.configDefaulted, keys := t.keys, locked := t.locked, statics := t.statics,
        identity := t.identity } ∧
      (∀ g, st.geometryRow = .stored g → geometryGood g → t.cfg.geometry = g) ∧
      ((∀ g, st.geometryRow = .stored g → ¬ geometryGood g) →
        t.cfg.geometry = { capacity := 16, addrBytes := 3, busyBit := 0, failBit := 5 }) ∧
      (∀ p, st.profileRow = .stored p → profileGood t.cfg.geometry p → t.cfg.profile = p) ∧
      ((∀ p, st.profileRow = .stored p → ¬ profileGood t.cfg.geometry p) →
        t.cfg.profile = factoryProfile.take 13 ++ (factoryProfile.drop 13).map fun e =>
          { e with cls := if t.cfg.geometry.addrBytes = 3 then .block else e.cls }) ∧
      (∀ p, st.partitionRow = .stored p → partitionGood t.cfg.geometry.sectors p → t.cfg.partition = p) ∧
      ((∀ p, st.partitionRow = .stored p → ¬ partitionGood t.cfg.geometry.sectors p) →
        t.cfg.partition = defaultPartition t.cfg.geometry.sectors) ∧
      (∀ c, st.settingsRow = .stored c → t.cfg.settings = c) ∧
      ((∀ c, st.settingsRow ≠ .stored c) → t.cfg.settings =
        { spareCount := 32, egMax := 8, egWindow := 1000, wearGap := 256, tMax := 3, patrolPeriod := 5,
          scanScope := .bootHeader, alertMode := .onRead, alertMask := 0x70EA#16 }) ∧
      (∀ r ∈ t.cfg.partition, r.kind = .staging → r.length ≠ 0 →
        (∀ x ∈ t.cfg.partition, x.kind = .staging → x.length ≠ 0 → x = r) → t.cfg.sPhys = r.length) ∧
      t.cfg.sSp = min t.cfg.settings.spareCount (t.cfg.sPhys / 4) ∧
      (∀ k, st.keyRow = .stored k → t.keys = k.keys ∧ t.locked = k.locked) ∧
      ((∀ k, st.keyRow ≠ .stored k) → t.keys = List.replicate 8 .empty ∧ t.locked = false) ∧
      (∀ u, t.staticAt u = { row u with
        bootMapped := (row u).bootMapped && (List.range u).all fun v => !(row v).bootMapped }) ∧
      (∀ x, st.identityRow = .stored x → t.identity = identityPage x t.cfg) ∧
      ((∀ x, st.identityRow ≠ .stored x) → t.identity = identityPage (List.replicate 16 0xFF#8) t.cfg) ∧
      (t.configDefaulted = true ↔
        (st.geometryRow ≠ .blank ∧ ∀ g, st.geometryRow = .stored g → ¬ geometryGood g) ∨
        (st.profileRow ≠ .blank ∧ ∀ p, st.profileRow = .stored p → ¬ profileGood t.cfg.geometry p) ∨
        (st.partitionRow ≠ .blank ∧ ∀ p, st.partitionRow = .stored p → ¬ partitionGood t.cfg.geometry.sectors p) ∨
        (st.settingsRow ≠ .blank ∧ ∀ c, st.settingsRow ≠ .stored c) ∨
        (st.keyRow ≠ .blank ∧ ∀ k, st.keyRow ≠ .stored k) ∨
        (st.identityRow ≠ .blank ∧ ∀ x, st.identityRow ≠ .stored x) ∨
        (∃ r ∈ st.targetRows, r ≠ .blank ∧ ∀ c, r ≠ .stored c) ∨
        t.cfg.sPhys / 4 < t.cfg.settings.spareCount ∨
        (∃ u v, u < v ∧ v < st.targetRows.length ∧ (row u).bootMapped = true ∧ (row v).bootMapped = true))

/-- R48, R78, R79, R140, R153 to R156, R184 to R187: the wait goes on while the flash shows busy; the byte with busy 0 ends
it, whatever its fail bit. A journal half is valid as R153 says. With neither valid the staging area takes fresh state with
floors 0 and a compaction is due. From a chosen half each subject holds what the last record that names it carries, the
retired set, the pool and the strikes follow R48 and R156, the chunk tables are STALE and RECOVERED, FILLING slots wait for
their reload, and the journal goes on behind the last record, closed and with a compaction due as R148 and R154 say, for
whose snapshot the state that replay gave is kept; another signature gives fresh state that keeps the floors. With no boot-mapped target, every target and its slots stand as R140
reconciles what replay gave, and what changed is offered. That appends wait for a compaction due here is log entry 47, how
the part knows of a cut erase log entry 45, the copy of a fresh state log entry 48: the model's choices. -/
def Obligations.IdleWaitEnds : Prop :=
  ∀ (s : State) (answer : Byte), s.phase = .idleWait → s.flash.ignored = false → s.store.compaction = .none →
    let reads (cells : List RecCell) (q : Nat) : Option Record := cells[q]?.bind RecCell.readable
    let first (cells : List RecCell) : Word := ((reads cells 0).map Record.seq).getD 0
    let runs (cells : List RecCell) (n : Nat) : Prop :=
      ∀ q, q < n → ∃ r, reads cells q = some r ∧ r.seq = first cells + BitVec.ofNat 32 q
    let valid (cells : List RecCell) : Prop :=
      (∃ r a b c, reads cells 0 = some r ∧ r.payload = .snapBegin a b c) ∧
      ∃ e, 0 < e ∧ runs cells (e + 1) ∧ (∃ r, reads cells e = some r ∧ r.payload = .snapEnd (e + 1)) ∧
        ∀ q r c, 0 < q → q < e → reads cells q = some r → r.payload ≠ .snapEnd c
    (∀ fop, s.flash.op = some fop → s.cfg.busy answer = true →
      exec (.flashIdleWaitEnd [answer]) s = .next { s with
        hostOut := [], memOut := [ownTxn (firstOfClass s.cfg.profile .statusRead) none 1 false] }) ∧
    (s.cfg.busy answer = false → ¬ valid s.store.half0.cells → ¬ valid s.store.half1.cells →
      let restarted (x : HalfState) : HalfState :=
        { x with cond := if x.cells.all (fun c => c == .blank) ∧ x.eraseCut = false then .blank else .erasing }
      ∃ t, exec (.flashIdleWaitEnd [answer]) s = .next t ∧ t.phase = .running ∧ t.map = [] ∧ t.code = 0 ∧
        t.slots = [SlotRec.blank] ∧ (∀ u, (t.dynAt u).floor = 0 ∧ (t.dynAt u).booted = none) ∧
        t.store.current = none ∧ t.store.nextSeq = 0 ∧ t.store.compaction = .due ∧ t.store.replayed = none ∧
        t.store.half0 = restarted s.store.half0 ∧ t.store.half1 = restarted s.store.half1 ∧
        t.boot.isSome = true ∧ t.hrstDriven = s.hrstDriven ∧ t.portOpen = s.portOpen ∧ t.cfg = s.cfg ∧
        t.log = s.log) ∧
    (∀ (h : Half) (n : Nat), s.cfg.busy answer = false → s.formsWf → s.targets.length = 16 →
      let cells := (s.store.half h).cells
      let other := (s.store.half (otherHalf h)).cells
      let same : Prop :=
        (reads cells 0).map Record.payload = some (.snapBegin s.cfg.stagingStart s.cfg.sPhys s.cfg.sSp)
      let torn : Prop := cells[n]?.getD .blank ≠ .blank
      let shut : Prop := torn ∨ ¬ same ∨ (s.store.half h).eraseCut = true
      let tells (q : Nat) (x : Payload) : Prop := q < n ∧ (reads cells q).map Record.payload = some x
      let maps (q l p : Nat) : Prop :=
        tells q (.map l p) ∨ ∃ l0 ps, tells q (.mapGroup l0 ps) ∧ l0 ≤ l ∧ ps[l - l0]? = some p
      let rates (q p : Nat) (x : Health) : Prop :=
        tells q (.health p x) ∨ ∃ p0 xs, tells q (.healthGroup p0 xs) ∧ p0 ≤ p ∧ xs[p - p0]? = some x
      valid cells →
      (valid other → first cells ≠ first other ∧ (first cells - first other).toNat < 2147483648) →
      runs cells n → ¬ runs cells (n + 1) →
      ∃ t, exec (.flashIdleWaitEnd [answer]) s = .next t ∧ t.phase = .running ∧ t.strikes = [] ∧
        t.store.current = some h ∧ t.store.nextFree = n ∧ t.store.nextSeq = first cells + BitVec.ofNat 32 n ∧
        t.store.half h = { s.store.half h with cond := .current } ∧
        t.store.half (otherHalf h) = { s.store.half (otherHalf h) with
          cond := if other.all (fun c => c == .blank) ∧ (s.store.half (otherHalf h)).eraseCut = false then .blank
            else .erasing } ∧
        (t.store.closed = true ↔ shut) ∧
        (shut → t.store.replayed = some s.replay.snapCopy) ∧ (¬ shut → t.store.replayed = none) ∧
        (shut ∨ 7680 - n < 32 → t.store.compaction = .due ∧ t.store.startHold = true) ∧
        (¬ shut → 32 ≤ 7680 - n → t.store.compaction = .none) ∧
        (∀ u q d, u < 16 → tells q (.target u d) → (∀ q' d', q < q' → ¬ tells q' (.target u d')) →
          (t.dynAt u).floor = d.floor) ∧
        (∀ p, p ∈ t.pool ↔ p < s.cfg.sPhys ∧ (t.healthOf p).retired = false ∧
          ¬ ∃ l, t.physical l = p ∧ (l ≠ p ∨ l < s.cfg.sLog)) ∧
        (∀ i c x, t.chunkAt i c = some x →
          x = { state := .stale, mask := 0, origin := .recovered, queued := false, hostErased := false }) ∧
        (∀ i m, (t.slotAt i).summary = some m → (t.slotAt i).chunks.length = m.chunks) ∧
        (∀ i, (t.slotAt i).state = .filling →
          (t.slotAt i).reload = true ∧ { slot := i, reload := true } ∈ t.manifestJobs) ∧
        (¬ same → t.map = [] ∧ t.health = [] ∧ t.code = 0 ∧ t.slots = [SlotRec.blank] ∧
          ∀ u, (t.dynAt u).active = none ∧ (t.dynAt u).trial = none ∧ (t.dynAt u).fallback = none) ∧
        (same →
          (∀ q l p, maps q l p → (∀ q' p', q < q' → ¬ maps q' l p') → t.physical l = p) ∧
          (∀ q p x, rates q p x → (∀ q' x', q < q' → ¬ rates q' p x') →
            (t.healthOf p).wear = x.wear ∧ (t.healthOf p).suspect = x.suspect ∧
            ((t.healthOf p).retired = true ↔ x.retired = true ∨
              (x.suspect = true ∧ ¬ ∃ l, t.physical l = p ∧ (l ≠ p ∨ l < s.cfg.sLog)))) ∧
          (∀ q0 c, tells q0 (.slotCode c) → (∀ q' c', q0 < q' → ¬ tells q' (.slotCode c')) → t.code = c ∧
            ∀ q i m, q0 < q → tells q (.slot i m) → i < 2 ^ c → (∀ q' m', q < q' → ¬ tells q' (.slot i m')) →
              m.state = .empty ∨ m.state = .rejected ∨ m.state = .failed ∨ m.state = .outdated →
              (t.slotAt i).state = m.state ∧ (t.slotAt i).summary = m.summary ∧
              (m.state = .rejected → (t.slotAt i).reason = some .rollback)))) ∧
    (∀ u, s.cfg.busy answer = false → s.bootTarget = none → s.targets.length = 16 → u < 16 →
      let q := s.replay
      let d := q.dynAt u
      let keeps (f : Option Nat) : Option Nat := f.filter fun i =>
        (q.slotAt i).target? == some u && ((q.slotAt i).state == .sealed || (q.slotAt i).state == .trial ||
          (q.slotAt i).state == .active || (q.slotAt i).state == .fallback)
      let trial := keeps d.trial
      let active := keeps d.active
      let fallback := keeps d.fallback
      ∃ t, exec (.flashIdleWaitEnd [answer]) s = .next t ∧
        t.dynAt u = { d with trial := trial, active := active, fallback := fallback, bootsLeft := 0, booted := none } ∧
        (t.dynAt u ≠ d → { payload := .target u (t.dynAt u), owner := .nobody } ∈ t.store.offers) ∧
        ∀ i, (q.slotAt i).target? = some u →
          let r := q.slotAt i
          let a := t.slotAt i
          (trial = some i → active ≠ some i → fallback ≠ some i → a.state = .trial ∧ a.decayed = false) ∧
          (active = some i → trial ≠ some i → fallback ≠ some i → a.state = .active ∧ a.decayed = r.decayed) ∧
          (fallback = some i → trial ≠ some i → active ≠ some i → a.state = .fallback ∧ a.decayed = r.decayed) ∧
          (trial ≠ some i → active ≠ some i → fallback ≠ some i →
            (r.state = .trial ∨ r.state = .active ∨ r.state = .fallback →
              a.state = (if r.decayed = true then .failed else if d.floor ≤ r.version then .sealed else .outdated) ∧
              a.decayed = false) ∧
            (r.state = .sealed → a.state = if r.version < d.floor then .outdated else .sealed) ∧
            (r.state = .filling → r.version < d.floor →
              a.state = .rejected ∧ a.reason = some .rollback ∧ a.summary = none) ∧
            (r.state = .filling → d.floor ≤ r.version → a.state = .filling) ∧
            (r.state = .empty ∨ r.state = .rejected ∨ r.state = .failed ∨ r.state = .outdated → a.state = r.state)) ∧
          (a.state ≠ r.state → ∃ m, m.state = a.state ∧ { payload := .slot i m, owner := .nobody } ∈ t.store.offers))

/-! ### Record store -/

/-- R141, R145, R146, R148, R156: the head of the append queue is written at the next free position with the next sequence
number, where no compaction is due, or one waits for a half that is not blank; while a compaction is in progress, is due over
a blank half, or is a start-up's that the start-up's records stand behind (log entry 47), it is not. At the end of the write
the record, with its check word, is in its place and leaves the queue, the first waiting offer joins, and position and number
advance. -/
def Obligations.RecordWrites : Prop :=
  ∀ s : State, s.phase = .running →
    (∀ o q h, s.store.queue = o :: q → s.store.current = some h → s.store.closed = false → s.store.port = none →
      s.store.rowWait = none → s.store.nextFree < 7680 →
      let other := (s.store.half (otherHalf h)).cond
      (s.store.compaction = .none ∨
        (s.store.compaction = .due ∧ s.store.startHold = false ∧ other ≠ .blank) →
        exec .recordWriteBegin s = .next { s with
          hostOut := [], memOut := [],
          store := { s.store with
            port := some (.record h s.store.nextFree
              { seq := s.store.nextSeq, payload := o.payload,
                check := recordCheck s.store.nextSeq o.payload }) } }) ∧
      ((∃ i c n, s.store.compaction = .running i c n) ∨
        (s.store.compaction = .due ∧ (s.store.startHold = true ∨ other = .blank)) →
        exec .recordWriteBegin s = .next { s with hostOut := [], memOut := [] })) ∧
    (∀ h pos r, s.store.port = some (.record h pos r) →
      ∃ t, exec .recordWriteEnd s = .next t ∧ t.store.port = none ∧
        (t.store.half h).cells = putCell pos (.record r) (s.store.half h).cells ∧
        t.store.offers = (match s.store.queue with | [] => s.store.waiting | _ :: q => q ++ s.store.waiting) ∧
        t.store.nextFree = s.store.nextFree + 1 ∧ t.store.nextSeq = s.store.nextSeq + 1 ∧
        (∀ op hold, s.tracker = .eraseHeld op hold → hold.recordOpen = true →
          t.store.owes .holdMap = false → t.store.owes .holdWear = false →
          t.tracker = .eraseHeld op { hold with recordOpen := false }) ∧
        (s.lastOutcome = .pending → t.store.owes .request = false → t.store.rowBusy = false → t.lastOutcome = .done) ∧
        t.flash = s.flash ∧ t.slots = s.slots ∧ t.targets = s.targets ∧ t.map = s.map ∧ t.log = s.log)

/-- R141, R143, R172: a waiting row write takes the port; at its end the row holds the new content, and a request that waits
for nothing else is DONE. -/
def Obligations.RowWrites : Prop :=
  ∀ s : State, s.phase = .running →
    (∀ w, s.store.port = none → s.store.rowWait = some w →
      exec .rowWriteBegin s = .next { s with
        hostOut := [], memOut := [], store := { s.store with port := some (.row w), rowWait := none } }) ∧
    (∀ c, s.store.port = some (.row (.settings c)) →
      exec .rowWriteEnd s = .next { s with
        hostOut := [], memOut := [], store := { s.store with settingsRow := .stored c, port := none },
        lastOutcome :=
          if s.lastOutcome = .pending ∧ s.store.owes .request = false ∧ s.store.rowWait = none then .done
          else s.lastOutcome }) ∧
    (∀ u c, s.store.port = some (.row (.target u c)) →
      ∃ t, exec .rowWriteEnd s = .next t ∧ t.store.targetRows = s.store.targetRows.set u (.stored c) ∧
        t.store.port = none ∧ t.statics = s.statics ∧ t.flash = s.flash)

/-- R148 to R151: a due compaction starts when the other half is blank, and starts that half's erase when it is neither
blank nor erasing; the state is copied at the start, or is the one that a closing replay kept (R154). The write of a snapshot
record begins when the port is free and no row waits, and the next command ends it (log entry 17, the model's choice); the
first carries the geometry signature; at the end of the last one the halves change places; a half whose erase ends is blank.
-/
def Obligations.CompactionSteps : Prop :=
  ∀ s : State, s.phase = .running →
    (∀ h, s.store.compaction = .due → s.store.current = some h → (s.store.half (otherHalf h)).cond = .blank →
      exec .compactionStart s = .next { s with
        hostOut := [], memOut := [],
        store := { s.store with
          replayed := none
          compaction := .running (otherHalf h)
            (s.store.replayed.getD
              { code := s.code, slots := s.slots.map SlotRec.journalImage, targets := s.targets }) 0 } }) ∧
    (∀ h, s.store.compaction = .due → s.store.current = some h → (s.store.half (otherHalf h)).cond = .superseded →
      ∃ t, exec .compactionStart s = .next t ∧ (t.store.half (otherHalf h)).cond = .erasing ∧
        t.store.compaction = .due ∧ t.flash = s.flash) ∧
    (∀ into c n, s.store.compaction = .running into c n →
      (s.store.port = none → s.store.rowWait = none →
        exec .snapshotRecordWrite s = .next { s with
          hostOut := [], memOut := [],
          store := { s.store with
            port := some (.snapshot into n { seq := s.store.nextSeq, payload := s.snapRecord c n }) } } ∧
        (n = 0 → s.snapRecord c n = .snapBegin s.cfg.stagingStart s.cfg.sPhys s.cfg.sSp) ∧
        (n + 1 = s.snapLength c → s.snapRecord c n = .snapEnd (n + 1))) ∧
      (∀ w, s.store.port = none → s.store.rowWait = some w →
        exec .snapshotRecordWrite s = .next { s with hostOut := [], memOut := [] }) ∧
      (∀ h pos r, s.store.port = some (.snapshot h pos r) →
        ∃ t, exec .snapshotRecordWrite s = .next t ∧ t.store.nextSeq = s.store.nextSeq + 1 ∧ t.store.port = none ∧
          t.store.queue = s.store.queue ∧ t.flash = s.flash ∧ t.slots = s.slots ∧
          (t.store.half into).cells = putCell n (.record r) (s.store.half into).cells ∧
          (n + 1 < s.snapLength c → t.store.compaction = .running into c (n + 1) ∧ t.store.current = s.store.current) ∧
          (n + 1 = s.snapLength c →
            t.store.compaction = .none ∧ t.store.current = some into ∧
            t.store.closed = false ∧ t.store.startHold = false ∧ t.store.nextFree = n + 1 ∧
            (t.store.half into).cond = .current ∧
            (s.store.current = some (otherHalf into) → (t.store.half (otherHalf into)).cond = .erasing)))) ∧
    (s.store.half0.cond = .erasing →
      exec (.halfEraseEnd .h0) s = .next { s with
        hostOut := [], memOut := [], store := { s.store with half0 := { cells := [], cond := .blank } } }) ∧
    (s.store.half1.cond = .erasing →
      exec (.halfEraseEnd .h1) s = .next { s with
        hostOut := [], memOut := [], store := { s.store with half1 := { cells := [], cond := .blank } } })
end

