-- ==== Sys2Proof/Laws/State.lean ====
section
/-! SUPPORT. What each field holds after each of the basic updates of the state. -/

namespace Sys2Proof.Machine

variable (s : State)

/-! ### `begin` -/

@[simp] theorem State.begin_phase : (s.begin).phase = s.phase := rfl
@[simp] theorem State.begin_clock : (s.begin).clock = s.clock := rfl
@[simp] theorem State.begin_hrstDriven : (s.begin).hrstDriven = s.hrstDriven := rfl
@[simp] theorem State.begin_hrstSeenHigh : (s.begin).hrstSeenHigh = s.hrstSeenHigh := rfl
@[simp] theorem State.begin_portOpen : (s.begin).portOpen = s.portOpen := rfl
@[simp] theorem State.begin_cfg : (s.begin).cfg = s.cfg := rfl
@[simp] theorem State.begin_configDefaulted : (s.begin).configDefaulted = s.configDefaulted := rfl
@[simp] theorem State.begin_configChanged : (s.begin).configChanged = s.configChanged := rfl
@[simp] theorem State.begin_keys : (s.begin).keys = s.keys := rfl
@[simp] theorem State.begin_locked : (s.begin).locked = s.locked := rfl
@[simp] theorem State.begin_statics : (s.begin).statics = s.statics := rfl
@[simp] theorem State.begin_identity : (s.begin).identity = s.identity := rfl
@[simp] theorem State.begin_tracker : (s.begin).tracker = s.tracker := rfl
@[simp] theorem State.begin_echo : (s.begin).echo = s.echo := rfl
@[simp] theorem State.begin_pendingWD : (s.begin).pendingWD = s.pendingWD := rfl
@[simp] theorem State.begin_guard : (s.begin).guard = s.guard := rfl
@[simp] theorem State.begin_map : (s.begin).map = s.map := rfl
@[simp] theorem State.begin_pool : (s.begin).pool = s.pool := rfl
@[simp] theorem State.begin_health : (s.begin).health = s.health := rfl
@[simp] theorem State.begin_strikes : (s.begin).strikes = s.strikes := rfl
@[simp] theorem State.begin_clean : (s.begin).clean = s.clean := rfl
@[simp] theorem State.begin_code : (s.begin).code = s.code := rfl
@[simp] theorem State.begin_slots : (s.begin).slots = s.slots := rfl
@[simp] theorem State.begin_job : (s.begin).job = s.job := rfl
@[simp] theorem State.begin_aside : (s.begin).aside = s.aside := rfl
@[simp] theorem State.begin_manifestJobs : (s.begin).manifestJobs = s.manifestJobs := rfl
@[simp] theorem State.begin_verifyQueue : (s.begin).verifyQueue = s.verifyQueue := rfl
@[simp] theorem State.begin_patrolSlot : (s.begin).patrolSlot = s.patrolSlot := rfl
@[simp] theorem State.begin_patrolChunk : (s.begin).patrolChunk = s.patrolChunk := rfl
@[simp] theorem State.begin_nextTick : (s.begin).nextTick = s.nextTick := rfl
@[simp] theorem State.begin_scan : (s.begin).scan = s.scan := rfl
@[simp] theorem State.begin_targets : (s.begin).targets = s.targets := rfl
@[simp] theorem State.begin_boot : (s.begin).boot = s.boot := rfl
@[simp] theorem State.begin_store : (s.begin).store = s.store := rfl
@[simp] theorem State.begin_reqPage : (s.begin).reqPage = s.reqPage := rfl
@[simp] theorem State.begin_lastSerial : (s.begin).lastSerial = s.lastSerial := rfl
@[simp] theorem State.begin_lastCode : (s.begin).lastCode = s.lastCode := rfl
@[simp] theorem State.begin_lastOutcome : (s.begin).lastOutcome = s.lastOutcome := rfl
@[simp] theorem State.begin_lastReason : (s.begin).lastReason = s.lastReason := rfl
@[simp] theorem State.begin_lastBusy : (s.begin).lastBusy = s.lastBusy := rfl
@[simp] theorem State.begin_snapshots : (s.begin).snapshots = s.snapshots := rfl
@[simp] theorem State.begin_log : (s.begin).log = s.log := rfl
@[simp] theorem State.begin_overrun : (s.begin).overrun = s.overrun := rfl
@[simp] theorem State.begin_nextLogSeq : (s.begin).nextLogSeq = s.nextLogSeq := rfl
@[simp] theorem State.begin_alertPending : (s.begin).alertPending = s.alertPending := rfl
@[simp] theorem State.begin_flash : (s.begin).flash = s.flash := rfl
@[simp] theorem State.begin_freeCount : (s.begin).freeCount = s.freeCount := rfl
@[simp] theorem State.begin_hostOut : (s.begin).hostOut = [] := rfl
@[simp] theorem State.begin_memOut : (s.begin).memOut = [] := rfl
@[simp] theorem State.begin_pending : (s.begin).pending = s.pending := rfl

/-! ### `tick` -/

@[simp] theorem State.tick_phase (e : Nat) : (s.tick e).phase = s.phase := rfl
@[simp] theorem State.tick_clock (e : Nat) : (s.tick e).clock = if s.phase = .running ∨ s.phase = .idleWait then s.clock + e else s.clock := rfl
@[simp] theorem State.tick_hrstDriven (e : Nat) : (s.tick e).hrstDriven = s.hrstDriven := rfl
@[simp] theorem State.tick_hrstSeenHigh (e : Nat) : (s.tick e).hrstSeenHigh = s.hrstSeenHigh := rfl
@[simp] theorem State.tick_portOpen (e : Nat) : (s.tick e).portOpen = s.portOpen := rfl
@[simp] theorem State.tick_cfg (e : Nat) : (s.tick e).cfg = s.cfg := rfl
@[simp] theorem State.tick_configDefaulted (e : Nat) : (s.tick e).configDefaulted = s.configDefaulted := rfl
@[simp] theorem State.tick_configChanged (e : Nat) : (s.tick e).configChanged = s.configChanged := rfl
@[simp] theorem State.tick_keys (e : Nat) : (s.tick e).keys = s.keys := rfl
@[simp] theorem State.tick_locked (e : Nat) : (s.tick e).locked = s.locked := rfl
@[simp] theorem State.tick_statics (e : Nat) : (s.tick e).statics = s.statics := rfl
@[simp] theorem State.tick_identity (e : Nat) : (s.tick e).identity = s.identity := rfl
@[simp] theorem State.tick_tracker (e : Nat) : (s.tick e).tracker = s.tracker := rfl
@[simp] theorem State.tick_echo (e : Nat) : (s.tick e).echo = s.echo := rfl
@[simp] theorem State.tick_pendingWD (e : Nat) : (s.tick e).pendingWD = s.pendingWD := rfl
@[simp] theorem State.tick_guard (e : Nat) : (s.tick e).guard = s.guard := rfl
@[simp] theorem State.tick_map (e : Nat) : (s.tick e).map = s.map := rfl
@[simp] theorem State.tick_pool (e : Nat) : (s.tick e).pool = s.pool := rfl
@[simp] theorem State.tick_health (e : Nat) : (s.tick e).health = s.health := rfl
@[simp] theorem State.tick_strikes (e : Nat) : (s.tick e).strikes = s.strikes := rfl
@[simp] theorem State.tick_clean (e : Nat) : (s.tick e).clean = s.clean := rfl
@[simp] theorem State.tick_code (e : Nat) : (s.tick e).code = s.code := rfl
@[simp] theorem State.tick_slots (e : Nat) : (s.tick e).slots = s.slots := rfl
@[simp] theorem State.tick_job (e : Nat) : (s.tick e).job = s.job := rfl
@[simp] theorem State.tick_aside (e : Nat) : (s.tick e).aside = s.aside := rfl
@[simp] theorem State.tick_manifestJobs (e : Nat) : (s.tick e).manifestJobs = s.manifestJobs := rfl
@[simp] theorem State.tick_verifyQueue (e : Nat) : (s.tick e).verifyQueue = s.verifyQueue := rfl
@[simp] theorem State.tick_patrolSlot (e : Nat) : (s.tick e).patrolSlot = s.patrolSlot := rfl
@[simp] theorem State.tick_patrolChunk (e : Nat) : (s.tick e).patrolChunk = s.patrolChunk := rfl
@[simp] theorem State.tick_nextTick (e : Nat) : (s.tick e).nextTick = s.nextTick := rfl
@[simp] theorem State.tick_scan (e : Nat) : (s.tick e).scan = s.scan := rfl
@[simp] theorem State.tick_targets (e : Nat) : (s.tick e).targets = s.targets := rfl
@[simp] theorem State.tick_boot (e : Nat) : (s.tick e).boot = s.boot := rfl
@[simp] theorem State.tick_store (e : Nat) : (s.tick e).store = s.store := rfl
@[simp] theorem State.tick_reqPage (e : Nat) : (s.tick e).reqPage = s.reqPage := rfl
@[simp] theorem State.tick_lastSerial (e : Nat) : (s.tick e).lastSerial = s.lastSerial := rfl
@[simp] theorem State.tick_lastCode (e : Nat) : (s.tick e).lastCode = s.lastCode := rfl
@[simp] theorem State.tick_lastOutcome (e : Nat) : (s.tick e).lastOutcome = s.lastOutcome := rfl
@[simp] theorem State.tick_lastReason (e : Nat) : (s.tick e).lastReason = s.lastReason := rfl
@[simp] theorem State.tick_lastBusy (e : Nat) : (s.tick e).lastBusy = s.lastBusy := rfl
@[simp] theorem State.tick_snapshots (e : Nat) : (s.tick e).snapshots = s.snapshots := rfl
@[simp] theorem State.tick_log (e : Nat) : (s.tick e).log = s.log := rfl
@[simp] theorem State.tick_overrun (e : Nat) : (s.tick e).overrun = s.overrun := rfl
@[simp] theorem State.tick_nextLogSeq (e : Nat) : (s.tick e).nextLogSeq = s.nextLogSeq := rfl
@[simp] theorem State.tick_alertPending (e : Nat) : (s.tick e).alertPending = s.alertPending := rfl
@[simp] theorem State.tick_flash (e : Nat) : (s.tick e).flash = s.flash := rfl
@[simp] theorem State.tick_freeCount (e : Nat) : (s.tick e).freeCount = s.freeCount := rfl
@[simp] theorem State.tick_hostOut (e : Nat) : (s.tick e).hostOut = s.hostOut := rfl
@[simp] theorem State.tick_memOut (e : Nat) : (s.tick e).memOut = s.memOut := rfl
@[simp] theorem State.tick_pending (e : Nat) : (s.tick e).pending = s.pending := rfl

/-! ### `appendLog` -/

@[simp] theorem State.appendLog_phase (e : LogEntry) : (s.appendLog e).phase = s.phase := rfl
@[simp] theorem State.appendLog_clock (e : LogEntry) : (s.appendLog e).clock = s.clock := rfl
@[simp] theorem State.appendLog_hrstDriven (e : LogEntry) : (s.appendLog e).hrstDriven = s.hrstDriven := rfl
@[simp] theorem State.appendLog_hrstSeenHigh (e : LogEntry) : (s.appendLog e).hrstSeenHigh = s.hrstSeenHigh := rfl
@[simp] theorem State.appendLog_portOpen (e : LogEntry) : (s.appendLog e).portOpen = s.portOpen := rfl
@[simp] theorem State.appendLog_cfg (e : LogEntry) : (s.appendLog e).cfg = s.cfg := rfl
@[simp] theorem State.appendLog_configDefaulted (e : LogEntry) : (s.appendLog e).configDefaulted = s.configDefaulted := rfl
@[simp] theorem State.appendLog_configChanged (e : LogEntry) : (s.appendLog e).configChanged = s.configChanged := rfl
@[simp] theorem State.appendLog_keys (e : LogEntry) : (s.appendLog e).keys = s.keys := rfl
@[simp] theorem State.appendLog_locked (e : LogEntry) : (s.appendLog e).locked = s.locked := rfl
@[simp] theorem State.appendLog_statics (e : LogEntry) : (s.appendLog e).statics = s.statics := rfl
@[simp] theorem State.appendLog_identity (e : LogEntry) : (s.appendLog e).identity = s.identity := rfl
@[simp] theorem State.appendLog_tracker (e : LogEntry) : (s.appendLog e).tracker = s.tracker := rfl
@[simp] theorem State.appendLog_echo (e : LogEntry) : (s.appendLog e).echo = s.echo := rfl
@[simp] theorem State.appendLog_pendingWD (e : LogEntry) : (s.appendLog e).pendingWD = s.pendingWD := rfl
@[simp] theorem State.appendLog_guard (e : LogEntry) : (s.appendLog e).guard = s.guard := rfl
@[simp] theorem State.appendLog_map (e : LogEntry) : (s.appendLog e).map = s.map := rfl
@[simp] theorem State.appendLog_pool (e : LogEntry) : (s.appendLog e).pool = s.pool := rfl
@[simp] theorem State.appendLog_health (e : LogEntry) : (s.appendLog e).health = s.health := rfl
@[simp] theorem State.appendLog_strikes (e : LogEntry) : (s.appendLog e).strikes = s.strikes := rfl
@[simp] theorem State.appendLog_clean (e : LogEntry) : (s.appendLog e).clean = s.clean := rfl
@[simp] theorem State.appendLog_code (e : LogEntry) : (s.appendLog e).code = s.code := rfl
@[simp] theorem State.appendLog_slots (e : LogEntry) : (s.appendLog e).slots = s.slots := rfl
@[simp] theorem State.appendLog_job (e : LogEntry) : (s.appendLog e).job = s.job := rfl
@[simp] theorem State.appendLog_aside (e : LogEntry) : (s.appendLog e).aside = s.aside := rfl
@[simp] theorem State.appendLog_manifestJobs (e : LogEntry) : (s.appendLog e).manifestJobs = s.manifestJobs := rfl
@[simp] theorem State.appendLog_verifyQueue (e : LogEntry) : (s.appendLog e).verifyQueue = s.verifyQueue := rfl
@[simp] theorem State.appendLog_patrolSlot (e : LogEntry) : (s.appendLog e).patrolSlot = s.patrolSlot := rfl
@[simp] theorem State.appendLog_patrolChunk (e : LogEntry) : (s.appendLog e).patrolChunk = s.patrolChunk := rfl
@[simp] theorem State.appendLog_nextTick (e : LogEntry) : (s.appendLog e).nextTick = s.nextTick := rfl
@[simp] theorem State.appendLog_scan (e : LogEntry) : (s.appendLog e).scan = s.scan := rfl
@[simp] theorem State.appendLog_targets (e : LogEntry) : (s.appendLog e).targets = s.targets := rfl
@[simp] theorem State.appendLog_boot (e : LogEntry) : (s.appendLog e).boot = s.boot := rfl
@[simp] theorem State.appendLog_store (e : LogEntry) : (s.appendLog e).store = s.store := rfl
@[simp] theorem State.appendLog_reqPage (e : LogEntry) : (s.appendLog e).reqPage = s.reqPage := rfl
@[simp] theorem State.appendLog_lastSerial (e : LogEntry) : (s.appendLog e).lastSerial = s.lastSerial := rfl
@[simp] theorem State.appendLog_lastCode (e : LogEntry) : (s.appendLog e).lastCode = s.lastCode := rfl
@[simp] theorem State.appendLog_lastOutcome (e : LogEntry) : (s.appendLog e).lastOutcome = s.lastOutcome := rfl
@[simp] theorem State.appendLog_lastReason (e : LogEntry) : (s.appendLog e).lastReason = s.lastReason := rfl
@[simp] theorem State.appendLog_lastBusy (e : LogEntry) : (s.appendLog e).lastBusy = s.lastBusy := rfl
@[simp] theorem State.appendLog_snapshots (e : LogEntry) : (s.appendLog e).snapshots = s.snapshots := rfl
@[simp] theorem State.appendLog_log (e : LogEntry) : (s.appendLog e).log = (if s.log.length < logCapacity then s.log else s.log.drop 1) ++ [{ e with seq := s.nextLogSeq }] := rfl
@[simp] theorem State.appendLog_overrun (e : LogEntry) : (s.appendLog e).overrun = (s.overrun || !decide (s.log.length < logCapacity)) := rfl
@[simp] theorem State.appendLog_nextLogSeq (e : LogEntry) : (s.appendLog e).nextLogSeq = s.nextLogSeq + 1 := rfl
@[simp] theorem State.appendLog_alertPending (e : LogEntry) : (s.appendLog e).alertPending = (s.alertPending || s.cfg.settings.alertMask.getLsbD e.kind.number) := rfl
@[simp] theorem State.appendLog_flash (e : LogEntry) : (s.appendLog e).flash = s.flash := rfl
@[simp] theorem State.appendLog_freeCount (e : LogEntry) : (s.appendLog e).freeCount = s.freeCount := rfl
@[simp] theorem State.appendLog_hostOut (e : LogEntry) : (s.appendLog e).hostOut = s.hostOut := rfl
@[simp] theorem State.appendLog_memOut (e : LogEntry) : (s.appendLog e).memOut = s.memOut := rfl
@[simp] theorem State.appendLog_pending (e : LogEntry) : (s.appendLog e).pending = s.pending := rfl

/-! ### `updSlot` -/

@[simp] theorem State.updSlot_phase (i : Nat) (f : SlotRec → SlotRec) : (s.updSlot i f).phase = s.phase := rfl
@[simp] theorem State.updSlot_clock (i : Nat) (f : SlotRec → SlotRec) : (s.updSlot i f).clock = s.clock := rfl
@[simp] theorem State.updSlot_hrstDriven (i : Nat) (f : SlotRec → SlotRec) : (s.updSlot i f).hrstDriven = s.hrstDriven := rfl
@[simp] theorem State.updSlot_hrstSeenHigh (i : Nat) (f : SlotRec → SlotRec) : (s.updSlot i f).hrstSeenHigh = s.hrstSeenHigh := rfl
@[simp] theorem State.updSlot_portOpen (i : Nat) (f : SlotRec → SlotRec) : (s.updSlot i f).portOpen = s.portOpen := rfl
@[simp] theorem State.updSlot_cfg (i : Nat) (f : SlotRec → SlotRec) : (s.updSlot i f).cfg = s.cfg := rfl
@[simp] theorem State.updSlot_configDefaulted (i : Nat) (f : SlotRec → SlotRec) : (s.updSlot i f).configDefaulted = s.configDefaulted := rfl
@[simp] theorem State.updSlot_configChanged (i : Nat) (f : SlotRec → SlotRec) : (s.updSlot i f).configChanged = s.configChanged := rfl
@[simp] theorem State.updSlot_keys (i : Nat) (f : SlotRec → SlotRec) : (s.updSlot i f).keys = s.keys := rfl
@[simp] theorem State.updSlot_locked (i : Nat) (f : SlotRec → SlotRec) : (s.updSlot i f).locked = s.locked := rfl
@[simp] theorem State.updSlot_statics (i : Nat) (f : SlotRec → SlotRec) : (s.updSlot i f).statics = s.statics := rfl
@[simp] theorem State.updSlot_identity (i : Nat) (f : SlotRec → SlotRec) : (s.updSlot i f).identity = s.identity := rfl
@[simp] theorem State.updSlot_tracker (i : Nat) (f : SlotRec → SlotRec) : (s.updSlot i f).tracker = s.tracker := rfl
@[simp] theorem State.updSlot_echo (i : Nat) (f : SlotRec → SlotRec) : (s.updSlot i f).echo = s.echo := rfl
@[simp] theorem State.updSlot_pendingWD (i : Nat) (f : SlotRec → SlotRec) : (s.updSlot i f).pendingWD = s.pendingWD := rfl
@[simp] theorem State.updSlot_guard (i : Nat) (f : SlotRec → SlotRec) : (s.updSlot i f).guard = s.guard := rfl
@[simp] theorem State.updSlot_map (i : Nat) (f : SlotRec → SlotRec) : (s.updSlot i f).map = s.map := rfl
@[simp] theorem State.updSlot_pool (i : Nat) (f : SlotRec → SlotRec) : (s.updSlot i f).pool = s.pool := rfl
@[simp] theorem State.updSlot_health (i : Nat) (f : SlotRec → SlotRec) : (s.updSlot i f).health = s.health := rfl
@[simp] theorem State.updSlot_strikes (i : Nat) (f : SlotRec → SlotRec) : (s.updSlot i f).strikes = s.strikes := rfl
@[simp] theorem State.updSlot_clean (i : Nat) (f : SlotRec → SlotRec) : (s.updSlot i f).clean = s.clean := rfl
@[simp] theorem State.updSlot_code (i : Nat) (f : SlotRec → SlotRec) : (s.updSlot i f).code = s.code := rfl
@[simp] theorem State.updSlot_slots (i : Nat) (f : SlotRec → SlotRec) : (s.updSlot i f).slots = s.slots.modify i f := rfl
@[simp] theorem State.updSlot_job (i : Nat) (f : SlotRec → SlotRec) : (s.updSlot i f).job = s.job := rfl
@[simp] theorem State.updSlot_aside (i : Nat) (f : SlotRec → SlotRec) : (s.updSlot i f).aside = s.aside := rfl
@[simp] theorem State.updSlot_manifestJobs (i : Nat) (f : SlotRec → SlotRec) : (s.updSlot i f).manifestJobs = s.manifestJobs := rfl
@[simp] theorem State.updSlot_verifyQueue (i : Nat) (f : SlotRec → SlotRec) : (s.updSlot i f).verifyQueue = s.verifyQueue := rfl
@[simp] theorem State.updSlot_patrolSlot (i : Nat) (f : SlotRec → SlotRec) : (s.updSlot i f).patrolSlot = s.patrolSlot := rfl
@[simp] theorem State.updSlot_patrolChunk (i : Nat) (f : SlotRec → SlotRec) : (s.updSlot i f).patrolChunk = s.patrolChunk := rfl
@[simp] theorem State.updSlot_nextTick (i : Nat) (f : SlotRec → SlotRec) : (s.updSlot i f).nextTick = s.nextTick := rfl
@[simp] theorem State.updSlot_scan (i : Nat) (f : SlotRec → SlotRec) : (s.updSlot i f).scan = s.scan := rfl
@[simp] theorem State.updSlot_targets (i : Nat) (f : SlotRec → SlotRec) : (s.updSlot i f).targets = s.targets := rfl
@[simp] theorem State.updSlot_boot (i : Nat) (f : SlotRec → SlotRec) : (s.updSlot i f).boot = s.boot := rfl
@[simp] theorem State.updSlot_store (i : Nat) (f : SlotRec → SlotRec) : (s.updSlot i f).store = s.store := rfl
@[simp] theorem State.updSlot_reqPage (i : Nat) (f : SlotRec → SlotRec) : (s.updSlot i f).reqPage = s.reqPage := rfl
@[simp] theorem State.updSlot_lastSerial (i : Nat) (f : SlotRec → SlotRec) : (s.updSlot i f).lastSerial = s.lastSerial := rfl
@[simp] theorem State.updSlot_lastCode (i : Nat) (f : SlotRec → SlotRec) : (s.updSlot i f).lastCode = s.lastCode := rfl
@[simp] theorem State.updSlot_lastOutcome (i : Nat) (f : SlotRec → SlotRec) : (s.updSlot i f).lastOutcome = s.lastOutcome := rfl
@[simp] theorem State.updSlot_lastReason (i : Nat) (f : SlotRec → SlotRec) : (s.updSlot i f).lastReason = s.lastReason := rfl
@[simp] theorem State.updSlot_lastBusy (i : Nat) (f : SlotRec → SlotRec) : (s.updSlot i f).lastBusy = s.lastBusy := rfl
@[simp] theorem State.updSlot_snapshots (i : Nat) (f : SlotRec → SlotRec) : (s.updSlot i f).snapshots = s.snapshots := rfl
@[simp] theorem State.updSlot_log (i : Nat) (f : SlotRec → SlotRec) : (s.updSlot i f).log = s.log := rfl
@[simp] theorem State.updSlot_overrun (i : Nat) (f : SlotRec → SlotRec) : (s.updSlot i f).overrun = s.overrun := rfl
@[simp] theorem State.updSlot_nextLogSeq (i : Nat) (f : SlotRec → SlotRec) : (s.updSlot i f).nextLogSeq = s.nextLogSeq := rfl
@[simp] theorem State.updSlot_alertPending (i : Nat) (f : SlotRec → SlotRec) : (s.updSlot i f).alertPending = s.alertPending := rfl
@[simp] theorem State.updSlot_flash (i : Nat) (f : SlotRec → SlotRec) : (s.updSlot i f).flash = s.flash := rfl
@[simp] theorem State.updSlot_freeCount (i : Nat) (f : SlotRec → SlotRec) : (s.updSlot i f).freeCount = s.freeCount := rfl
@[simp] theorem State.updSlot_hostOut (i : Nat) (f : SlotRec → SlotRec) : (s.updSlot i f).hostOut = s.hostOut := rfl
@[simp] theorem State.updSlot_memOut (i : Nat) (f : SlotRec → SlotRec) : (s.updSlot i f).memOut = s.memOut := rfl
@[simp] theorem State.updSlot_pending (i : Nat) (f : SlotRec → SlotRec) : (s.updSlot i f).pending = s.pending := rfl

/-! ### `updDyn` -/

@[simp] theorem State.updDyn_phase (t : Nat) (f : TargetDyn → TargetDyn) : (s.updDyn t f).phase = s.phase := rfl
@[simp] theorem State.updDyn_clock (t : Nat) (f : TargetDyn → TargetDyn) : (s.updDyn t f).clock = s.clock := rfl
@[simp] theorem State.updDyn_hrstDriven (t : Nat) (f : TargetDyn → TargetDyn) : (s.updDyn t f).hrstDriven = s.hrstDriven := rfl
@[simp] theorem State.updDyn_hrstSeenHigh (t : Nat) (f : TargetDyn → TargetDyn) : (s.updDyn t f).hrstSeenHigh = s.hrstSeenHigh := rfl
@[simp] theorem State.updDyn_portOpen (t : Nat) (f : TargetDyn → TargetDyn) : (s.updDyn t f).portOpen = s.portOpen := rfl
@[simp] theorem State.updDyn_cfg (t : Nat) (f : TargetDyn → TargetDyn) : (s.updDyn t f).cfg = s.cfg := rfl
@[simp] theorem State.updDyn_configDefaulted (t : Nat) (f : TargetDyn → TargetDyn) : (s.updDyn t f).configDefaulted = s.configDefaulted := rfl
@[simp] theorem State.updDyn_configChanged (t : Nat) (f : TargetDyn → TargetDyn) : (s.updDyn t f).configChanged = s.configChanged := rfl
@[simp] theorem State.updDyn_keys (t : Nat) (f : TargetDyn → TargetDyn) : (s.updDyn t f).keys = s.keys := rfl
@[simp] theorem State.updDyn_locked (t : Nat) (f : TargetDyn → TargetDyn) : (s.updDyn t f).locked = s.locked := rfl
@[simp] theorem State.updDyn_statics (t : Nat) (f : TargetDyn → TargetDyn) : (s.updDyn t f).statics = s.statics := rfl
@[simp] theorem State.updDyn_identity (t : Nat) (f : TargetDyn → TargetDyn) : (s.updDyn t f).identity = s.identity := rfl
@[simp] theorem State.updDyn_tracker (t : Nat) (f : TargetDyn → TargetDyn) : (s.updDyn t f).tracker = s.tracker := rfl
@[simp] theorem State.updDyn_echo (t : Nat) (f : TargetDyn → TargetDyn) : (s.updDyn t f).echo = s.echo := rfl
@[simp] theorem State.updDyn_pendingWD (t : Nat) (f : TargetDyn → TargetDyn) : (s.updDyn t f).pendingWD = s.pendingWD := rfl
@[simp] theorem State.updDyn_guard (t : Nat) (f : TargetDyn → TargetDyn) : (s.updDyn t f).guard = s.guard := rfl
@[simp] theorem State.updDyn_map (t : Nat) (f : TargetDyn → TargetDyn) : (s.updDyn t f).map = s.map := rfl
@[simp] theorem State.updDyn_pool (t : Nat) (f : TargetDyn → TargetDyn) : (s.updDyn t f).pool = s.pool := rfl
@[simp] theorem State.updDyn_health (t : Nat) (f : TargetDyn → TargetDyn) : (s.updDyn t f).health = s.health := rfl
@[simp] theorem State.updDyn_strikes (t : Nat) (f : TargetDyn → TargetDyn) : (s.updDyn t f).strikes = s.strikes := rfl
@[simp] theorem State.updDyn_clean (t : Nat) (f : TargetDyn → TargetDyn) : (s.updDyn t f).clean = s.clean := rfl
@[simp] theorem State.updDyn_code (t : Nat) (f : TargetDyn → TargetDyn) : (s.updDyn t f).code = s.code := rfl
@[simp] theorem State.updDyn_slots (t : Nat) (f : TargetDyn → TargetDyn) : (s.updDyn t f).slots = s.slots := rfl
@[simp] theorem State.updDyn_job (t : Nat) (f : TargetDyn → TargetDyn) : (s.updDyn t f).job = s.job := rfl
@[simp] theorem State.updDyn_aside (t : Nat) (f : TargetDyn → TargetDyn) : (s.updDyn t f).aside = s.aside := rfl
@[simp] theorem State.updDyn_manifestJobs (t : Nat) (f : TargetDyn → TargetDyn) : (s.updDyn t f).manifestJobs = s.manifestJobs := rfl
@[simp] theorem State.updDyn_verifyQueue (t : Nat) (f : TargetDyn → TargetDyn) : (s.updDyn t f).verifyQueue = s.verifyQueue := rfl
@[simp] theorem State.updDyn_patrolSlot (t : Nat) (f : TargetDyn → TargetDyn) : (s.updDyn t f).patrolSlot = s.patrolSlot := rfl
@[simp] theorem State.updDyn_patrolChunk (t : Nat) (f : TargetDyn → TargetDyn) : (s.updDyn t f).patrolChunk = s.patrolChunk := rfl
@[simp] theorem State.updDyn_nextTick (t : Nat) (f : TargetDyn → TargetDyn) : (s.updDyn t f).nextTick = s.nextTick := rfl
@[simp] theorem State.updDyn_scan (t : Nat) (f : TargetDyn → TargetDyn) : (s.updDyn t f).scan = s.scan := rfl
@[simp] theorem State.updDyn_targets (t : Nat) (f : TargetDyn → TargetDyn) : (s.updDyn t f).targets = s.targets.modify t f := rfl
@[simp] theorem State.updDyn_boot (t : Nat) (f : TargetDyn → TargetDyn) : (s.updDyn t f).boot = s.boot := rfl
@[simp] theorem State.updDyn_store (t : Nat) (f : TargetDyn → TargetDyn) : (s.updDyn t f).store = s.store := rfl
@[simp] theorem State.updDyn_reqPage (t : Nat) (f : TargetDyn → TargetDyn) : (s.updDyn t f).reqPage = s.reqPage := rfl
@[simp] theorem State.updDyn_lastSerial (t : Nat) (f : TargetDyn → TargetDyn) : (s.updDyn t f).lastSerial = s.lastSerial := rfl
@[simp] theorem State.updDyn_lastCode (t : Nat) (f : TargetDyn → TargetDyn) : (s.updDyn t f).lastCode = s.lastCode := rfl
@[simp] theorem State.updDyn_lastOutcome (t : Nat) (f : TargetDyn → TargetDyn) : (s.updDyn t f).lastOutcome = s.lastOutcome := rfl
@[simp] theorem State.updDyn_lastReason (t : Nat) (f : TargetDyn → TargetDyn) : (s.updDyn t f).lastReason = s.lastReason := rfl
@[simp] theorem State.updDyn_lastBusy (t : Nat) (f : TargetDyn → TargetDyn) : (s.updDyn t f).lastBusy = s.lastBusy := rfl
@[simp] theorem State.updDyn_snapshots (t : Nat) (f : TargetDyn → TargetDyn) : (s.updDyn t f).snapshots = s.snapshots := rfl
@[simp] theorem State.updDyn_log (t : Nat) (f : TargetDyn → TargetDyn) : (s.updDyn t f).log = s.log := rfl
@[simp] theorem State.updDyn_overrun (t : Nat) (f : TargetDyn → TargetDyn) : (s.updDyn t f).overrun = s.overrun := rfl
@[simp] theorem State.updDyn_nextLogSeq (t : Nat) (f : TargetDyn → TargetDyn) : (s.updDyn t f).nextLogSeq = s.nextLogSeq := rfl
@[simp] theorem State.updDyn_alertPending (t : Nat) (f : TargetDyn → TargetDyn) : (s.updDyn t f).alertPending = s.alertPending := rfl
@[simp] theorem State.updDyn_flash (t : Nat) (f : TargetDyn → TargetDyn) : (s.updDyn t f).flash = s.flash := rfl
@[simp] theorem State.updDyn_freeCount (t : Nat) (f : TargetDyn → TargetDyn) : (s.updDyn t f).freeCount = s.freeCount := rfl
@[simp] theorem State.updDyn_hostOut (t : Nat) (f : TargetDyn → TargetDyn) : (s.updDyn t f).hostOut = s.hostOut := rfl
@[simp] theorem State.updDyn_memOut (t : Nat) (f : TargetDyn → TargetDyn) : (s.updDyn t f).memOut = s.memOut := rfl
@[simp] theorem State.updDyn_pending (t : Nat) (f : TargetDyn → TargetDyn) : (s.updDyn t f).pending = s.pending := rfl

/-! ### `updStore` -/

@[simp] theorem State.updStore_phase (f : Store → Store) : (s.updStore f).phase = s.phase := rfl
@[simp] theorem State.updStore_clock (f : Store → Store) : (s.updStore f).clock = s.clock := rfl
@[simp] theorem State.updStore_hrstDriven (f : Store → Store) : (s.updStore f).hrstDriven = s.hrstDriven := rfl
@[simp] theorem State.updStore_hrstSeenHigh (f : Store → Store) : (s.updStore f).hrstSeenHigh = s.hrstSeenHigh := rfl
@[simp] theorem State.updStore_portOpen (f : Store → Store) : (s.updStore f).portOpen = s.portOpen := rfl
@[simp] theorem State.updStore_cfg (f : Store → Store) : (s.updStore f).cfg = s.cfg := rfl
@[simp] theorem State.updStore_configDefaulted (f : Store → Store) : (s.updStore f).configDefaulted = s.configDefaulted := rfl
@[simp] theorem State.updStore_configChanged (f : Store → Store) : (s.updStore f).configChanged = s.configChanged := rfl
@[simp] theorem State.updStore_keys (f : Store → Store) : (s.updStore f).keys = s.keys := rfl
@[simp] theorem State.updStore_locked (f : Store → Store) : (s.updStore f).locked = s.locked := rfl
@[simp] theorem State.updStore_statics (f : Store → Store) : (s.updStore f).statics = s.statics := rfl
@[simp] theorem State.updStore_identity (f : Store → Store) : (s.updStore f).identity = s.identity := rfl
@[simp] theorem State.updStore_tracker (f : Store → Store) : (s.updStore f).tracker = s.tracker := rfl
@[simp] theorem State.updStore_echo (f : Store → Store) : (s.updStore f).echo = s.echo := rfl
@[simp] theorem State.updStore_pendingWD (f : Store → Store) : (s.updStore f).pendingWD = s.pendingWD := rfl
@[simp] theorem State.updStore_guard (f : Store → Store) : (s.updStore f).guard = s.guard := rfl
@[simp] theorem State.updStore_map (f : Store → Store) : (s.updStore f).map = s.map := rfl
@[simp] theorem State.updStore_pool (f : Store → Store) : (s.updStore f).pool = s.pool := rfl
@[simp] theorem State.updStore_health (f : Store → Store) : (s.updStore f).health = s.health := rfl
@[simp] theorem State.updStore_strikes (f : Store → Store) : (s.updStore f).strikes = s.strikes := rfl
@[simp] theorem State.updStore_clean (f : Store → Store) : (s.updStore f).clean = s.clean := rfl
@[simp] theorem State.updStore_code (f : Store → Store) : (s.updStore f).code = s.code := rfl
@[simp] theorem State.updStore_slots (f : Store → Store) : (s.updStore f).slots = s.slots := rfl
@[simp] theorem State.updStore_job (f : Store → Store) : (s.updStore f).job = s.job := rfl
@[simp] theorem State.updStore_aside (f : Store → Store) : (s.updStore f).aside = s.aside := rfl
@[simp] theorem State.updStore_manifestJobs (f : Store → Store) : (s.updStore f).manifestJobs = s.manifestJobs := rfl
@[simp] theorem State.updStore_verifyQueue (f : Store → Store) : (s.updStore f).verifyQueue = s.verifyQueue := rfl
@[simp] theorem State.updStore_patrolSlot (f : Store → Store) : (s.updStore f).patrolSlot = s.patrolSlot := rfl
@[simp] theorem State.updStore_patrolChunk (f : Store → Store) : (s.updStore f).patrolChunk = s.patrolChunk := rfl
@[simp] theorem State.updStore_nextTick (f : Store → Store) : (s.updStore f).nextTick = s.nextTick := rfl
@[simp] theorem State.updStore_scan (f : Store → Store) : (s.updStore f).scan = s.scan := rfl
@[simp] theorem State.updStore_targets (f : Store → Store) : (s.updStore f).targets = s.targets := rfl
@[simp] theorem State.updStore_boot (f : Store → Store) : (s.updStore f).boot = s.boot := rfl
@[simp] theorem State.updStore_store (f : Store → Store) : (s.updStore f).store = f s.store := rfl
@[simp] theorem State.updStore_reqPage (f : Store → Store) : (s.updStore f).reqPage = s.reqPage := rfl
@[simp] theorem State.updStore_lastSerial (f : Store → Store) : (s.updStore f).lastSerial = s.lastSerial := rfl
@[simp] theorem State.updStore_lastCode (f : Store → Store) : (s.updStore f).lastCode = s.lastCode := rfl
@[simp] theorem State.updStore_lastOutcome (f : Store → Store) : (s.updStore f).lastOutcome = s.lastOutcome := rfl
@[simp] theorem State.updStore_lastReason (f : Store → Store) : (s.updStore f).lastReason = s.lastReason := rfl
@[simp] theorem State.updStore_lastBusy (f : Store → Store) : (s.updStore f).lastBusy = s.lastBusy := rfl
@[simp] theorem State.updStore_snapshots (f : Store → Store) : (s.updStore f).snapshots = s.snapshots := rfl
@[simp] theorem State.updStore_log (f : Store → Store) : (s.updStore f).log = s.log := rfl
@[simp] theorem State.updStore_overrun (f : Store → Store) : (s.updStore f).overrun = s.overrun := rfl
@[simp] theorem State.updStore_nextLogSeq (f : Store → Store) : (s.updStore f).nextLogSeq = s.nextLogSeq := rfl
@[simp] theorem State.updStore_alertPending (f : Store → Store) : (s.updStore f).alertPending = s.alertPending := rfl
@[simp] theorem State.updStore_flash (f : Store → Store) : (s.updStore f).flash = s.flash := rfl
@[simp] theorem State.updStore_freeCount (f : Store → Store) : (s.updStore f).freeCount = s.freeCount := rfl
@[simp] theorem State.updStore_hostOut (f : Store → Store) : (s.updStore f).hostOut = s.hostOut := rfl
@[simp] theorem State.updStore_memOut (f : Store → Store) : (s.updStore f).memOut = s.memOut := rfl
@[simp] theorem State.updStore_pending (f : Store → Store) : (s.updStore f).pending = s.pending := rfl
@[simp] theorem State.updStore_slotAt (f : Store → Store) (i : Nat) : (s.updStore f).slotAt i = s.slotAt i := rfl
@[simp] theorem State.updStore_dynAt (f : Store → Store) (u : Nat) : (s.updStore f).dynAt u = s.dynAt u := rfl
@[simp] theorem State.updStore_physical (f : Store → Store) (l : Nat) : (s.updStore f).physical l = s.physical l := rfl

/-! ### `offer` -/

@[simp] theorem State.offer_phase (o : Owner) (p : Payload) : (s.offer o p).phase = s.phase := rfl
@[simp] theorem State.offer_clock (o : Owner) (p : Payload) : (s.offer o p).clock = s.clock := rfl
@[simp] theorem State.offer_hrstDriven (o : Owner) (p : Payload) : (s.offer o p).hrstDriven = s.hrstDriven := rfl
@[simp] theorem State.offer_hrstSeenHigh (o : Owner) (p : Payload) : (s.offer o p).hrstSeenHigh = s.hrstSeenHigh := rfl
@[simp] theorem State.offer_portOpen (o : Owner) (p : Payload) : (s.offer o p).portOpen = s.portOpen := rfl
@[simp] theorem State.offer_cfg (o : Owner) (p : Payload) : (s.offer o p).cfg = s.cfg := rfl
@[simp] theorem State.offer_configDefaulted (o : Owner) (p : Payload) : (s.offer o p).configDefaulted = s.configDefaulted := rfl
@[simp] theorem State.offer_configChanged (o : Owner) (p : Payload) : (s.offer o p).configChanged = s.configChanged := rfl
@[simp] theorem State.offer_keys (o : Owner) (p : Payload) : (s.offer o p).keys = s.keys := rfl
@[simp] theorem State.offer_locked (o : Owner) (p : Payload) : (s.offer o p).locked = s.locked := rfl
@[simp] theorem State.offer_statics (o : Owner) (p : Payload) : (s.offer o p).statics = s.statics := rfl
@[simp] theorem State.offer_identity (o : Owner) (p : Payload) : (s.offer o p).identity = s.identity := rfl
@[simp] theorem State.offer_tracker (o : Owner) (p : Payload) : (s.offer o p).tracker = s.tracker := rfl
@[simp] theorem State.offer_echo (o : Owner) (p : Payload) : (s.offer o p).echo = s.echo := rfl
@[simp] theorem State.offer_pendingWD (o : Owner) (p : Payload) : (s.offer o p).pendingWD = s.pendingWD := rfl
@[simp] theorem State.offer_guard (o : Owner) (p : Payload) : (s.offer o p).guard = s.guard := rfl
@[simp] theorem State.offer_map (o : Owner) (p : Payload) : (s.offer o p).map = s.map := rfl
@[simp] theorem State.offer_pool (o : Owner) (p : Payload) : (s.offer o p).pool = s.pool := rfl
@[simp] theorem State.offer_health (o : Owner) (p : Payload) : (s.offer o p).health = s.health := rfl
@[simp] theorem State.offer_strikes (o : Owner) (p : Payload) : (s.offer o p).strikes = s.strikes := rfl
@[simp] theorem State.offer_clean (o : Owner) (p : Payload) : (s.offer o p).clean = s.clean := rfl
@[simp] theorem State.offer_code (o : Owner) (p : Payload) : (s.offer o p).code = s.code := rfl
@[simp] theorem State.offer_slots (o : Owner) (p : Payload) : (s.offer o p).slots = s.slots := rfl
@[simp] theorem State.offer_job (o : Owner) (p : Payload) : (s.offer o p).job = s.job := rfl
@[simp] theorem State.offer_aside (o : Owner) (p : Payload) : (s.offer o p).aside = s.aside := rfl
@[simp] theorem State.offer_manifestJobs (o : Owner) (p : Payload) : (s.offer o p).manifestJobs = s.manifestJobs := rfl
@[simp] theorem State.offer_verifyQueue (o : Owner) (p : Payload) : (s.offer o p).verifyQueue = s.verifyQueue := rfl
@[simp] theorem State.offer_patrolSlot (o : Owner) (p : Payload) : (s.offer o p).patrolSlot = s.patrolSlot := rfl
@[simp] theorem State.offer_patrolChunk (o : Owner) (p : Payload) : (s.offer o p).patrolChunk = s.patrolChunk := rfl
@[simp] theorem State.offer_nextTick (o : Owner) (p : Payload) : (s.offer o p).nextTick = s.nextTick := rfl
@[simp] theorem State.offer_scan (o : Owner) (p : Payload) : (s.offer o p).scan = s.scan := rfl
@[simp] theorem State.offer_targets (o : Owner) (p : Payload) : (s.offer o p).targets = s.targets := rfl
@[simp] theorem State.offer_boot (o : Owner) (p : Payload) : (s.offer o p).boot = s.boot := rfl
@[simp] theorem State.offer_reqPage (o : Owner) (p : Payload) : (s.offer o p).reqPage = s.reqPage := rfl
@[simp] theorem State.offer_lastSerial (o : Owner) (p : Payload) : (s.offer o p).lastSerial = s.lastSerial := rfl
@[simp] theorem State.offer_lastCode (o : Owner) (p : Payload) : (s.offer o p).lastCode = s.lastCode := rfl
@[simp] theorem State.offer_lastOutcome (o : Owner) (p : Payload) : (s.offer o p).lastOutcome = s.lastOutcome := rfl
@[simp] theorem State.offer_lastReason (o : Owner) (p : Payload) : (s.offer o p).lastReason = s.lastReason := rfl
@[simp] theorem State.offer_lastBusy (o : Owner) (p : Payload) : (s.offer o p).lastBusy = s.lastBusy := rfl
@[simp] theorem State.offer_snapshots (o : Owner) (p : Payload) : (s.offer o p).snapshots = s.snapshots := rfl
@[simp] theorem State.offer_log (o : Owner) (p : Payload) : (s.offer o p).log = s.log := rfl
@[simp] theorem State.offer_overrun (o : Owner) (p : Payload) : (s.offer o p).overrun = s.overrun := rfl
@[simp] theorem State.offer_nextLogSeq (o : Owner) (p : Payload) : (s.offer o p).nextLogSeq = s.nextLogSeq := rfl
@[simp] theorem State.offer_alertPending (o : Owner) (p : Payload) : (s.offer o p).alertPending = s.alertPending := rfl
@[simp] theorem State.offer_flash (o : Owner) (p : Payload) : (s.offer o p).flash = s.flash := rfl
@[simp] theorem State.offer_freeCount (o : Owner) (p : Payload) : (s.offer o p).freeCount = s.freeCount := rfl
@[simp] theorem State.offer_hostOut (o : Owner) (p : Payload) : (s.offer o p).hostOut = s.hostOut := rfl
@[simp] theorem State.offer_memOut (o : Owner) (p : Payload) : (s.offer o p).memOut = s.memOut := rfl
@[simp] theorem State.offer_pending (o : Owner) (p : Payload) : (s.offer o p).pending = s.pending := rfl

/-! ### `setHealth` -/

@[simp] theorem State.setHealth_phase (p : Nat) (h : Health) : (s.setHealth p h).phase = s.phase := rfl
@[simp] theorem State.setHealth_clock (p : Nat) (h : Health) : (s.setHealth p h).clock = s.clock := rfl
@[simp] theorem State.setHealth_hrstDriven (p : Nat) (h : Health) : (s.setHealth p h).hrstDriven = s.hrstDriven := rfl
@[simp] theorem State.setHealth_hrstSeenHigh (p : Nat) (h : Health) : (s.setHealth p h).hrstSeenHigh = s.hrstSeenHigh := rfl
@[simp] theorem State.setHealth_portOpen (p : Nat) (h : Health) : (s.setHealth p h).portOpen = s.portOpen := rfl
@[simp] theorem State.setHealth_cfg (p : Nat) (h : Health) : (s.setHealth p h).cfg = s.cfg := rfl
@[simp] theorem State.setHealth_configDefaulted (p : Nat) (h : Health) : (s.setHealth p h).configDefaulted = s.configDefaulted := rfl
@[simp] theorem State.setHealth_configChanged (p : Nat) (h : Health) : (s.setHealth p h).configChanged = s.configChanged := rfl
@[simp] theorem State.setHealth_keys (p : Nat) (h : Health) : (s.setHealth p h).keys = s.keys := rfl
@[simp] theorem State.setHealth_locked (p : Nat) (h : Health) : (s.setHealth p h).locked = s.locked := rfl
@[simp] theorem State.setHealth_statics (p : Nat) (h : Health) : (s.setHealth p h).statics = s.statics := rfl
@[simp] theorem State.setHealth_identity (p : Nat) (h : Health) : (s.setHealth p h).identity = s.identity := rfl
@[simp] theorem State.setHealth_tracker (p : Nat) (h : Health) : (s.setHealth p h).tracker = s.tracker := rfl
@[simp] theorem State.setHealth_echo (p : Nat) (h : Health) : (s.setHealth p h).echo = s.echo := rfl
@[simp] theorem State.setHealth_pendingWD (p : Nat) (h : Health) : (s.setHealth p h).pendingWD = s.pendingWD := rfl
@[simp] theorem State.setHealth_guard (p : Nat) (h : Health) : (s.setHealth p h).guard = s.guard := rfl
@[simp] theorem State.setHealth_map (p : Nat) (h : Health) : (s.setHealth p h).map = s.map := rfl
@[simp] theorem State.setHealth_pool (p : Nat) (h : Health) : (s.setHealth p h).pool = s.pool := rfl
@[simp] theorem State.setHealth_health (p : Nat) (h : Health) : (s.setHealth p h).health = healthStore p h s.health := rfl
@[simp] theorem State.setHealth_strikes (p : Nat) (h : Health) : (s.setHealth p h).strikes = s.strikes := rfl
@[simp] theorem State.setHealth_clean (p : Nat) (h : Health) : (s.setHealth p h).clean = s.clean := rfl
@[simp] theorem State.setHealth_code (p : Nat) (h : Health) : (s.setHealth p h).code = s.code := rfl
@[simp] theorem State.setHealth_slots (p : Nat) (h : Health) : (s.setHealth p h).slots = s.slots := rfl
@[simp] theorem State.setHealth_job (p : Nat) (h : Health) : (s.setHealth p h).job = s.job := rfl
@[simp] theorem State.setHealth_aside (p : Nat) (h : Health) : (s.setHealth p h).aside = s.aside := rfl
@[simp] theorem State.setHealth_manifestJobs (p : Nat) (h : Health) : (s.setHealth p h).manifestJobs = s.manifestJobs := rfl
@[simp] theorem State.setHealth_verifyQueue (p : Nat) (h : Health) : (s.setHealth p h).verifyQueue = s.verifyQueue := rfl
@[simp] theorem State.setHealth_patrolSlot (p : Nat) (h : Health) : (s.setHealth p h).patrolSlot = s.patrolSlot := rfl
@[simp] theorem State.setHealth_patrolChunk (p : Nat) (h : Health) : (s.setHealth p h).patrolChunk = s.patrolChunk := rfl
@[simp] theorem State.setHealth_nextTick (p : Nat) (h : Health) : (s.setHealth p h).nextTick = s.nextTick := rfl
@[simp] theorem State.setHealth_scan (p : Nat) (h : Health) : (s.setHealth p h).scan = s.scan := rfl
@[simp] theorem State.setHealth_targets (p : Nat) (h : Health) : (s.setHealth p h).targets = s.targets := rfl
@[simp] theorem State.setHealth_boot (p : Nat) (h : Health) : (s.setHealth p h).boot = s.boot := rfl
@[simp] theorem State.setHealth_store (p : Nat) (h : Health) : (s.setHealth p h).store = s.store := rfl
@[simp] theorem State.setHealth_reqPage (p : Nat) (h : Health) : (s.setHealth p h).reqPage = s.reqPage := rfl
@[simp] theorem State.setHealth_lastSerial (p : Nat) (h : Health) : (s.setHealth p h).lastSerial = s.lastSerial := rfl
@[simp] theorem State.setHealth_lastCode (p : Nat) (h : Health) : (s.setHealth p h).lastCode = s.lastCode := rfl
@[simp] theorem State.setHealth_lastOutcome (p : Nat) (h : Health) : (s.setHealth p h).lastOutcome = s.lastOutcome := rfl
@[simp] theorem State.setHealth_lastReason (p : Nat) (h : Health) : (s.setHealth p h).lastReason = s.lastReason := rfl
@[simp] theorem State.setHealth_lastBusy (p : Nat) (h : Health) : (s.setHealth p h).lastBusy = s.lastBusy := rfl
@[simp] theorem State.setHealth_snapshots (p : Nat) (h : Health) : (s.setHealth p h).snapshots = s.snapshots := rfl
@[simp] theorem State.setHealth_log (p : Nat) (h : Health) : (s.setHealth p h).log = s.log := rfl
@[simp] theorem State.setHealth_overrun (p : Nat) (h : Health) : (s.setHealth p h).overrun = s.overrun := rfl
@[simp] theorem State.setHealth_nextLogSeq (p : Nat) (h : Health) : (s.setHealth p h).nextLogSeq = s.nextLogSeq := rfl
@[simp] theorem State.setHealth_alertPending (p : Nat) (h : Health) : (s.setHealth p h).alertPending = s.alertPending := rfl
@[simp] theorem State.setHealth_flash (p : Nat) (h : Health) : (s.setHealth p h).flash = s.flash := rfl
@[simp] theorem State.setHealth_freeCount (p : Nat) (h : Health) : (s.setHealth p h).freeCount = s.freeCount := rfl
@[simp] theorem State.setHealth_hostOut (p : Nat) (h : Health) : (s.setHealth p h).hostOut = s.hostOut := rfl
@[simp] theorem State.setHealth_memOut (p : Nat) (h : Health) : (s.setHealth p h).memOut = s.memOut := rfl
@[simp] theorem State.setHealth_pending (p : Nat) (h : Health) : (s.setHealth p h).pending = s.pending := rfl

/-! ### `setStrikes` -/

@[simp] theorem State.setStrikes_phase (p n : Nat) : (s.setStrikes p n).phase = s.phase := rfl
@[simp] theorem State.setStrikes_clock (p n : Nat) : (s.setStrikes p n).clock = s.clock := rfl
@[simp] theorem State.setStrikes_hrstDriven (p n : Nat) : (s.setStrikes p n).hrstDriven = s.hrstDriven := rfl
@[simp] theorem State.setStrikes_hrstSeenHigh (p n : Nat) : (s.setStrikes p n).hrstSeenHigh = s.hrstSeenHigh := rfl
@[simp] theorem State.setStrikes_portOpen (p n : Nat) : (s.setStrikes p n).portOpen = s.portOpen := rfl
@[simp] theorem State.setStrikes_cfg (p n : Nat) : (s.setStrikes p n).cfg = s.cfg := rfl
@[simp] theorem State.setStrikes_configDefaulted (p n : Nat) : (s.setStrikes p n).configDefaulted = s.configDefaulted := rfl
@[simp] theorem State.setStrikes_configChanged (p n : Nat) : (s.setStrikes p n).configChanged = s.configChanged := rfl
@[simp] theorem State.setStrikes_keys (p n : Nat) : (s.setStrikes p n).keys = s.keys := rfl
@[simp] theorem State.setStrikes_locked (p n : Nat) : (s.setStrikes p n).locked = s.locked := rfl
@[simp] theorem State.setStrikes_statics (p n : Nat) : (s.setStrikes p n).statics = s.statics := rfl
@[simp] theorem State.setStrikes_identity (p n : Nat) : (s.setStrikes p n).identity = s.identity := rfl
@[simp] theorem State.setStrikes_tracker (p n : Nat) : (s.setStrikes p n).tracker = s.tracker := rfl
@[simp] theorem State.setStrikes_echo (p n : Nat) : (s.setStrikes p n).echo = s.echo := rfl
@[simp] theorem State.setStrikes_pendingWD (p n : Nat) : (s.setStrikes p n).pendingWD = s.pendingWD := rfl
@[simp] theorem State.setStrikes_guard (p n : Nat) : (s.setStrikes p n).guard = s.guard := rfl
@[simp] theorem State.setStrikes_map (p n : Nat) : (s.setStrikes p n).map = s.map := rfl
@[simp] theorem State.setStrikes_pool (p n : Nat) : (s.setStrikes p n).pool = s.pool := rfl
@[simp] theorem State.setStrikes_health (p n : Nat) : (s.setStrikes p n).health = s.health := rfl
@[simp] theorem State.setStrikes_strikes (p n : Nat) : (s.setStrikes p n).strikes = putAt p (if n = 0 then none else some n) s.strikes := rfl
@[simp] theorem State.setStrikes_clean (p n : Nat) : (s.setStrikes p n).clean = s.clean := rfl
@[simp] theorem State.setStrikes_code (p n : Nat) : (s.setStrikes p n).code = s.code := rfl
@[simp] theorem State.setStrikes_slots (p n : Nat) : (s.setStrikes p n).slots = s.slots := rfl
@[simp] theorem State.setStrikes_job (p n : Nat) : (s.setStrikes p n).job = s.job := rfl
@[simp] theorem State.setStrikes_aside (p n : Nat) : (s.setStrikes p n).aside = s.aside := rfl
@[simp] theorem State.setStrikes_manifestJobs (p n : Nat) : (s.setStrikes p n).manifestJobs = s.manifestJobs := rfl
@[simp] theorem State.setStrikes_verifyQueue (p n : Nat) : (s.setStrikes p n).verifyQueue = s.verifyQueue := rfl
@[simp] theorem State.setStrikes_patrolSlot (p n : Nat) : (s.setStrikes p n).patrolSlot = s.patrolSlot := rfl
@[simp] theorem State.setStrikes_patrolChunk (p n : Nat) : (s.setStrikes p n).patrolChunk = s.patrolChunk := rfl
@[simp] theorem State.setStrikes_nextTick (p n : Nat) : (s.setStrikes p n).nextTick = s.nextTick := rfl
@[simp] theorem State.setStrikes_scan (p n : Nat) : (s.setStrikes p n).scan = s.scan := rfl
@[simp] theorem State.setStrikes_targets (p n : Nat) : (s.setStrikes p n).targets = s.targets := rfl
@[simp] theorem State.setStrikes_boot (p n : Nat) : (s.setStrikes p n).boot = s.boot := rfl
@[simp] theorem State.setStrikes_store (p n : Nat) : (s.setStrikes p n).store = s.store := rfl
@[simp] theorem State.setStrikes_reqPage (p n : Nat) : (s.setStrikes p n).reqPage = s.reqPage := rfl
@[simp] theorem State.setStrikes_lastSerial (p n : Nat) : (s.setStrikes p n).lastSerial = s.lastSerial := rfl
@[simp] theorem State.setStrikes_lastCode (p n : Nat) : (s.setStrikes p n).lastCode = s.lastCode := rfl
@[simp] theorem State.setStrikes_lastOutcome (p n : Nat) : (s.setStrikes p n).lastOutcome = s.lastOutcome := rfl
@[simp] theorem State.setStrikes_lastReason (p n : Nat) : (s.setStrikes p n).lastReason = s.lastReason := rfl
@[simp] theorem State.setStrikes_lastBusy (p n : Nat) : (s.setStrikes p n).lastBusy = s.lastBusy := rfl
@[simp] theorem State.setStrikes_snapshots (p n : Nat) : (s.setStrikes p n).snapshots = s.snapshots := rfl
@[simp] theorem State.setStrikes_log (p n : Nat) : (s.setStrikes p n).log = s.log := rfl
@[simp] theorem State.setStrikes_overrun (p n : Nat) : (s.setStrikes p n).overrun = s.overrun := rfl
@[simp] theorem State.setStrikes_nextLogSeq (p n : Nat) : (s.setStrikes p n).nextLogSeq = s.nextLogSeq := rfl
@[simp] theorem State.setStrikes_alertPending (p n : Nat) : (s.setStrikes p n).alertPending = s.alertPending := rfl
@[simp] theorem State.setStrikes_flash (p n : Nat) : (s.setStrikes p n).flash = s.flash := rfl
@[simp] theorem State.setStrikes_freeCount (p n : Nat) : (s.setStrikes p n).freeCount = s.freeCount := rfl
@[simp] theorem State.setStrikes_hostOut (p n : Nat) : (s.setStrikes p n).hostOut = s.hostOut := rfl
@[simp] theorem State.setStrikes_memOut (p n : Nat) : (s.setStrikes p n).memOut = s.memOut := rfl
@[simp] theorem State.setStrikes_pending (p n : Nat) : (s.setStrikes p n).pending = s.pending := rfl

/-! ### `setClean` -/

@[simp] theorem State.setClean_phase (l : Nat) : (s.setClean l).phase = s.phase := rfl
@[simp] theorem State.setClean_clock (l : Nat) : (s.setClean l).clock = s.clock := rfl
@[simp] theorem State.setClean_hrstDriven (l : Nat) : (s.setClean l).hrstDriven = s.hrstDriven := rfl
@[simp] theorem State.setClean_hrstSeenHigh (l : Nat) : (s.setClean l).hrstSeenHigh = s.hrstSeenHigh := rfl
@[simp] theorem State.setClean_portOpen (l : Nat) : (s.setClean l).portOpen = s.portOpen := rfl
@[simp] theorem State.setClean_cfg (l : Nat) : (s.setClean l).cfg = s.cfg := rfl
@[simp] theorem State.setClean_configDefaulted (l : Nat) : (s.setClean l).configDefaulted = s.configDefaulted := rfl
@[simp] theorem State.setClean_configChanged (l : Nat) : (s.setClean l).configChanged = s.configChanged := rfl
@[simp] theorem State.setClean_keys (l : Nat) : (s.setClean l).keys = s.keys := rfl
@[simp] theorem State.setClean_locked (l : Nat) : (s.setClean l).locked = s.locked := rfl
@[simp] theorem State.setClean_statics (l : Nat) : (s.setClean l).statics = s.statics := rfl
@[simp] theorem State.setClean_identity (l : Nat) : (s.setClean l).identity = s.identity := rfl
@[simp] theorem State.setClean_tracker (l : Nat) : (s.setClean l).tracker = s.tracker := rfl
@[simp] theorem State.setClean_echo (l : Nat) : (s.setClean l).echo = s.echo := rfl
@[simp] theorem State.setClean_pendingWD (l : Nat) : (s.setClean l).pendingWD = s.pendingWD := rfl
@[simp] theorem State.setClean_guard (l : Nat) : (s.setClean l).guard = s.guard := rfl
@[simp] theorem State.setClean_map (l : Nat) : (s.setClean l).map = s.map := rfl
@[simp] theorem State.setClean_pool (l : Nat) : (s.setClean l).pool = s.pool := rfl
@[simp] theorem State.setClean_health (l : Nat) : (s.setClean l).health = s.health := rfl
@[simp] theorem State.setClean_strikes (l : Nat) : (s.setClean l).strikes = s.strikes := rfl
@[simp] theorem State.setClean_clean (l : Nat) : (s.setClean l).clean = insertNat l s.clean := rfl
@[simp] theorem State.setClean_code (l : Nat) : (s.setClean l).code = s.code := rfl
@[simp] theorem State.setClean_slots (l : Nat) : (s.setClean l).slots = s.slots := rfl
@[simp] theorem State.setClean_job (l : Nat) : (s.setClean l).job = s.job := rfl
@[simp] theorem State.setClean_aside (l : Nat) : (s.setClean l).aside = s.aside := rfl
@[simp] theorem State.setClean_manifestJobs (l : Nat) : (s.setClean l).manifestJobs = s.manifestJobs := rfl
@[simp] theorem State.setClean_verifyQueue (l : Nat) : (s.setClean l).verifyQueue = s.verifyQueue := rfl
@[simp] theorem State.setClean_patrolSlot (l : Nat) : (s.setClean l).patrolSlot = s.patrolSlot := rfl
@[simp] theorem State.setClean_patrolChunk (l : Nat) : (s.setClean l).patrolChunk = s.patrolChunk := rfl
@[simp] theorem State.setClean_nextTick (l : Nat) : (s.setClean l).nextTick = s.nextTick := rfl
@[simp] theorem State.setClean_scan (l : Nat) : (s.setClean l).scan = s.scan := rfl
@[simp] theorem State.setClean_targets (l : Nat) : (s.setClean l).targets = s.targets := rfl
@[simp] theorem State.setClean_boot (l : Nat) : (s.setClean l).boot = s.boot := rfl
@[simp] theorem State.setClean_store (l : Nat) : (s.setClean l).store = s.store := rfl
@[simp] theorem State.setClean_reqPage (l : Nat) : (s.setClean l).reqPage = s.reqPage := rfl
@[simp] theorem State.setClean_lastSerial (l : Nat) : (s.setClean l).lastSerial = s.lastSerial := rfl
@[simp] theorem State.setClean_lastCode (l : Nat) : (s.setClean l).lastCode = s.lastCode := rfl
@[simp] theorem State.setClean_lastOutcome (l : Nat) : (s.setClean l).lastOutcome = s.lastOutcome := rfl
@[simp] theorem State.setClean_lastReason (l : Nat) : (s.setClean l).lastReason = s.lastReason := rfl
@[simp] theorem State.setClean_lastBusy (l : Nat) : (s.setClean l).lastBusy = s.lastBusy := rfl
@[simp] theorem State.setClean_snapshots (l : Nat) : (s.setClean l).snapshots = s.snapshots := rfl
@[simp] theorem State.setClean_log (l : Nat) : (s.setClean l).log = s.log := rfl
@[simp] theorem State.setClean_overrun (l : Nat) : (s.setClean l).overrun = s.overrun := rfl
@[simp] theorem State.setClean_nextLogSeq (l : Nat) : (s.setClean l).nextLogSeq = s.nextLogSeq := rfl
@[simp] theorem State.setClean_alertPending (l : Nat) : (s.setClean l).alertPending = s.alertPending := rfl
@[simp] theorem State.setClean_flash (l : Nat) : (s.setClean l).flash = s.flash := rfl
@[simp] theorem State.setClean_freeCount (l : Nat) : (s.setClean l).freeCount = s.freeCount := rfl
@[simp] theorem State.setClean_hostOut (l : Nat) : (s.setClean l).hostOut = s.hostOut := rfl
@[simp] theorem State.setClean_memOut (l : Nat) : (s.setClean l).memOut = s.memOut := rfl
@[simp] theorem State.setClean_pending (l : Nat) : (s.setClean l).pending = s.pending := rfl

/-! ### `clearClean` -/

@[simp] theorem State.clearClean_phase (l : Nat) : (s.clearClean l).phase = s.phase := rfl
@[simp] theorem State.clearClean_clock (l : Nat) : (s.clearClean l).clock = s.clock := rfl
@[simp] theorem State.clearClean_hrstDriven (l : Nat) : (s.clearClean l).hrstDriven = s.hrstDriven := rfl
@[simp] theorem State.clearClean_hrstSeenHigh (l : Nat) : (s.clearClean l).hrstSeenHigh = s.hrstSeenHigh := rfl
@[simp] theorem State.clearClean_portOpen (l : Nat) : (s.clearClean l).portOpen = s.portOpen := rfl
@[simp] theorem State.clearClean_cfg (l : Nat) : (s.clearClean l).cfg = s.cfg := rfl
@[simp] theorem State.clearClean_configDefaulted (l : Nat) : (s.clearClean l).configDefaulted = s.configDefaulted := rfl
@[simp] theorem State.clearClean_configChanged (l : Nat) : (s.clearClean l).configChanged = s.configChanged := rfl
@[simp] theorem State.clearClean_keys (l : Nat) : (s.clearClean l).keys = s.keys := rfl
@[simp] theorem State.clearClean_locked (l : Nat) : (s.clearClean l).locked = s.locked := rfl
@[simp] theorem State.clearClean_statics (l : Nat) : (s.clearClean l).statics = s.statics := rfl
@[simp] theorem State.clearClean_identity (l : Nat) : (s.clearClean l).identity = s.identity := rfl
@[simp] theorem State.clearClean_tracker (l : Nat) : (s.clearClean l).tracker = s.tracker := rfl
@[simp] theorem State.clearClean_echo (l : Nat) : (s.clearClean l).echo = s.echo := rfl
@[simp] theorem State.clearClean_pendingWD (l : Nat) : (s.clearClean l).pendingWD = s.pendingWD := rfl
@[simp] theorem State.clearClean_guard (l : Nat) : (s.clearClean l).guard = s.guard := rfl
@[simp] theorem State.clearClean_map (l : Nat) : (s.clearClean l).map = s.map := rfl
@[simp] theorem State.clearClean_pool (l : Nat) : (s.clearClean l).pool = s.pool := rfl
@[simp] theorem State.clearClean_health (l : Nat) : (s.clearClean l).health = s.health := rfl
@[simp] theorem State.clearClean_strikes (l : Nat) : (s.clearClean l).strikes = s.strikes := rfl
@[simp] theorem State.clearClean_clean (l : Nat) : (s.clearClean l).clean = s.clean.filter (· != l) := rfl
@[simp] theorem State.clearClean_code (l : Nat) : (s.clearClean l).code = s.code := rfl
@[simp] theorem State.clearClean_slots (l : Nat) : (s.clearClean l).slots = s.slots := rfl
@[simp] theorem State.clearClean_job (l : Nat) : (s.clearClean l).job = s.job := rfl
@[simp] theorem State.clearClean_aside (l : Nat) : (s.clearClean l).aside = s.aside := rfl
@[simp] theorem State.clearClean_manifestJobs (l : Nat) : (s.clearClean l).manifestJobs = s.manifestJobs := rfl
@[simp] theorem State.clearClean_verifyQueue (l : Nat) : (s.clearClean l).verifyQueue = s.verifyQueue := rfl
@[simp] theorem State.clearClean_patrolSlot (l : Nat) : (s.clearClean l).patrolSlot = s.patrolSlot := rfl
@[simp] theorem State.clearClean_patrolChunk (l : Nat) : (s.clearClean l).patrolChunk = s.patrolChunk := rfl
@[simp] theorem State.clearClean_nextTick (l : Nat) : (s.clearClean l).nextTick = s.nextTick := rfl
@[simp] theorem State.clearClean_scan (l : Nat) : (s.clearClean l).scan = s.scan := rfl
@[simp] theorem State.clearClean_targets (l : Nat) : (s.clearClean l).targets = s.targets := rfl
@[simp] theorem State.clearClean_boot (l : Nat) : (s.clearClean l).boot = s.boot := rfl
@[simp] theorem State.clearClean_store (l : Nat) : (s.clearClean l).store = s.store := rfl
@[simp] theorem State.clearClean_reqPage (l : Nat) : (s.clearClean l).reqPage = s.reqPage := rfl
@[simp] theorem State.clearClean_lastSerial (l : Nat) : (s.clearClean l).lastSerial = s.lastSerial := rfl
@[simp] theorem State.clearClean_lastCode (l : Nat) : (s.clearClean l).lastCode = s.lastCode := rfl
@[simp] theorem State.clearClean_lastOutcome (l : Nat) : (s.clearClean l).lastOutcome = s.lastOutcome := rfl
@[simp] theorem State.clearClean_lastReason (l : Nat) : (s.clearClean l).lastReason = s.lastReason := rfl
@[simp] theorem State.clearClean_lastBusy (l : Nat) : (s.clearClean l).lastBusy = s.lastBusy := rfl
@[simp] theorem State.clearClean_snapshots (l : Nat) : (s.clearClean l).snapshots = s.snapshots := rfl
@[simp] theorem State.clearClean_log (l : Nat) : (s.clearClean l).log = s.log := rfl
@[simp] theorem State.clearClean_overrun (l : Nat) : (s.clearClean l).overrun = s.overrun := rfl
@[simp] theorem State.clearClean_nextLogSeq (l : Nat) : (s.clearClean l).nextLogSeq = s.nextLogSeq := rfl
@[simp] theorem State.clearClean_alertPending (l : Nat) : (s.clearClean l).alertPending = s.alertPending := rfl
@[simp] theorem State.clearClean_flash (l : Nat) : (s.clearClean l).flash = s.flash := rfl
@[simp] theorem State.clearClean_freeCount (l : Nat) : (s.clearClean l).freeCount = s.freeCount := rfl
@[simp] theorem State.clearClean_hostOut (l : Nat) : (s.clearClean l).hostOut = s.hostOut := rfl
@[simp] theorem State.clearClean_memOut (l : Nat) : (s.clearClean l).memOut = s.memOut := rfl
@[simp] theorem State.clearClean_pending (l : Nat) : (s.clearClean l).pending = s.pending := rfl

/-! ### `send` -/

@[simp] theorem State.send_phase (t : MemTxn) : (s.send t).phase = s.phase := rfl
@[simp] theorem State.send_clock (t : MemTxn) : (s.send t).clock = s.clock := rfl
@[simp] theorem State.send_hrstDriven (t : MemTxn) : (s.send t).hrstDriven = s.hrstDriven := rfl
@[simp] theorem State.send_hrstSeenHigh (t : MemTxn) : (s.send t).hrstSeenHigh = s.hrstSeenHigh := rfl
@[simp] theorem State.send_portOpen (t : MemTxn) : (s.send t).portOpen = s.portOpen := rfl
@[simp] theorem State.send_cfg (t : MemTxn) : (s.send t).cfg = s.cfg := rfl
@[simp] theorem State.send_configDefaulted (t : MemTxn) : (s.send t).configDefaulted = s.configDefaulted := rfl
@[simp] theorem State.send_configChanged (t : MemTxn) : (s.send t).configChanged = s.configChanged := rfl
@[simp] theorem State.send_keys (t : MemTxn) : (s.send t).keys = s.keys := rfl
@[simp] theorem State.send_locked (t : MemTxn) : (s.send t).locked = s.locked := rfl
@[simp] theorem State.send_statics (t : MemTxn) : (s.send t).statics = s.statics := rfl
@[simp] theorem State.send_identity (t : MemTxn) : (s.send t).identity = s.identity := rfl
@[simp] theorem State.send_tracker (t : MemTxn) : (s.send t).tracker = s.tracker := rfl
@[simp] theorem State.send_echo (t : MemTxn) : (s.send t).echo = s.echo := rfl
@[simp] theorem State.send_pendingWD (t : MemTxn) : (s.send t).pendingWD = s.pendingWD := rfl
@[simp] theorem State.send_guard (t : MemTxn) : (s.send t).guard = s.guard := rfl
@[simp] theorem State.send_map (t : MemTxn) : (s.send t).map = s.map := rfl
@[simp] theorem State.send_pool (t : MemTxn) : (s.send t).pool = s.pool := rfl
@[simp] theorem State.send_health (t : MemTxn) : (s.send t).health = s.health := rfl
@[simp] theorem State.send_strikes (t : MemTxn) : (s.send t).strikes = s.strikes := rfl
@[simp] theorem State.send_clean (t : MemTxn) : (s.send t).clean = s.clean := rfl
@[simp] theorem State.send_code (t : MemTxn) : (s.send t).code = s.code := rfl
@[simp] theorem State.send_slots (t : MemTxn) : (s.send t).slots = s.slots := rfl
@[simp] theorem State.send_job (t : MemTxn) : (s.send t).job = s.job := rfl
@[simp] theorem State.send_aside (t : MemTxn) : (s.send t).aside = s.aside := rfl
@[simp] theorem State.send_manifestJobs (t : MemTxn) : (s.send t).manifestJobs = s.manifestJobs := rfl
@[simp] theorem State.send_verifyQueue (t : MemTxn) : (s.send t).verifyQueue = s.verifyQueue := rfl
@[simp] theorem State.send_patrolSlot (t : MemTxn) : (s.send t).patrolSlot = s.patrolSlot := rfl
@[simp] theorem State.send_patrolChunk (t : MemTxn) : (s.send t).patrolChunk = s.patrolChunk := rfl
@[simp] theorem State.send_nextTick (t : MemTxn) : (s.send t).nextTick = s.nextTick := rfl
@[simp] theorem State.send_scan (t : MemTxn) : (s.send t).scan = s.scan := rfl
@[simp] theorem State.send_targets (t : MemTxn) : (s.send t).targets = s.targets := rfl
@[simp] theorem State.send_boot (t : MemTxn) : (s.send t).boot = s.boot := rfl
@[simp] theorem State.send_store (t : MemTxn) : (s.send t).store = s.store := rfl
@[simp] theorem State.send_reqPage (t : MemTxn) : (s.send t).reqPage = s.reqPage := rfl
@[simp] theorem State.send_lastSerial (t : MemTxn) : (s.send t).lastSerial = s.lastSerial := rfl
@[simp] theorem State.send_lastCode (t : MemTxn) : (s.send t).lastCode = s.lastCode := rfl
@[simp] theorem State.send_lastOutcome (t : MemTxn) : (s.send t).lastOutcome = s.lastOutcome := rfl
@[simp] theorem State.send_lastReason (t : MemTxn) : (s.send t).lastReason = s.lastReason := rfl
@[simp] theorem State.send_lastBusy (t : MemTxn) : (s.send t).lastBusy = s.lastBusy := rfl
@[simp] theorem State.send_snapshots (t : MemTxn) : (s.send t).snapshots = s.snapshots := rfl
@[simp] theorem State.send_log (t : MemTxn) : (s.send t).log = s.log := rfl
@[simp] theorem State.send_overrun (t : MemTxn) : (s.send t).overrun = s.overrun := rfl
@[simp] theorem State.send_nextLogSeq (t : MemTxn) : (s.send t).nextLogSeq = s.nextLogSeq := rfl
@[simp] theorem State.send_alertPending (t : MemTxn) : (s.send t).alertPending = s.alertPending := rfl
@[simp] theorem State.send_flash (t : MemTxn) : (s.send t).flash = s.flash := rfl
@[simp] theorem State.send_freeCount (t : MemTxn) : (s.send t).freeCount = s.freeCount := rfl
@[simp] theorem State.send_hostOut (t : MemTxn) : (s.send t).hostOut = s.hostOut := rfl
@[simp] theorem State.send_memOut (t : MemTxn) : (s.send t).memOut = s.memOut ++ [t] := rfl
@[simp] theorem State.send_pending (t : MemTxn) : (s.send t).pending = s.pending := rfl

/-! ### `setLatch` -/

@[simp] theorem State.setLatch_phase (v : Bool) : (s.setLatch v).phase = s.phase := rfl
@[simp] theorem State.setLatch_clock (v : Bool) : (s.setLatch v).clock = s.clock := rfl
@[simp] theorem State.setLatch_hrstDriven (v : Bool) : (s.setLatch v).hrstDriven = s.hrstDriven := rfl
@[simp] theorem State.setLatch_hrstSeenHigh (v : Bool) : (s.setLatch v).hrstSeenHigh = s.hrstSeenHigh := rfl
@[simp] theorem State.setLatch_portOpen (v : Bool) : (s.setLatch v).portOpen = s.portOpen := rfl
@[simp] theorem State.setLatch_cfg (v : Bool) : (s.setLatch v).cfg = s.cfg := rfl
@[simp] theorem State.setLatch_configDefaulted (v : Bool) : (s.setLatch v).configDefaulted = s.configDefaulted := rfl
@[simp] theorem State.setLatch_configChanged (v : Bool) : (s.setLatch v).configChanged = s.configChanged := rfl
@[simp] theorem State.setLatch_keys (v : Bool) : (s.setLatch v).keys = s.keys := rfl
@[simp] theorem State.setLatch_locked (v : Bool) : (s.setLatch v).locked = s.locked := rfl
@[simp] theorem State.setLatch_statics (v : Bool) : (s.setLatch v).statics = s.statics := rfl
@[simp] theorem State.setLatch_identity (v : Bool) : (s.setLatch v).identity = s.identity := rfl
@[simp] theorem State.setLatch_tracker (v : Bool) : (s.setLatch v).tracker = s.tracker := rfl
@[simp] theorem State.setLatch_echo (v : Bool) : (s.setLatch v).echo = s.echo := rfl
@[simp] theorem State.setLatch_pendingWD (v : Bool) : (s.setLatch v).pendingWD = s.pendingWD := rfl
@[simp] theorem State.setLatch_guard (v : Bool) : (s.setLatch v).guard = s.guard := rfl
@[simp] theorem State.setLatch_map (v : Bool) : (s.setLatch v).map = s.map := rfl
@[simp] theorem State.setLatch_pool (v : Bool) : (s.setLatch v).pool = s.pool := rfl
@[simp] theorem State.setLatch_health (v : Bool) : (s.setLatch v).health = s.health := rfl
@[simp] theorem State.setLatch_strikes (v : Bool) : (s.setLatch v).strikes = s.strikes := rfl
@[simp] theorem State.setLatch_clean (v : Bool) : (s.setLatch v).clean = s.clean := rfl
@[simp] theorem State.setLatch_code (v : Bool) : (s.setLatch v).code = s.code := rfl
@[simp] theorem State.setLatch_slots (v : Bool) : (s.setLatch v).slots = s.slots := rfl
@[simp] theorem State.setLatch_job (v : Bool) : (s.setLatch v).job = s.job := rfl
@[simp] theorem State.setLatch_aside (v : Bool) : (s.setLatch v).aside = s.aside := rfl
@[simp] theorem State.setLatch_manifestJobs (v : Bool) : (s.setLatch v).manifestJobs = s.manifestJobs := rfl
@[simp] theorem State.setLatch_verifyQueue (v : Bool) : (s.setLatch v).verifyQueue = s.verifyQueue := rfl
@[simp] theorem State.setLatch_patrolSlot (v : Bool) : (s.setLatch v).patrolSlot = s.patrolSlot := rfl
@[simp] theorem State.setLatch_patrolChunk (v : Bool) : (s.setLatch v).patrolChunk = s.patrolChunk := rfl
@[simp] theorem State.setLatch_nextTick (v : Bool) : (s.setLatch v).nextTick = s.nextTick := rfl
@[simp] theorem State.setLatch_scan (v : Bool) : (s.setLatch v).scan = s.scan := rfl
@[simp] theorem State.setLatch_targets (v : Bool) : (s.setLatch v).targets = s.targets := rfl
@[simp] theorem State.setLatch_boot (v : Bool) : (s.setLatch v).boot = s.boot := rfl
@[simp] theorem State.setLatch_store (v : Bool) : (s.setLatch v).store = s.store := rfl
@[simp] theorem State.setLatch_reqPage (v : Bool) : (s.setLatch v).reqPage = s.reqPage := rfl
@[simp] theorem State.setLatch_lastSerial (v : Bool) : (s.setLatch v).lastSerial = s.lastSerial := rfl
@[simp] theorem State.setLatch_lastCode (v : Bool) : (s.setLatch v).lastCode = s.lastCode := rfl
@[simp] theorem State.setLatch_lastOutcome (v : Bool) : (s.setLatch v).lastOutcome = s.lastOutcome := rfl
@[simp] theorem State.setLatch_lastReason (v : Bool) : (s.setLatch v).lastReason = s.lastReason := rfl
@[simp] theorem State.setLatch_lastBusy (v : Bool) : (s.setLatch v).lastBusy = s.lastBusy := rfl
@[simp] theorem State.setLatch_snapshots (v : Bool) : (s.setLatch v).snapshots = s.snapshots := rfl
@[simp] theorem State.setLatch_log (v : Bool) : (s.setLatch v).log = s.log := rfl
@[simp] theorem State.setLatch_overrun (v : Bool) : (s.setLatch v).overrun = s.overrun := rfl
@[simp] theorem State.setLatch_nextLogSeq (v : Bool) : (s.setLatch v).nextLogSeq = s.nextLogSeq := rfl
@[simp] theorem State.setLatch_alertPending (v : Bool) : (s.setLatch v).alertPending = s.alertPending := rfl
@[simp] theorem State.setLatch_flash (v : Bool) : (s.setLatch v).flash = { s.flash with latch := v } := rfl
@[simp] theorem State.setLatch_freeCount (v : Bool) : (s.setLatch v).freeCount = s.freeCount := rfl
@[simp] theorem State.setLatch_hostOut (v : Bool) : (s.setLatch v).hostOut = s.hostOut := rfl
@[simp] theorem State.setLatch_memOut (v : Bool) : (s.setLatch v).memOut = s.memOut := rfl
@[simp] theorem State.setLatch_pending (v : Bool) : (s.setLatch v).pending = s.pending := rfl

/-! ### `drift` -/

@[simp] theorem State.drift_phase (d : Drift) : (s.drift d).phase = s.phase := rfl
@[simp] theorem State.drift_clock (d : Drift) : (s.drift d).clock = s.clock := rfl
@[simp] theorem State.drift_hrstDriven (d : Drift) : (s.drift d).hrstDriven = s.hrstDriven := rfl
@[simp] theorem State.drift_hrstSeenHigh (d : Drift) : (s.drift d).hrstSeenHigh = s.hrstSeenHigh := rfl
@[simp] theorem State.drift_portOpen (d : Drift) : (s.drift d).portOpen = s.portOpen := rfl
@[simp] theorem State.drift_cfg (d : Drift) : (s.drift d).cfg = s.cfg := rfl
@[simp] theorem State.drift_configDefaulted (d : Drift) : (s.drift d).configDefaulted = s.configDefaulted := rfl
@[simp] theorem State.drift_configChanged (d : Drift) : (s.drift d).configChanged = s.configChanged := rfl
@[simp] theorem State.drift_keys (d : Drift) : (s.drift d).keys = s.keys := rfl
@[simp] theorem State.drift_locked (d : Drift) : (s.drift d).locked = s.locked := rfl
@[simp] theorem State.drift_statics (d : Drift) : (s.drift d).statics = s.statics := rfl
@[simp] theorem State.drift_identity (d : Drift) : (s.drift d).identity = s.identity := rfl
@[simp] theorem State.drift_tracker (d : Drift) : (s.drift d).tracker = s.tracker := rfl
@[simp] theorem State.drift_echo (d : Drift) : (s.drift d).echo = s.echo := rfl
@[simp] theorem State.drift_pendingWD (d : Drift) : (s.drift d).pendingWD = s.pendingWD := rfl
@[simp] theorem State.drift_guard (d : Drift) : (s.drift d).guard = s.guard := rfl
@[simp] theorem State.drift_map (d : Drift) : (s.drift d).map = s.map := rfl
@[simp] theorem State.drift_pool (d : Drift) : (s.drift d).pool = s.pool := rfl
@[simp] theorem State.drift_health (d : Drift) : (s.drift d).health = s.health := rfl
@[simp] theorem State.drift_strikes (d : Drift) : (s.drift d).strikes = s.strikes := rfl
@[simp] theorem State.drift_clean (d : Drift) : (s.drift d).clean = s.clean := rfl
@[simp] theorem State.drift_code (d : Drift) : (s.drift d).code = s.code := rfl
@[simp] theorem State.drift_slots (d : Drift) : (s.drift d).slots = s.slots := rfl
@[simp] theorem State.drift_job (d : Drift) : (s.drift d).job = s.job := rfl
@[simp] theorem State.drift_aside (d : Drift) : (s.drift d).aside = s.aside := rfl
@[simp] theorem State.drift_manifestJobs (d : Drift) : (s.drift d).manifestJobs = s.manifestJobs := rfl
@[simp] theorem State.drift_verifyQueue (d : Drift) : (s.drift d).verifyQueue = s.verifyQueue := rfl
@[simp] theorem State.drift_patrolSlot (d : Drift) : (s.drift d).patrolSlot = s.patrolSlot := rfl
@[simp] theorem State.drift_patrolChunk (d : Drift) : (s.drift d).patrolChunk = s.patrolChunk := rfl
@[simp] theorem State.drift_nextTick (d : Drift) : (s.drift d).nextTick = s.nextTick := rfl
@[simp] theorem State.drift_scan (d : Drift) : (s.drift d).scan = s.scan := rfl
@[simp] theorem State.drift_targets (d : Drift) : (s.drift d).targets = s.targets := rfl
@[simp] theorem State.drift_boot (d : Drift) : (s.drift d).boot = s.boot := rfl
@[simp] theorem State.drift_store (d : Drift) : (s.drift d).store = s.store := rfl
@[simp] theorem State.drift_reqPage (d : Drift) : (s.drift d).reqPage = s.reqPage := rfl
@[simp] theorem State.drift_lastSerial (d : Drift) : (s.drift d).lastSerial = s.lastSerial := rfl
@[simp] theorem State.drift_lastCode (d : Drift) : (s.drift d).lastCode = s.lastCode := rfl
@[simp] theorem State.drift_lastOutcome (d : Drift) : (s.drift d).lastOutcome = s.lastOutcome := rfl
@[simp] theorem State.drift_lastReason (d : Drift) : (s.drift d).lastReason = s.lastReason := rfl
@[simp] theorem State.drift_lastBusy (d : Drift) : (s.drift d).lastBusy = s.lastBusy := rfl
@[simp] theorem State.drift_snapshots (d : Drift) : (s.drift d).snapshots = s.snapshots := rfl
@[simp] theorem State.drift_log (d : Drift) : (s.drift d).log = s.log := rfl
@[simp] theorem State.drift_overrun (d : Drift) : (s.drift d).overrun = s.overrun := rfl
@[simp] theorem State.drift_nextLogSeq (d : Drift) : (s.drift d).nextLogSeq = s.nextLogSeq := rfl
@[simp] theorem State.drift_alertPending (d : Drift) : (s.drift d).alertPending = s.alertPending := rfl
@[simp] theorem State.drift_flash (d : Drift) : (s.drift d).flash = s.flash.drift d := rfl
@[simp] theorem State.drift_freeCount (d : Drift) : (s.drift d).freeCount = s.freeCount := rfl
@[simp] theorem State.drift_hostOut (d : Drift) : (s.drift d).hostOut = s.hostOut := rfl
@[simp] theorem State.drift_memOut (d : Drift) : (s.drift d).memOut = s.memOut := rfl
@[simp] theorem State.drift_pending (d : Drift) : (s.drift d).pending = s.pending := rfl

/-! ### `pushGuard` -/

@[simp] theorem State.pushGuard_phase (t : Nat) : (s.pushGuard t).phase = s.phase := rfl
@[simp] theorem State.pushGuard_clock (t : Nat) : (s.pushGuard t).clock = s.clock := rfl
@[simp] theorem State.pushGuard_hrstDriven (t : Nat) : (s.pushGuard t).hrstDriven = s.hrstDriven := rfl
@[simp] theorem State.pushGuard_hrstSeenHigh (t : Nat) : (s.pushGuard t).hrstSeenHigh = s.hrstSeenHigh := rfl
@[simp] theorem State.pushGuard_portOpen (t : Nat) : (s.pushGuard t).portOpen = s.portOpen := rfl
@[simp] theorem State.pushGuard_cfg (t : Nat) : (s.pushGuard t).cfg = s.cfg := rfl
@[simp] theorem State.pushGuard_configDefaulted (t : Nat) : (s.pushGuard t).configDefaulted = s.configDefaulted := rfl
@[simp] theorem State.pushGuard_configChanged (t : Nat) : (s.pushGuard t).configChanged = s.configChanged := rfl
@[simp] theorem State.pushGuard_keys (t : Nat) : (s.pushGuard t).keys = s.keys := rfl
@[simp] theorem State.pushGuard_locked (t : Nat) : (s.pushGuard t).locked = s.locked := rfl
@[simp] theorem State.pushGuard_statics (t : Nat) : (s.pushGuard t).statics = s.statics := rfl
@[simp] theorem State.pushGuard_identity (t : Nat) : (s.pushGuard t).identity = s.identity := rfl
@[simp] theorem State.pushGuard_tracker (t : Nat) : (s.pushGuard t).tracker = s.tracker := rfl
@[simp] theorem State.pushGuard_echo (t : Nat) : (s.pushGuard t).echo = s.echo := rfl
@[simp] theorem State.pushGuard_pendingWD (t : Nat) : (s.pushGuard t).pendingWD = s.pendingWD := rfl
@[simp] theorem State.pushGuard_guard (t : Nat) : (s.pushGuard t).guard = (if s.guard.length < s.cfg.settings.egMax then s.guard else s.guard.drop 1) ++ [t] := rfl
@[simp] theorem State.pushGuard_map (t : Nat) : (s.pushGuard t).map = s.map := rfl
@[simp] theorem State.pushGuard_pool (t : Nat) : (s.pushGuard t).pool = s.pool := rfl
@[simp] theorem State.pushGuard_health (t : Nat) : (s.pushGuard t).health = s.health := rfl
@[simp] theorem State.pushGuard_strikes (t : Nat) : (s.pushGuard t).strikes = s.strikes := rfl
@[simp] theorem State.pushGuard_clean (t : Nat) : (s.pushGuard t).clean = s.clean := rfl
@[simp] theorem State.pushGuard_code (t : Nat) : (s.pushGuard t).code = s.code := rfl
@[simp] theorem State.pushGuard_slots (t : Nat) : (s.pushGuard t).slots = s.slots := rfl
@[simp] theorem State.pushGuard_job (t : Nat) : (s.pushGuard t).job = s.job := rfl
@[simp] theorem State.pushGuard_aside (t : Nat) : (s.pushGuard t).aside = s.aside := rfl
@[simp] theorem State.pushGuard_manifestJobs (t : Nat) : (s.pushGuard t).manifestJobs = s.manifestJobs := rfl
@[simp] theorem State.pushGuard_verifyQueue (t : Nat) : (s.pushGuard t).verifyQueue = s.verifyQueue := rfl
@[simp] theorem State.pushGuard_patrolSlot (t : Nat) : (s.pushGuard t).patrolSlot = s.patrolSlot := rfl
@[simp] theorem State.pushGuard_patrolChunk (t : Nat) : (s.pushGuard t).patrolChunk = s.patrolChunk := rfl
@[simp] theorem State.pushGuard_nextTick (t : Nat) : (s.pushGuard t).nextTick = s.nextTick := rfl
@[simp] theorem State.pushGuard_scan (t : Nat) : (s.pushGuard t).scan = s.scan := rfl
@[simp] theorem State.pushGuard_targets (t : Nat) : (s.pushGuard t).targets = s.targets := rfl
@[simp] theorem State.pushGuard_boot (t : Nat) : (s.pushGuard t).boot = s.boot := rfl
@[simp] theorem State.pushGuard_store (t : Nat) : (s.pushGuard t).store = s.store := rfl
@[simp] theorem State.pushGuard_reqPage (t : Nat) : (s.pushGuard t).reqPage = s.reqPage := rfl
@[simp] theorem State.pushGuard_lastSerial (t : Nat) : (s.pushGuard t).lastSerial = s.lastSerial := rfl
@[simp] theorem State.pushGuard_lastCode (t : Nat) : (s.pushGuard t).lastCode = s.lastCode := rfl
@[simp] theorem State.pushGuard_lastOutcome (t : Nat) : (s.pushGuard t).lastOutcome = s.lastOutcome := rfl
@[simp] theorem State.pushGuard_lastReason (t : Nat) : (s.pushGuard t).lastReason = s.lastReason := rfl
@[simp] theorem State.pushGuard_lastBusy (t : Nat) : (s.pushGuard t).lastBusy = s.lastBusy := rfl
@[simp] theorem State.pushGuard_snapshots (t : Nat) : (s.pushGuard t).snapshots = s.snapshots := rfl
@[simp] theorem State.pushGuard_log (t : Nat) : (s.pushGuard t).log = s.log := rfl
@[simp] theorem State.pushGuard_overrun (t : Nat) : (s.pushGuard t).overrun = s.overrun := rfl
@[simp] theorem State.pushGuard_nextLogSeq (t : Nat) : (s.pushGuard t).nextLogSeq = s.nextLogSeq := rfl
@[simp] theorem State.pushGuard_alertPending (t : Nat) : (s.pushGuard t).alertPending = s.alertPending := rfl
@[simp] theorem State.pushGuard_flash (t : Nat) : (s.pushGuard t).flash = s.flash := rfl
@[simp] theorem State.pushGuard_freeCount (t : Nat) : (s.pushGuard t).freeCount = s.freeCount := rfl
@[simp] theorem State.pushGuard_hostOut (t : Nat) : (s.pushGuard t).hostOut = s.hostOut := rfl
@[simp] theorem State.pushGuard_memOut (t : Nat) : (s.pushGuard t).memOut = s.memOut := rfl
@[simp] theorem State.pushGuard_pending (t : Nat) : (s.pushGuard t).pending = s.pending := rfl

/-! ### The alert line and the end of start-up -/

@[simp] theorem State.alertDriven_eq : s.alertDriven = s.alertPending := rfl

/-- The end of start-up changes nothing of the store but the hold of its compaction. -/
theorem Store.startEnded_eq (st : Store) : st.startEnded = { st with startHold := st.startEnded.startHold } := by
  unfold Store.startEnded
  split <;> rfl

end Sys2Proof.Machine
end

