-- ==== Sys2Proof/Laws/Tables.lean ====
section
/-! SUPPORT. The laws of the sparse tables and of the flash's contents: a read after a write, and that every operation on
the flash keeps the canonical form. -/

namespace Sys2Proof.Machine

open Sys2Proof

variable {α : Type}

/-! ### Reads after writes -/

theorem lookupAt_putAt_some (k : Nat) (x : α) (t : List (Nat × α)) : lookupAt k (putAt k (some x) t) = some x := by
  induction t with
  | nil => simp [putAt, lookupAt]
  | cons c t ih =>
    obtain ⟨j, y⟩ := c
    simp only [putAt]
    split
    · simp [lookupAt]
    · split
      · simp [lookupAt]
      · next h => simp [lookupAt, h, ih]

theorem lookupAt_putAt_ne {k k' : Nat} (h : k' ≠ k) (v : Option α) (t : List (Nat × α)) :
    lookupAt k' (putAt k v t) = lookupAt k' t := by
  induction t with
  | nil => cases v <;> simp [putAt, lookupAt, h]
  | cons c t ih =>
    obtain ⟨j, y⟩ := c
    simp only [putAt]
    split
    · cases v <;> simp [lookupAt, h]
    · split
      · next hj => subst hj; cases v <;> simp [lookupAt, h]
      · simp [lookupAt, ih]

/-! ### The canonical form -/

/-- Every key of a table is above a bound. -/
def keysAbove (b : Nat) (t : List (Nat × α)) : Prop := ∀ c ∈ t, b < c.1

theorem keysAbove_putAt {b k : Nat} (hb : b < k) (v : Option α) {t : List (Nat × α)} (h : keysAbove b t) :
    keysAbove b (putAt k v t) := by
  induction t with
  | nil => cases v <;> simp [putAt, keysAbove, hb]
  | cons c t ih =>
    obtain ⟨j, y⟩ := c
    have ht : keysAbove b t := fun c hc => h c (List.mem_cons_of_mem _ hc)
    have hj : b < j := h (j, y) (List.mem_cons_self ..)
    simp only [putAt]
    split
    · cases v with
      | none => exact h
      | some x => intro c hc; rcases List.mem_cons.1 hc with rfl | hc; exacts [hb, h c hc]
    · split
      · cases v with
        | none => exact ht
        | some x => intro c hc; rcases List.mem_cons.1 hc with rfl | hc; exacts [hb, ht c hc]
      · intro c hc; rcases List.mem_cons.1 hc with rfl | hc; exacts [hj, ih ht c hc]

theorem keysAbove_filter {b : Nat} (p : Nat × α → Bool) {t : List (Nat × α)} (h : keysAbove b t) :
    keysAbove b (t.filter p) := fun c hc => h c (List.mem_of_mem_filter hc)

theorem lookupAt_keysAbove {b : Nat} {t : List (Nat × α)} (h : keysAbove b t) {k : Nat} (hk : k ≤ b) :
    lookupAt k t = none := by
  induction t with
  | nil => rfl
  | cons c t ih =>
    obtain ⟨j, y⟩ := c
    have hj : b < j := h (j, y) (List.mem_cons_self ..)
    have : k ≠ j := by omega
    simp [lookupAt, this, ih fun c hc => h c (List.mem_cons_of_mem _ hc)]

variable [DecidableEq α] {d : Nat → α}

theorem tableWf_cons {k : Nat} {v : α} {t : List (Nat × α)} :
    tableWf d ((k, v) :: t) = true ↔ v ≠ d k ∧ keysAbove k t ∧ tableWf d t = true := by
  induction t generalizing k v with
  | nil => simp [tableWf, keysAbove]
  | cons c t ih =>
    obtain ⟨j, w⟩ := c
    rw [tableWf, Bool.and_eq_true, Bool.and_eq_true, decide_eq_true_iff, decide_eq_true_iff]
    constructor
    · rintro ⟨⟨h1, h2⟩, h3⟩
      refine ⟨h1, ?_, h3⟩
      intro c hc
      rcases List.mem_cons.1 hc with rfl | hc
      · exact h2
      · exact Nat.lt_trans h2 ((ih.1 h3).2.1 c hc)
    · rintro ⟨h1, h2, h3⟩
      exact ⟨⟨h1, h2 _ (List.mem_cons_self ..)⟩, h3⟩

/-- A write keeps the canonical form, if it does not write the value that an unlisted key reads as. -/
theorem tableWf_putAt {k : Nat} {v : Option α} (hv : v ≠ some (d k)) {t : List (Nat × α)} (h : tableWf d t = true) :
    tableWf d (putAt k v t) = true := by
  induction t with
  | nil =>
    cases v with
    | none => rfl
    | some x => simpa [putAt, tableWf] using hv
  | cons c t ih =>
    obtain ⟨j, y⟩ := c
    obtain ⟨h1, h2, h3⟩ := tableWf_cons.1 h
    simp only [putAt]
    split
    · next hkj =>
      cases v with
      | none => exact h
      | some x =>
        refine tableWf_cons.2 ⟨by simpa using hv, ?_, h⟩
        intro c hc; rcases List.mem_cons.1 hc with rfl | hc
        exacts [hkj, Nat.lt_trans hkj (h2 c hc)]
    · next hkj =>
      split
      · next e =>
        subst e
        cases v with
        | none => exact h3
        | some x => exact tableWf_cons.2 ⟨by simpa using hv, h2, h3⟩
      · next e => exact tableWf_cons.2 ⟨h1, keysAbove_putAt (by omega) v h2, ih h3⟩

theorem tableWf_filter (p : Nat × α → Bool) {t : List (Nat × α)} (h : tableWf d t = true) :
    tableWf d (t.filter p) = true := by
  induction t with
  | nil => rfl
  | cons c t ih =>
    obtain ⟨j, y⟩ := c
    obtain ⟨h1, h2, h3⟩ := tableWf_cons.1 h
    rw [List.filter_cons]
    split
    · exact tableWf_cons.2 ⟨h1, keysAbove_filter p h2, ih h3⟩
    · exact ih h3

/-- In canonical form, a removed key is unlisted. -/
theorem lookupAt_putAt_none (k : Nat) {t : List (Nat × α)} (h : tableWf d t = true) :
    lookupAt k (putAt k none t) = none := by
  induction t with
  | nil => rfl
  | cons c t ih =>
    obtain ⟨j, y⟩ := c
    obtain ⟨_, h2, h3⟩ := tableWf_cons.1 h
    simp only [putAt]
    split
    · next hkj =>
      have : k ≠ j := by omega
      simp only [lookupAt, this, if_false]
      exact lookupAt_keysAbove h2 (by omega)
    · split
      · next e => subst e; exact lookupAt_keysAbove h2 (Nat.le_refl _)
      · next e => simp [lookupAt, e, ih h3]

/-! ### The flash's contents -/

/-- A read of the address just written gives the byte written. -/
theorem cellAt_writeCell_same {cells : List (Nat × Byte)} (h : tableWf (fun _ => 0xFF#8) cells = true) (a : Nat)
    (b : Byte) : cellAt (writeCell a b cells) a = b := by
  unfold cellAt writeCell
  split
  · next e => rw [lookupAt_putAt_none a h]; simp [e]
  · rw [lookupAt_putAt_some]; rfl

/-- A write leaves every other address alone. -/
theorem cellAt_writeCell_ne {a a' : Nat} (h : a' ≠ a) (b : Byte) (cells : List (Nat × Byte)) :
    cellAt (writeCell a b cells) a' = cellAt cells a' := by
  unfold cellAt writeCell
  rw [lookupAt_putAt_ne h]

theorem writeCell_wf {cells : List (Nat × Byte)} (h : tableWf (fun _ => 0xFF#8) cells = true) (a : Nat) (b : Byte) :
    tableWf (fun _ => 0xFF#8) (writeCell a b cells) = true := by
  unfold writeCell
  refine tableWf_putAt ?_ h
  split <;> simp_all

theorem foldl_writeCell_wf {β : Type} (f : List (Nat × Byte) → β → Nat × Byte) (l : List β)
    {cells : List (Nat × Byte)} (h : tableWf (fun _ => 0xFF#8) cells = true) :
    tableWf (fun _ => 0xFF#8) (l.foldl (fun m c => writeCell (f m c).1 (f m c).2 m) cells) = true := by
  induction l generalizing cells with
  | nil => exact h
  | cons x l ih => exact ih (writeCell_wf h _ _)

theorem Flash.drift_wf {f : Flash} (h : f.wf = true) (dr : Drift) : (f.drift dr).wf = true :=
  foldl_writeCell_wf (fun _ c => c) dr h

theorem programCells_wf {cells : List (Nat × Byte)} (h : tableWf (fun _ => 0xFF#8) cells = true)
    (bytes : List (Nat × Byte)) : tableWf (fun _ => 0xFF#8) (programCells bytes cells) = true :=
  foldl_writeCell_wf (fun (m : List (Nat × Byte)) (c : Nat × Byte) => (c.1, cellAt m c.1 &&& c.2)) bytes h

theorem eraseCells_wf {cells : List (Nat × Byte)} (h : tableWf (fun _ => 0xFF#8) cells = true) (start len : Nat) :
    tableWf (fun _ => 0xFF#8) (eraseCells start len cells) = true :=
  tableWf_filter _ h

theorem FlashOp.done_wf {cells : List (Nat × Byte)} (h : tableWf (fun _ => 0xFF#8) cells = true) (op : FlashOp) :
    tableWf (fun _ => 0xFF#8) (op.done cells) = true := by
  cases op with
  | program bytes => exact programCells_wf h _
  | erase start len => exact eraseCells_wf h _ _

theorem FlashOp.spoilt_wf {cells : List (Nat × Byte)} (h : tableWf (fun _ => 0xFF#8) cells = true) (op : FlashOp)
    (n : Nat) : tableWf (fun _ => 0xFF#8) (op.spoilt n cells) = true := by
  cases op with
  | program bytes => exact programCells_wf h _
  | erase start len => exact foldl_writeCell_wf (fun _ a => (a, Config.freeByte n a)) _ h

theorem Flash.finish_wf {f : Flash} (h : f.wf = true) (op : FlashOp) (failed : Bool) (n : Nat) :
    (f.finish op failed n).wf = true := by
  cases failed
  · exact op.done_wf h
  · exact op.spoilt_wf h n

/-- R1: a byte after a program, whatever its data, has 1 bits only where it had them before. -/
theorem cellAt_programCells_and {cells : List (Nat × Byte)} (h : tableWf (fun _ => 0xFF#8) cells = true)
    (bytes : List (Nat × Byte)) (a : Nat) :
    cellAt (programCells bytes cells) a &&& cellAt cells a = cellAt (programCells bytes cells) a := by
  unfold programCells
  induction bytes generalizing cells with
  | nil => simp
  | cons c t ih =>
    rw [List.foldl_cons]
    have h1 := ih (writeCell_wf h c.1 (cellAt cells c.1 &&& c.2))
    by_cases e : a = c.1
    · subst e
      rw [cellAt_writeCell_same h] at h1
      rw [← h1]
      ext i
      simp
      tauto
    · rwa [cellAt_writeCell_ne e] at h1

theorem Flash.startOp_cells (f : Flash) (op : FlashOp) : (f.startOp op).cells = f.cells := by
  unfold Flash.startOp; split
  · rfl
  · split <;> rfl

theorem Flash.startOp_wf {f : Flash} (h : f.wf = true) (op : FlashOp) : (f.startOp op).wf = true := by
  unfold Flash.wf; rw [Flash.startOp_cells]; exact h

theorem reset_flash_wf : State.reset.flash.wf = true := rfl

/-- A byte of an erased range reads FFh, and a byte outside it reads as it did. -/
theorem cellAt_eraseCells (start len a : Nat) (cells : List (Nat × Byte)) :
    cellAt (eraseCells start len cells) a =
      if start ≤ a ∧ a < start + len then 0xFF#8 else cellAt cells a := by
  unfold cellAt eraseCells
  induction cells with
  | nil => simp [lookupAt]
  | cons c t ih =>
    obtain ⟨j, y⟩ := c
    rw [List.filter_cons]
    by_cases hj : a = j
    · subst hj
      by_cases hr : start ≤ a ∧ a < start + len
      · have : (decide (a < start) || decide (start + len ≤ a)) = false := by
          simp; omega
        simp only [this, hr, and_self, if_true]
        simpa [hr] using ih
      · have : (decide (a < start) || decide (start + len ≤ a)) = true := by
          simp only [Bool.or_eq_true, decide_eq_true_eq]; omega
        simp [this, hr, lookupAt]
    · split
      · simpa [lookupAt, hj] using ih
      · simpa [lookupAt, hj] using ih

end Sys2Proof.Machine
end

