-- ==== Sys2Proof/Laws/Ops.lean ====
section
/-! SUPPORT. What each shared operation can do, said once. -/

namespace Sys2Proof.Machine

open Sys2Proof

/-! ### Offers (R145) -/

/-- An offer is the last of the offers, whether it joins the queue or waits. -/
theorem State.offer_offers (s : State) (o : Owner) (p : Payload) :
    (s.offer o p).store.offers = s.store.offers ++ [{ payload := p, owner := o }] := by
  unfold State.offer Store.offers
  dsimp only
  split
  · next h => simp [h.2]
  · simp

theorem State.offer_owes (s : State) (o w : Owner) (p : Payload) :
    (s.offer o p).store.owes w = (s.store.owes w || o == w) := by
  simp [Store.owes, State.offer_offers]

/-- An offer changes the two lists of offers and nothing else. -/
theorem State.offer_eq (s : State) (o : Owner) (p : Payload) :
    s.offer o p = { s with store := { s.store with
      queue := (s.offer o p).store.queue, waiting := (s.offer o p).store.waiting } } := by
  unfold State.offer
  split <;> rfl

/-- An offer keeps the append queue within its capacity, and offers wait only behind a full one. -/
theorem State.offer_capacity (s : State) (o : Owner) (p : Payload) (hq : s.store.queue.length ≤ 16)
    (hw : s.store.waiting = [] ∨ s.store.queue.length = 16) :
    (s.offer o p).store.queue.length ≤ 16 ∧
      ((s.offer o p).store.waiting = [] ∨ (s.offer o p).store.queue.length = 16) := by
  unfold State.offer
  dsimp only
  split
  · next h =>
    have := h.1
    simp only [appendCapacity] at this
    exact ⟨by simp; omega, .inl h.2⟩
  · next h =>
    refine ⟨hq, .inr ?_⟩
    rcases hw with hw | hw
    · have : ¬ s.store.queue.length < 16 := fun hl => h ⟨hl, hw⟩
      show s.store.queue.length = 16
      omega
    · exact hw

/-! ### Checks of records and rows (R89, R90) -/

/-- A record with the check word the store gives it passes its check. -/
@[simp] theorem Record.passes_written (n : Word) (p : Payload) :
    ({ seq := n, payload := p } : Record).passes = true := by simp [Record.passes]

@[simp] theorem RecCell.readable_blank : RecCell.blank.readable = none := rfl
@[simp] theorem RecCell.readable_torn : RecCell.torn.readable = none := rfl
@[simp] theorem RecCell.readable_written (n : Word) (p : Payload) :
    (RecCell.record { seq := n, payload := p }).readable = some { seq := n, payload := p } := by
  simp [RecCell.readable]

@[simp] theorem Row.content?_blank {α : Type} : (Row.blank : Row α).content? = none := rfl
@[simp] theorem Row.content?_garbled {α : Type} : (Row.garbled : Row α).content? = none := rfl
@[simp] theorem Row.content?_stored {α : Type} (c : α) : (Row.stored c).content? = some c := by simp [Row.content?]
@[simp] theorem Row.isGarbled_blank {α : Type} : (Row.blank : Row α).isGarbled = false := rfl
@[simp] theorem Row.isGarbled_garbled {α : Type} : (Row.garbled : Row α).isGarbled = true := rfl
@[simp] theorem Row.isGarbled_stored {α : Type} (c : α) : (Row.stored c).isGarbled = false := by simp [Row.isGarbled]

/-- A row is blank, fails its check, or holds its content. -/
theorem Row.cases_content {α : Type} (r : Row α) :
    (r = .blank ∧ r.content? = none ∧ r.isGarbled = false) ∨ (r.content? = none ∧ r.isGarbled = true) ∨
      (∃ c, r = .stored c ∧ r.content? = some c ∧ r.isGarbled = false) := by
  cases r with
  | blank => exact .inl ⟨rfl, rfl, rfl⟩
  | garbled => exact .inr (.inl ⟨rfl, rfl⟩)
  | stored c k =>
    by_cases h : k = rowCheck c
    · subst h; exact .inr (.inr ⟨c, rfl, by simp, by simp⟩)
    · exact .inr (.inl ⟨by simp [Row.content?, h], by simp [Row.isGarbled, h]⟩)

/-! ### The verdict log (R174) -/

theorem State.appendLog_length (s : State) (e : LogEntry) (h : s.log.length ≤ 64) :
    (s.appendLog e).log.length ≤ 64 := by
  rw [State.appendLog_log, List.length_append, List.length_singleton]
  by_cases h' : s.log.length < logCapacity
  · rw [if_pos h']; simp only [logCapacity] at h'; omega
  · rw [if_neg h', List.length_drop]; omega

theorem State.appendLog_getLast (s : State) (e : LogEntry) :
    (s.appendLog e).log.getLast? = some { e with seq := s.nextLogSeq } := by
  simp

/-! ### Slots, chunks and targets -/

theorem getD_modify {α : Type} (l : List α) (f : α → α) (i j : Nat) (d : α) :
    (l.modify i f).getD j d = if i = j ∧ j < l.length then f (l.getD j d) else l.getD j d := by
  simp only [List.getD_eq_getElem?_getD, List.getElem?_modify]
  by_cases h : j < l.length
  · rw [List.getElem?_eq_getElem h]
    by_cases e : i = j <;> simp [e, h]
  · rw [List.getElem?_eq_none (by omega)]
    simp [h]

theorem State.slotAt_updSlot (s : State) (i j : Nat) (f : SlotRec → SlotRec) :
    (s.updSlot i f).slotAt j = if i = j ∧ j < s.slots.length then f (s.slotAt j) else s.slotAt j :=
  getD_modify ..

theorem State.slotAt_updSlot_ne (s : State) {i j : Nat} (h : i ≠ j) (f : SlotRec → SlotRec) :
    (s.updSlot i f).slotAt j = s.slotAt j := by
  simp [State.slotAt_updSlot, h]

theorem State.slots_length_updSlot (s : State) (i : Nat) (f : SlotRec → SlotRec) :
    (s.updSlot i f).slots.length = s.slots.length := by
  simp [State.updSlot]

theorem State.dynAt_updDyn (s : State) (t u : Nat) (f : TargetDyn → TargetDyn) :
    (s.updDyn t f).dynAt u = if t = u ∧ u < s.targets.length then f (s.dynAt u) else s.dynAt u :=
  getD_modify ..

theorem State.dynAt_updDyn_ne (s : State) {t u : Nat} (h : t ≠ u) (f : TargetDyn → TargetDyn) :
    (s.updDyn t f).dynAt u = s.dynAt u := by
  simp [State.dynAt_updDyn, h]

theorem SlotRec.chunkAt_updChunk (r : SlotRec) (c d : Nat) (f : Chunk → Chunk) :
    (r.updChunk c f).chunkAt d = if c = d then (r.chunkAt d).map f else r.chunkAt d := by
  unfold SlotRec.updChunk SlotRec.chunkAt
  by_cases hc : c = 0
  · subst hc
    by_cases hd : d = 0
    · simp [hd]
    · have hd' : ¬ 0 = d := fun h => hd h.symm
      simp [hd, hd']
  · by_cases hd : d = 0
    · have : c ≠ 0 := hc
      simp [hd, hc]
    · simp only [hc, hd, if_false, List.getElem?_modify]
      by_cases e : c = d
      · simp [e]
      · have : c - 1 ≠ d - 1 := by omega
        simp [this, e]

/-! ### Sparse tables behind the map, the health table and the strikes -/

theorem mapLookup_mapStore_same {map : List (Nat × Nat)} (h : tableWf (fun l => l) map = true) (l p : Nat) :
    mapLookup (mapStore l p map) l = p := by
  unfold mapLookup mapStore
  split
  · next e => rw [lookupAt_putAt_none l h]; exact e.symm
  · rw [lookupAt_putAt_some]; rfl

theorem mapLookup_mapStore_ne (map : List (Nat × Nat)) {l l' : Nat} (h : l' ≠ l) (p : Nat) :
    mapLookup (mapStore l p map) l' = mapLookup map l' := by
  unfold mapLookup mapStore
  rw [lookupAt_putAt_ne h]

theorem mapStore_wf {map : List (Nat × Nat)} (h : tableWf (fun l => l) map = true) (l p : Nat) :
    tableWf (fun l => l) (mapStore l p map) = true := by
  unfold mapStore
  refine tableWf_putAt ?_ h
  split <;> simp_all

theorem healthLookup_healthStore_same {t : List (Nat × Health)} (h : tableWf (fun _ => Health.blank) t = true) (p : Nat)
    (x : Health) : healthLookup (healthStore p x t) p = x := by
  unfold healthLookup healthStore
  split
  · next e => rw [lookupAt_putAt_none p h]; exact e.symm
  · rw [lookupAt_putAt_some]; rfl

theorem healthLookup_healthStore_ne (t : List (Nat × Health)) {p q : Nat} (h : q ≠ p) (x : Health) :
    healthLookup (healthStore p x t) q = healthLookup t q := by
  unfold healthLookup healthStore
  rw [lookupAt_putAt_ne h]

theorem healthStore_wf {t : List (Nat × Health)} (h : tableWf (fun _ => Health.blank) t = true) (p : Nat)
    (x : Health) : tableWf (fun _ => Health.blank) (healthStore p x t) = true := by
  unfold healthStore
  refine tableWf_putAt ?_ h
  split <;> simp_all

theorem State.strikesOf_setStrikes (s : State) (h : tableWf (fun _ => 0) s.strikes = true) (p n : Nat) :
    (s.setStrikes p n).strikesOf p = n := by
  unfold State.strikesOf State.setStrikes
  dsimp only
  split
  · next e => rw [lookupAt_putAt_none p h]; exact e.symm
  · rw [lookupAt_putAt_some]; rfl

theorem State.strikesOf_setStrikes_ne (s : State) {p q : Nat} (h : q ≠ p) (n : Nat) :
    (s.setStrikes p n).strikesOf q = s.strikesOf q := by
  unfold State.strikesOf State.setStrikes
  dsimp only
  rw [lookupAt_putAt_ne h]

theorem setStrikes_wf (s : State) (h : tableWf (fun _ => 0) s.strikes = true) (p n : Nat) :
    tableWf (fun _ => 0) (s.setStrikes p n).strikes = true := by
  unfold State.setStrikes
  refine tableWf_putAt ?_ h
  split <;> simp_all

/-! ### Clean flags and the pool -/

theorem mem_insertNat (n m : Nat) (l : List Nat) : m ∈ insertNat n l ↔ m = n ∨ m ∈ l := by
  induction l with
  | nil => simp [insertNat]
  | cons x t ih =>
    unfold insertNat
    split
    · simp
    · split
      · next e => subst e; simp
      · simp only [List.mem_cons, ih]; tauto

theorem State.isClean_setClean (s : State) (l k : Nat) :
    (s.setClean l).isClean k = (decide (k = l) || s.isClean k) := by
  rw [Bool.eq_iff_iff]
  simp [State.isClean, State.setClean, mem_insertNat]

theorem State.isClean_clearClean (s : State) (l k : Nat) :
    (s.clearClean l).isClean k = (s.isClean k && decide (k ≠ l)) := by
  rw [Bool.eq_iff_iff]
  simp [State.isClean, State.clearClean]

theorem mem_poolInsert (t : List (Nat × Health)) (p q : Nat) (l : List Nat) :
    q ∈ poolInsert t p l ↔ q = p ∨ q ∈ l := by
  induction l with
  | nil => simp [poolInsert]
  | cons x l ih =>
    unfold poolInsert
    split
    · simp
    · simp only [List.mem_cons, ih]; tauto

theorem poolInsert_nodup (t : List (Nat × Health)) (p : Nat) {l : List Nat} (h : l.Nodup) (hp : p ∉ l) :
    (poolInsert t p l).Nodup := by
  induction l with
  | nil => simp [poolInsert]
  | cons x l ih =>
    simp only [List.mem_cons, not_or] at hp
    simp only [List.nodup_cons] at h
    unfold poolInsert
    split
    · simp [hp.1, hp.2, h.1, h.2]
    · simp only [List.nodup_cons, mem_poolInsert, not_or]
      exact ⟨⟨fun e => hp.1 e.symm, h.1⟩, ih h.2 hp.2⟩

/-! ### The sweep and the engine (R104, R106) -/

/-- The sweep changes the queued marks of chunks and the verify queue, and nothing else. -/
theorem State.sweep_eq (s : State) :
    s.sweep = { s with slots := s.sweep.slots, verifyQueue := s.sweep.verifyQueue } := by
  unfold State.sweep
  generalize s.eligibleChunks.take (queueCapacity - s.verifyQueue.length) = l
  induction l generalizing s with
  | nil => rfl
  | cons p l ih =>
    rw [List.foldl_cons, ih]
    rfl

/-- An engine that takes a job changes its own fields and, by the sweep, the queued marks. -/
theorem State.startJob_eq (s : State) :
    s.startJob = { s with
      slots := s.startJob.slots, verifyQueue := s.startJob.verifyQueue, job := s.startJob.job,
      aside := s.startJob.aside } := by
  unfold State.startJob
  split
  · rfl
  · split
    · rfl
    · split
      · rfl
      · split
        · rfl
        · split
          · rw [State.sweep_eq]
          · rfl

theorem State.resettle_eq (s : State) :
    s.resettle = { s with
      slots := s.resettle.slots, verifyQueue := s.resettle.verifyQueue, job := s.resettle.job,
      aside := s.resettle.aside } := by
  unfold State.resettle
  rw [State.startJob_eq, State.sweep_eq]

/-- A busy engine and nothing to sweep: nothing changes. -/
theorem State.resettle_busy (s : State) (hj : s.job.isSome = true) (he : s.eligibleChunks = []) : s.resettle = s := by
  unfold State.resettle State.sweep
  simp [he, State.startJob, hj]

/-! ### Requests (R171) -/

/-- A request row that is not turned away with BUSY runs the rule of its code on the state after the take. -/
theorem State.request_taken (s : State) (serial code a1 a2 a3 a4 : Word) (act : State → State) (h : s.takesRequests) :
    s.begin.request serial code a1 a2 a3 a4 act = act (s.taken serial code a1 a2 a3 a4) := by
  obtain ⟨h1, h2, h3, h4, h5⟩ := h
  have : s.begin.mayRequest = true := by
    simp [State.mayRequest, State.accepts, h1, h2, h3, h4]
  unfold State.request
  rw [if_pos this]
  exact if_neg h5

theorem State.refuseRequest_turnedDown (s : State) (r : ReqReason) : s.refuseRequest r = s.turnedDown r := rfl

/-! ### Transactions (R2, R4) -/

theorem ProfileEntry.phasesFit_iff (e : ProfileEntry) (tx : HostTxn) (n : Nat) :
    e.phasesFit tx n = true ↔ tx.addrBytes.length = e.addrLen ∧
      (tx.dummy = e.dummyLen ∨ (tx.dummy < e.dummyLen ∧ tx.data = [] ∧ n = 0)) := by
  simp [ProfileEntry.phasesFit, and_assoc]

theorem State.takes_iff (s : State) (c : TxClass) (tx : HostTxn) (n : Nat) :
    s.takes c tx n = true ↔ s.phase = .running ∧ s.portOpen = true ∧ s.hrstDriven = false ∧
      (s.entryOf tx.opcode).cls = c ∧ (s.entryOf tx.opcode).phasesFit tx n = true := by
  simp [State.takes, State.accepts, and_assoc]

/-- R2, R23: in an idle gap the host can cut exactly where the part does not drive HRST_N low. -/
theorem State.accepts_of_idleGap {s : State} (h : s.idleGap = true) : s.accepts = !s.hrstDriven := by
  simp only [State.idleGap, Bool.and_eq_true, Bool.or_eq_true] at h
  obtain ⟨hp, ho⟩ := h
  cases hd : s.hrstDriven <;> simp_all [State.accepts]

theorem State.accepts_of_driven {s : State} (h : s.hrstDriven = true) : s.accepts = false := by
  simp [State.accepts, h]

theorem State.readReady_iff (s : State) :
    s.readReady = true ↔ s.phase = .running ∧ (s.portOpen = true ∨ s.hrstDriven = true) ∧ s.tracker = .idle ∧
      s.pendingWD = false := by
  simp [State.readReady, State.idleGap, and_assoc]

theorem State.readBytes_of_accepts {s : State} (h : s.accepts = true) (n : Nat) : s.readBytes n = n := by
  simp [State.readBytes, h]

theorem State.readBytes_of_driven {s : State} (h : s.hrstDriven = true) (n : Nat) :
    s.readBytes n = 4 * ((n - 1) / 4 + 1) := by
  simp [State.readBytes, State.accepts_of_driven h]

theorem State.verdictJob_some (s : State) (k : JobKind) (j : Job) :
    s.verdictJob k = some j ↔ s.job = some j ∧ s.readReady = true ∧ j.kind = k ∧ s.atLastWord j = true := by
  simp [State.verdictJob, and_assoc]

/-! ### Replay (R153 to R155) -/

/-- Records with the check words the store gives them, at rising sequence numbers from `n`. -/
def recordsFrom : Word → List Payload → List Record
  | _, [] => []
  | n, p :: t => { seq := n, payload := p } :: recordsFrom (n + 1) t

theorem journalRun_recordsFrom (n : Word) (ps : List Payload) :
    journalRun n ((recordsFrom n ps).map .record) = recordsFrom n ps := by
  induction ps generalizing n with
  | nil => rfl
  | cons p t ih => simp [recordsFrom, journalRun, ih]

/-- What the store has written, replay reads. -/
theorem halfRecords_recordsFrom (n : Word) (ps : List Payload) :
    halfRecords ((recordsFrom n ps).map .record) = recordsFrom n ps := by
  cases ps with
  | nil => rfl
  | cons p t =>
    simp only [recordsFrom, List.map_cons, halfRecords, RecCell.readable_written, journalRun_recordsFrom]

theorem recordsFrom_payload (n : Word) (ps : List Payload) (q : Nat) :
    (recordsFrom n ps)[q]?.map Record.payload = ps[q]? := by
  induction ps generalizing n q with
  | nil => rfl
  | cons p t ih =>
    cases q with
    | zero => rfl
    | succ q => exact ih (n + 1) q

theorem readable_recordsFrom (n : Word) (ps : List Payload) (q : Nat) :
    ((recordsFrom n ps).map RecCell.record)[q]?.bind RecCell.readable = (recordsFrom n ps)[q]? := by
  induction ps generalizing n q with
  | nil => rfl
  | cons p t ih =>
    cases q with
    | zero => exact RecCell.readable_written n p
    | succ q => exact ih (n + 1) q

/-- R153: whether a half is valid, from the records it gives. -/
theorem validHalf_of (cells : List RecCell) (recs : List Record) : halfRecords cells = recs →
    validHalf cells = match recs with
      | r :: t => (match r.payload with | .snapBegin _ _ _ => true | _ => false) && endsSnapshot 1 t
      | [] => false := by
  intro h
  subst h
  rfl

theorem Store.chosenHalf_h1 (st : Store) (h0 : validHalf st.half0.cells = false) (h1 : validHalf st.half1.cells = true) :
    st.chosenHalf = some .h1 := by
  simp only [Store.chosenHalf, h0, h1]

/-! ### Halves and the snapshot -/

theorem HalfState.cutBy_eraseCut_iff (n : Nat) (h : HalfState) :
    (h.cutBy n).eraseCut = true ↔ h.eraseCut = true ∨ h.cond = .erasing := by
  simp [HalfState.cutBy]

/-- R141, R153: a half that replay does not choose is blank only if it reads blank and no erase of it was cut. -/
theorem HalfState.atStart_blank_iff (h : HalfState) :
    (h.atStart false).cond = .blank ↔ allBlank h.cells = true ∧ h.eraseCut = false := by
  cases ha : allBlank h.cells <;> cases he : h.eraseCut <;> simp [HalfState.atStart, ha, he]

/-- R149: what the end of a snapshot record's write does, but for the last. -/
theorem Store.endSnapshot_of_ne (into : Half) (c : SnapCopy) (n last : Nat) (r : Record) (st : Store) (h : n ≠ last) :
    st.endSnapshot into c n last r =
      { st.updHalf into fun x => { x with cells := putCell n (.record r) x.cells } with
        port := none, nextSeq := st.nextSeq + 1, compaction := .running into c (n + 1) } := by
  simp [Store.endSnapshot, h]

/-- Replay with no valid half: the staging area in fresh state, every target blank, a compaction due. -/
theorem State.replay_of_none (s : State) (h : s.store.chosenHalf = none) :
    s.replay = ({ s.freshStaging with targets := s.targets.map fun _ => TargetDyn.blank }.updStore fun st =>
      { st with
        half0 := st.half0.atStart false, half1 := st.half1.atStart false, current := none, closed := false,
        nextFree := 0, nextSeq := 0, compaction := .due, startHold := true, replayed := none }) := by
  unfold State.replay
  rw [h]

/-- Replay from a chosen half changes the state by its records in order, or starts afresh under another signature; the rest
is the record store's own. -/
theorem State.replay_of_chosen (s : State) (h : Half) (recs : List Record) (hc : s.store.chosenHalf = some h)
    (hr : halfRecords (s.store.half h).cells = recs) :
    ∃ f, s.replay = State.updStore f
      (if s.signatureMatches recs then recs.foldl State.applyRecord s
      else (recs.foldl State.applyRecord s).freshStaging) := by
  unfold State.replay
  rw [hc]
  simp only [hr]
  exact ⟨_, rfl⟩

end Sys2Proof.Machine
end

