-- ==== Sys2Proof/WellFormed.lean ====
section
/-! DEFINITION. Which commands are formed as the bus and the request page can carry them. The meanings are total and
do not assume it. -/

namespace Sys2Proof

/-- The part decodes address phases of at most 4 bytes (1.1). -/
def HostTxn.wf (tx : HostTxn) : Bool := decide (tx.addrBytes.length ≤ 4)

/-- Drift names bytes of a flash of at most 64 MiB (R166). -/
def driftWf (d : Drift) : Bool := d.all fun c => decide (c.1 < 67108864)

/-- A page image is 256 bytes (R170). -/
def imageWf (image : List Byte) : Bool := decide (image.length = 256)

/-- The check on a command's operands, by constructor. -/
def Instr.wf : Instr → Bool
  | .read tx _ d => tx.wf && driftWf d
  | .statusRead tx _ => tx.wf
  | .program tx => tx.wf
  | .eraseSector tx _ _ => tx.wf
  | .eraseLarge tx _ _ => tx.wf
  | .eraseChip tx => tx.wf
  | .writeEnable tx => tx.wf
  | .writeDisable tx => tx.wf
  | .pass tx _ => tx.wf
  | .block tx _ => tx.wf
  | .transactionDropped tx => tx.wf
  | .activate _ _ => true
  | .confirm _ _ => true
  | .abandon _ _ => true
  | .discard _ _ => true
  | .clearStaging _ => true
  | .setSlotCode _ _ => true
  | .logFree _ _ => true
  | .ackAlert _ => true
  | .reload _ => true
  | .keyWrite _ _ _ => true
  | .keyRevoke _ _ => true
  | .targetWrite _ _ _ _ => true
  | .configWrite _ _ _ _ => true
  | .lock _ => true
  | .factoryClear _ => true
  | .requestNotCarried image => imageWf image
  | .programEnd _ => true
  | .eraseEnd _ => true
  | .statusPoll _ => true
  | .pendingWriteDisable _ => true
  | .guardRelease _ => true
  | .heldEraseForward _ _ => true
  | .verifyRead _ d => driftWf d
  | .admissionVerdict d => driftWf d
  | .reloadVerdict d => driftWf d
  | .chunkVerdict d => driftWf d
  | .patrolTick _ => true
  | .patrolVerdict d => driftWf d
  | .hostResetSeen => true
  | .bootScanManifestVerdict d => driftWf d
  | .bootScanChunkVerdict d => driftWf d
  | .hrstRelease _ => true
  | .recordWriteBegin => true
  | .recordWriteEnd => true
  | .rowWriteBegin => true
  | .rowWriteEnd => true
  | .compactionStart => true
  | .snapshotRecordWrite => true
  | .halfEraseEnd _ => true
  | .powerOn _ => true
  | .resetInAssert _ => true
  | .startup => true
  | .flashIdleWaitEnd _ => true
  | .powerLoss _ => true
  | .hrstNSeenHigh => true

end Sys2Proof
end

