-- ==== Sys2Proof/Tests/Slice0.lean ====
section
/-! SUPPORT. The model's own tests: the WellFormed smoke, worked cases of the spec, and for every obligation states and
operands that meet its hypotheses, clause by clause. -/

namespace Sys2Proof.Tests

open Sys2Proof Sys2Proof.Machine

/-! ### Helpers -/

/-- The running part at factory state, with the port open. -/
def up : State := { State.reset with phase := .running, hrstDriven := false, portOpen := true }

/-- A transaction with a 3-byte address. -/
def tx (op : Byte) (a : Nat) (data : List Byte) : HostTxn :=
  { opcode := op, addrBytes := [BitVec.ofNat 8 (a / 65536), BitVec.ofNat 8 (a / 256), BitVec.ofNat 8 a], dummy := 0,
    lanes := ownLanes, data := data }

/-- A transaction without an address. -/
def cmd (op : Byte) : HostTxn := { opcode := op, addrBytes := [], dummy := 0, lanes := ownLanes, data := [] }

/-- The next state of an outcome; the fault and refusal cases do not arise. -/
def out (o : Host.Outcome State Fault Refusal) : State :=
  match o with
  | .next t => t
  | .fault _ => State.reset
  | .refused _ => State.reset

def op1 (c : TxClass) (sectors : Option (Nat × Nat)) : OpRecord :=
  { cls := c, opcode := 0x20#8, address := 3149824, region := .staging, sectors := sectors }

def hold1 (r g : Bool) (d : Option Decision) : Hold := { recordOpen := r, guardOpen := g, decision := d }

def retire1 : Decision := { case := .retire, logical := 1, source := 1, target := 3296, wear := none }

/-- A flash with a sector erase of staging sector 1 in progress. -/
def busyFlash : Flash := { Flash.blank with op := some (.erase 3149824 4096) }

def image1 : Summary := { target := 0, version := 5, imageLen := 4096, chunks := 1, base := 7, keySlot := 0 }

def chunk1 (st : ChunkState) (o : Origin) : Chunk := { state := st, mask := 0, origin := o, queued := false }

/-- A slot in a state, with a one-chunk image. -/
def slot1 (st : SlotState) (c : Chunk) : SlotRec :=
  { SlotRec.blank with state := st, journaled := st, summary := some image1, chunks := [c] }

def with1 (r : SlotRec) : State := { up with slots := [r], statics := up.statics.set 0 { inUse := true, cls := 0, keyMask := 1, bootMapped := false }, keys := up.keys.set 0 (.active 5) }

def dyn0 (d : TargetDyn) (s : State) : State := { s with targets := s.targets.set 0 d }

def boot0 (s : State) : State :=
  { s with statics := s.statics.set 0 { inUse := true, cls := 0, keyMask := 1, bootMapped := true } }

/-- Slot 0 in a state, and the target 0 with the given dynamic fields. -/
def role (st : SlotState) (d : TargetDyn) : State := dyn0 d (with1 (slot1 st (chunk1 .verified .written)))

/-- Stores a little-endian word in the header sector of slot 0, which the fresh map leaves in place. -/
def headerWord (n : Nat) (b0 b1 b2 b3 : Byte) (s : State) : State :=
  let a := 3145728 + 4 * n
  { s with flash := { s.flash with cells := [(a, b0), (a + 1, b1), (a + 2, b2), (a + 3, b3)] } }

/-- A chunk job of slot 0 that has folded its words to an accumulator of 0, so that its fold is 1024. -/
def chunkJob (k : JobKind) : Job :=
  { kind := k, slot := 0, chunk := 1, pass := .fold, head := [], base := 7, seed := 1, count := 1024, index := 1024,
    acc := 0, sector := 1, offset := 0 }

/-- Words 0 to 7 of a manifest for `image1`, with a version. -/
def words1 (version : Word) : List Word := [0x314D4B48#32, 10, 0, version, 4096, 7, 0, 0]

/-- A manifest job of slot 0 at its tag, with an accumulator of 0, so that its fold is 9. -/
def manifestJob (k : JobKind) (version : Word) : Job :=
  { kind := k, slot := 0, chunk := 0, pass := .fold, head := words1 version, base := 5, seed := 10, count := 9,
    index := 9, acc := 0, sector := 0, offset := 0 }

def rec1 : Record := { seq := 7, payload := .slotCode 0 }

/-! ### WellFormed: each check refuses an ill-formed command -/

theorem test_wf_address : (Instr.read { cmd 0x03#8 with addrBytes := [0, 0, 0, 0, 0] } 1 []).wf = false := by decide
theorem test_wf_drift : (Instr.verifyRead 4 [(67108864, 0)]).wf = false := by decide
theorem test_wf_image : (Instr.requestNotCarried [0]).wf = false := by decide
theorem test_wf_good : (Instr.read (tx 0x03#8 0 []) 1 [(67108863, 0)]).wf = true := by decide

/-! ### The table spells no command -/

theorem test_decode_none : decodeTableWord 8 5 = none := by decide
theorem test_fetch_unchanged : up.withFetchWord 8 5 = up := rfl

/-! ### Worked cases of the spec -/

/-- 5.4, three folds. -/
theorem test_three_folds :
    fold 7 1 [5, 3, 4294967295] = 4294 ∧ fold 4294967290 2 [10, 20] = 4294967281 ∧ fold 65537 0 [1, 2, 3] = 983074 := by
  decide
/-- R85: the words 0, 0, 5 and the single word 5 under seed 0 give 5·B + 3 and 5·B + 1. -/
theorem test_fold_count : fold 65537 0 [0, 0, 5] = 327688 ∧ fold 65537 0 [5] = 327686 := by decide
/-- R85: the words FFFFFFFFh and 4 fold alike, and FFFFFFFBh folds as 0. -/
theorem test_fold_reduction : fold 7 1 [4294967295] = fold 7 1 [4] ∧ fold 7 1 [4294967291] = fold 7 1 [0] := by decide
/-- 1.7, the guard worked case: with 0, 200 and 400 listed and EG_MAX 3, an erase may not go at 500 and may at 1000. -/
theorem test_guard_case :
    let s := { up with guard := [0, 200, 400], cfg := { up.cfg with settings := { up.cfg.settings with egMax := 3 } } }
    s.guardAllows 500 = false ∧ s.guardAllows 999 = false ∧ s.guardAllows 1000 = true ∧
      (s.pushGuard 1000).guard = [200, 400, 1000] := by decide
/-- 1.4, refusal seen by the host: raw status 00h is shown as busy 0, fail 1 while the echo is set, and as busy 1 in a
hold. -/
theorem test_status_shown :
    ({ up with echo := true }).composeStatus 0x01#8 = 0x20#8 ∧
      ({ up with echo := true, tracker := .eraseHeld (op1 .eraseSector none) (hold1 true false none) }).composeStatus
        0x00#8 = 0x01#8 ∧ up.composeStatus 0x23#8 = 0x23#8 := by decide
/-- R6: 60h is BLOCK, and with 3 address bytes 13h is loaded as BLOCK with address length 4. -/
theorem test_profile :
    up.entryOf 0x60#8 = { opcode := 0x60#8, cls := .block, addrLen := 0, dummyLen := 0 } ∧
      up.entryOf 0x13#8 = { opcode := 0x13#8, cls := .block, addrLen := 4, dummyLen := 0 } ∧
      (up.entryOf 0xEB#8).dummyLen = 6 := by decide
/-- 3.1, the table of default geometries, 16 MiB: S_LOG 3296 and Z 412 at code 3. -/
theorem test_geometry : up.cfg.sLog = 3296 ∧ ({ up with code := 3 }).slotSize = 412 := by decide
/-- 7.1, the patrol walk traced: after 1/3 of a slot of three chunks, and from a slot without a chunk table, the walk goes
on to chunk 1 of the next. -/
theorem test_patrol_walk :
    let v := chunk1 .verified .written
    let s := { up with code := 1, slots := [SlotRec.blank, { slot1 .active v with chunks := [v, v, v] }] }
    s.walk = [(1, 1), (1, 2), (1, 3)] ∧ s.pointerAfter (1, 3) = (0, 1) ∧ s.pointerAfter (1, 1) = (1, 2) ∧
      ({ s with patrolSlot := 1, patrolChunk := 3 }).walk = [(1, 3), (1, 1), (1, 2)] := by decide
/-- 9.8: a snapshot of the default geometry for 8 MiB under slot code 3 holds 659 records. -/
theorem test_snapshot_length :
    ({ up with cfg := { up.cfg with sPhys := 1280, sSp := 32 } }).snapLength
      { code := 3, slots := List.replicate 8 { state := .empty, decayed := false, summary := none },
        targets := List.replicate 16 TargetDyn.blank } = 659 := by decide
/-- 4.7: an image of 407000 bytes has 100 chunks, and chunk 100 needs 6 pages. -/
theorem test_image_numbers :
    chunkCount 407000 = 100 ∧ ({ image1 with imageLen := 407000, chunks := 100 } : Summary).pagesNeeded 100 = 6 ∧
      ({ image1 with imageLen := 407000, chunks := 100 } : Summary).chunkWords 100 = 374 := by decide
/-- R153, R154: a snapshot of SNAP_BEGIN and SNAP_END with count 2 is valid; a wrong count is not; a torn record ends
replay. -/
theorem test_halves :
    let b (n : Nat) : RecCell := .record { seq := BitVec.ofNat 32 n, payload := .snapBegin 768 3328 32 }
    let e (n c : Nat) : RecCell := .record { seq := BitVec.ofNat 32 n, payload := .snapEnd c }
    validHalf [b 4, e 5 2] = true ∧ validHalf [b 4, e 5 3] = false ∧ validHalf [b 4, e 6 2] = false ∧
      tornAfter [b 4, e 5 2, .torn] = true ∧ tornAfter [b 4, e 5 2, .blank] = false := by
  simp [validHalf, tornAfter, halfRecords, journalRun, endsSnapshot]
/-- R144: 0 is later than 4294967295. -/
theorem test_later : later 0 0xFFFFFFFF#32 = true ∧ later 0xFFFFFFFF#32 0 = false := by decide
/-- From reset, start-up, the idle wait's end and the two records of no boot event lead to the release: R183 to R187 with
no boot-mapped target. -/
theorem test_first_start :
    let s1 := out (exec .startup State.reset)
    let s2 := out (exec (.flashIdleWaitEnd [0x00#8]) s1)
    let s3 := out (exec (.hrstRelease 0) s2)
    s1.phase = .idleWait ∧ s2.phase = .running ∧ s2.portOpen = false ∧ s3.portOpen = true ∧ s3.hrstDriven = false ∧
      s3.nextTick = some 5000 := by decide +kernel

/-! ### Witnesses: states and operands that meet the hypotheses of the obligations -/

theorem test_wit_queue : ({ up with pending := [.startup] } : State).pending = [.startup] := rfl

theorem test_wit_invariants :
    up.bounded ∧ up.formsWf ∧ ({ up with pending := [.lock 0] } : State).pending.head? = some (.lock 0) := by
  refine ⟨?_, ?_, rfl⟩
  · unfold State.bounded; decide
  · decide

theorem test_wit_lines : up.linesSafe := by unfold State.linesSafe; decide

theorem test_wit_waits : up.waitsBacked := ⟨(fun _ _ h => nomatch h), (fun h => nomatch h)⟩

theorem test_wit_commands :
    up.takes .writeEnable (cmd 0x06#8) = true ∧ up.takes .writeDisable (cmd 0x04#8) = true ∧
      up.takes .pass (cmd 0x9F#8) = true ∧ up.takes .block (cmd 0x60#8) = true ∧
      (∀ e ∈ up.cfg.profile, e.opcode ≠ 0x60#8) := by decide

theorem test_wit_dropped :
    State.reset.portOpen = false ∧ ({ up with hrstDriven := true } : State).hrstDriven = true := by decide

theorem test_wit_status :
    up.cfg.geometry.busyBit ≠ up.cfg.geometry.failBit ∧ up.cfg.geometry.busyBit < 8 ∧ up.cfg.geometry.failBit < 8 ∧
      up.takes .statusRead (cmd 0x05#8) = true ∧ up.tracker.inFlight = false ∧ up.flash.op = none ∧
      up.flash.ignored = false ∧ ({ up with echo := true } : State).echo = true ∧ up.echo = false := by decide

/-- The two ends of LIVE_PROTECTED and LIVE_OPEN, and the last byte of the flash (an empty partition's last sector). -/
theorem test_wit_read :
    up.takes .read (tx 0x03#8 0 []) = true ∧ txnAddress (tx 0x03#8 262143 []) = 262143 ∧
      up.sourceAt 0 = .host ∧ up.sourceAt 262143 = .host ∧ up.sourceAt 2097152 = .host ∧ up.sourceAt 3112959 = .host ∧
      3112959 + 1 ≤ up.cfg.bytes := by decide

/-- R28 to R36 at the boundaries of the default regions: the boot window with no booted slot, the window, slack from
logical sector 3296 on, a header sector, and a body sector of an EMPTY and of a SEALED slot. -/
theorem test_wit_sources :
    up.cfg.kindAt 63 = some .liveProtected ∧ up.cfg.kindAt 64 = some .bootWindow ∧ up.bootedSlot = none ∧
      up.cfg.kindAt 759 = some .liveOpen ∧ up.cfg.kindAt 760 = some .control ∧ up.cfg.kindAt 767 = some .control ∧
      up.cfg.kindAt 768 = some .staging ∧ up.cfg.kindAt 4095 = some .staging ∧ up.cfg.kindAt 4096 = none ∧
      up.sourceAt (768 * 4096) = .translated (768 * 4096) ∧ up.sourceAt (4063 * 4096) = .part ∧
      (with1 (slot1 .sealed (chunk1 .verified .written))).sourceAt (4063 * 4096) = .translated (4063 * 4096) ∧
      up.sourceAt (4064 * 4096) = .part := by decide

/-- R36 at the two ends of a booted image of 4096 bytes, whose slot has become FAILED since. -/
theorem test_wit_boot_window :
    let s := boot0 { role .failed { TargetDyn.blank with booted := some 0 } with map := [(1, 3296), (3296, 1)] }
    s.bootedSlot = some 0 ∧ (s.slotAt 0).summary = some image1 ∧ s.sourceAt 262144 = .translated ((768 + 3296) * 4096) ∧
      s.sourceAt (262144 + 4095) = .translated ((768 + 3296) * 4096 + 4095) ∧ s.sourceAt (262144 + 4096) = .part := by decide

theorem test_wit_request_page :
    up.takes .read (tx 0x03#8 3113472 []) = true ∧ txnAddress (tx 0x03#8 3113472 []) = up.cfg.startOf .control * 4096 + 512 ∧
      txnAddress (tx 0x03#8 3113727 []) = up.cfg.startOf .control * 4096 + 512 + 255 ∧
      up.cfg.kindAt (3113472 / 4096) = some .control := by decide

/-- R38, R157: the page's bytes that a KEY_WRITE which has written a key slot leaves readable, and those it does not. -/
theorem test_request_page_hides_key :
    let s : State := { up with reqPage := List.replicate 256 0x5A#8, lastCode := some 10, lastOutcome := .done }
    [15, 16, 19, 20, 27, 28, 31, 32].map s.requestByte = [0x5A, 0xFF, 0xFF, 0x5A, 0x5A, 0xFF, 0xFF, 0x5A] ∧
      ({ s with lastOutcome := .refused } : State).requestByte 16 = 0x5A#8 ∧
      ({ s with lastCode := some 11 } : State).requestByte 28 = 0x5A#8 := by decide

/-- R2, R4: FAST_READ's eight dummy clocks, none or nine with a byte behind them, and HCS_N rising within them. -/
theorem test_dummy_length :
    let t (d : Nat) : HostTxn := { tx 0x0B#8 0 [] with dummy := d }
    up.takes .read (t 8) 1 = true ∧ up.takes .read (t 0) 1 = false ∧ up.takes .read (t 9) 1 = false ∧
      up.takes .read (t 3) 0 = true ∧ up.takes .read (tx 0x03#8 3113472 []) 1 = true ∧
      up.takes .read (tx 0x03#8 16777215 []) 2 = true := by decide

theorem test_wit_program :
    up.takes .program (tx 0x02#8 2097152 [1]) = true ∧ (tx 0x02#8 2097152 [1]).data ≠ [] ∧ up.tracker = .idle ∧
      up.cfg.kindAt (txnAddress (tx 0x02#8 2097152 [1]) / 4096) = some .liveOpen := by decide

theorem test_wit_refused :
    up.takes .program (tx 0x02#8 0 [1]) = true ∧ up.cfg.kindAt (txnAddress (tx 0x02#8 0 [1]) / 4096) = some .liveProtected ∧
      up.cfg.kindAt (txnAddress (tx 0x20#8 262144 []) / 4096) = some .bootWindow ∧
      up.takes .eraseSector (tx 0x20#8 262144 []) = true ∧ up.takes .eraseLarge (tx 0xD8#8 0 []) = true ∧
      up.largeAccepted 0 = false ∧ up.takes .eraseChip (cmd 0xC7#8) = true ∧ up.tracker = .idle := by decide

/-- The first slack sector, the two pages beside the request page, and the last sector of a protected slot and the header
of a FILLING one. -/
theorem test_wit_refused_staging :
    let s := with1 (slot1 .outdated (chunk1 .verified .written))
    up.takes .program (tx 0x02#8 16646144 [1]) = true ∧ up.cfg.kindAt (16646144 / 4096) = some .staging ∧
      up.slotOf (up.cfg.logicalOf 16646144) = none ∧ up.cfg.kindAt (3113216 / 4096) = some .control ∧
      (3113471 - up.cfg.startOf .control * 4096) / 256 = 1 ∧ (3113728 - up.cfg.startOf .control * 4096) / 256 = 3 ∧
      s.takes .eraseSector (tx 0x20#8 16642048 []) = true ∧ s.slotOf (s.cfg.logicalOf 16642048) = some (0, 3295) ∧
      (s.slotAt 0).state = .outdated ∧ s.slotOf (s.cfg.logicalOf 3145728) = some (0, 0) ∧
      ((with1 (slot1 .filling (chunk1 .verified .written))).slotAt 0).state = .filling := by decide

theorem test_wit_in_flight :
    ({ up with tracker := .eraseInFlight (op1 .eraseSector none) } : State).tracker.inFlight = true ∧
      ({ up with tracker := .programInFlight (op1 .program none) } : State).tracker.inFlight = true := by decide

def held (r g : Bool) (d : Option Decision) : State :=
  { up with tracker := .eraseHeld (op1 .eraseSector none) (hold1 r g d) }

theorem test_wit_held :
    (held true false none).tracker = .eraseHeld (op1 .eraseSector none) (hold1 true false none) ∧
      (held true false none).takes .program (tx 0x02#8 0 [1]) = true ∧
      (held true false none).takes .eraseSector (tx 0x20#8 0 []) = true ∧
      (held true false none).takes .eraseLarge (tx 0xD8#8 0 []) = true ∧
      (held true false none).takes .eraseChip (cmd 0xC7#8) = true := by decide

theorem test_wit_live_erase :
    up.takes .eraseSector (tx 0x20#8 2097152 []) = true ∧
      up.cfg.kindAt (txnAddress (tx 0x20#8 2097152 []) / 4096) = some .liveOpen ∧
      up.takes .eraseLarge (tx 0xD8#8 2097152 []) = true ∧ up.largeAccepted 2097152 = true := by decide

/-- A header page program at page 1 and at page 15, in an EMPTY slot, clean and not, in HEADER and in REJECTED. -/
theorem test_wit_header_program :
    up.takes .program (tx 0x02#8 3145984 [1]) = true ∧ up.cfg.kindAt (3145984 / 4096) = some .staging ∧
      up.slotOf (up.cfg.logicalOf 3145984) = some (0, 0) ∧ pageOf 3145984 = 1 ∧ pageOf 3149823 = 15 ∧
      (up.slotAt 0).state = .empty ∧ up.isClean 0 = false ∧ ({ up with clean := [0] } : State).isClean 0 = true ∧
      ((with1 { SlotRec.blank with state := .header, headerMask := 2 }).slotAt 0).headerMask.getLsbD 1 = true := by decide

/-- Page 0: a manifest's first words at both ends of the length, one beyond, and a short program. -/
theorem test_wit_capture :
    up.takes .program (tx 0x02#8 3145728 [0x48]) = true ∧ up.slotOf (up.cfg.logicalOf 3145728) = some (0, 0) ∧
      pageOf 3145728 = 0 ∧
      capturedWords 3145728 [0x48, 0x4B, 0x4D, 0x31, 10, 0, 0, 0] = (0x314D4B48#32, 10#32) ∧
      capturedWords 3145728 [0x48, 0x4B, 0x4D, 0x31, 0, 4, 0, 0] = (0x314D4B48#32, 1024#32) ∧
      capturedWords 3145728 [0x48, 0x4B, 0x4D, 0x31, 1, 4, 0, 0] = (0x314D4B48#32, 1025#32) ∧
      capturedWords 3145728 [0x48] = (0xFFFFFF48#32, 0xFFFFFFFF#32) := by decide

theorem test_wit_chunk_program :
    let s := with1 (slot1 .filling (chunk1 .empty .written))
    s.takes .program (tx 0x02#8 3149824 [1]) = true ∧ s.slotOf (s.cfg.logicalOf 3149824) = some (0, 1) ∧
      s.cfg.kindAt (3149824 / 4096) = some .staging ∧ (s.slotAt 0).state = .filling ∧ (s.slotAt 0).reload = false ∧
      (s.slotAt 0).summary = some image1 ∧ s.chunkAt 0 1 = some (chunk1 .empty .written) ∧
      pageOf 3149824 < image1.pagesNeeded 1 ∧ pageOf 3153919 < image1.pagesNeeded 1 ∧
      (chunk1 .empty .written).mask.getLsbD (pageOf 3149824) = false := by decide

/-- The refused forms: no chunk in the sector, a page beyond those needed, a STALE and a COMPLETE chunk, a page in the mask,
and a slot that is not FILLING. -/
theorem test_wit_chunk_refused :
    let s (c : Chunk) := with1 (slot1 .filling c)
    (s (chunk1 .empty .written)).slotOf ((s (chunk1 .empty .written)).cfg.logicalOf 3153920) = some (0, 2) ∧
      (s (chunk1 .empty .written)).chunkAt 0 2 = none ∧
      ({ image1 with imageLen := 256 } : Summary).pagesNeeded 1 = 1 ∧ pageOf 3150080 = 1 ∧
      (s (chunk1 .stale .recovered)).chunkAt 0 1 = some (chunk1 .stale .recovered) ∧
      (s (chunk1 .complete .written)).chunkAt 0 1 = some (chunk1 .complete .written) ∧
      (s { chunk1 .partial_ .written with mask := 1 }).chunkAt 0 1 = some { chunk1 .partial_ .written with mask := 1 } ∧
      ({ chunk1 .partial_ .written with mask := 1 } : Chunk).mask.getLsbD (pageOf 3149824) = true ∧
      ((with1 (slot1 .sealed (chunk1 .verified .written))).slotAt 0).state ≠ .filling := by decide

/-- The erase decision's cases: an empty pool and a pool whose head is fresh, a suspect sector, and wear at the gap and
one below it. -/
theorem test_wit_decision :
    let old (w : Nat) : State := { up with health := [(1, { wear := w, suspect := false, retired := false })] }
    (old 256).eraseDecision 1 = { case := .swap, logical := 1, source := 1, target := 3296, wear := none } ∧
      ((old 255).eraseDecision 1).case = .inPlace ∧ ((old 255).eraseDecision 1).wear = some 256 ∧
      ({ up with health := [(1, { wear := 0, suspect := true, retired := false })] }).eraseDecision 1 = retire1 ∧
      (({ up with health := [(1, { wear := 0, suspect := true, retired := false })], pool := [] }).eraseDecision 1).case =
        .degrade := by decide

theorem test_wit_staging_erase :
    let s : State := { up with job := some (manifestJob .reload 5) }
    s.takes .eraseSector (tx 0x20#8 3149824 []) = true ∧ s.slotOf (s.cfg.logicalOf 3149824) = some (0, 1) ∧
      s.cfg.kindAt (3149824 / 4096) = some .staging ∧ (s.slotAt 0).state = .empty ∧ s.job.isSome = true ∧
      s.eligibleChunks = [] ∧ (s.eraseDecision (s.cfg.logicalOf 3149824)).case = .inPlace ∧
      (s.eraseDecision (s.cfg.logicalOf 3149824)).wear = none ∧
      (s.guard.filter fun x => decide (0 < x + s.cfg.settings.egWindow) && decide (x ≤ 0)).length <
        s.cfg.settings.egMax := by decide

/-- The cases that name a record: a retirement, a swap, and a wear record alone, in place and with an empty pool. -/
theorem test_wit_staging_erase_held :
    let s (h : List (Nat × Health)) (pool : List Nat) : State := { up with health := h, pool := pool }
    let bad : Health := { wear := 7, suspect := true, retired := false }
    (s [(1, bad)] [3296]).slotOf ((s [(1, bad)] [3296]).cfg.logicalOf 3149824) = some (0, 1) ∧
      ((s [(1, bad)] [3296]).eraseDecision 1).namesRecord = true ∧
      ((s [(1, bad)] [3296]).eraseDecision 1).case = .retire ∧ ((s [(1, bad)] []).eraseDecision 1).case = .degrade ∧
      ((s [(1, bad)] []).eraseDecision 1).namesRecord = true ∧
      ((s [(1, { bad with wear := 256, suspect := false })] [3296]).eraseDecision 1).case = .swap ∧
      ((s [(1, { bad with suspect := false })] [3296]).eraseDecision 1).case = .inPlace ∧
      ((s [(1, { bad with suspect := false })] [3296]).eraseDecision 1).wear = some 8 ∧
      (s [(1, bad)] [3296]).takes .eraseSector (tx 0x20#8 3149824 []) = true := by decide

/-! #### Requests -/

theorem test_wit_activate :
    let s := role .sealed TargetDyn.blank
    s.takesRequests ∧ 2 ^ s.code ≤ (1#32).toNat ∧ (0#32).toNat < 2 ^ s.code ∧
      ((role .active TargetDyn.blank).slotAt 0).state ≠ .sealed ∧ (s.slotAt 0).state = .sealed ∧
      (s.slotAt 0).reload = false ∧ (s.slotAt 0).summary = some image1 ∧ image1.target < s.targets.length ∧
      (s.dynAt 0).trial = none ∧ s.keyAt 0 = .active 5 ∧
      ((role .sealed { TargetDyn.blank with trial := some 1 }).dynAt 0).trial ≠ none ∧
      ({ s with keys := s.keys.set 0 (.revoked 5) } : State).keyAt 0 = .revoked 5 := by decide

/-- A trial that is not boot-mapped, and one that is, booted and not; an active slot, a fallback slot, and a fourth slot of
the target below the new floor. -/
theorem test_wit_confirm :
    let d : TargetDyn := { TargetDyn.blank with trial := some 0, active := some 1, fallback := some 2 }
    let s : State := { dyn0 d (with1 SlotRec.blank) with
      code := 2, slots := [slot1 .trial (chunk1 .verified .written), slot1 .active (chunk1 .verified .written),
        slot1 .fallback (chunk1 .verified .written),
        { slot1 .filling (chunk1 .complete .written) with summary := some { image1 with version := 4 } }] }
    s.takesRequests ∧ 2 ^ s.code ≤ (4#32).toNat ∧ (3#32).toNat < 2 ^ s.code ∧ (s.slotAt 3).state ≠ .trial ∧
      (s.slotAt 0).state = .trial ∧ (s.slotAt 0).summary = some image1 ∧ image1.target < s.targets.length ∧
      s.bootTarget = none ∧ (boot0 s).bootTarget = some 0 ∧ ((boot0 s).dynAt 0).booted ≠ some 0 ∧
      (s.dynAt 0).active = some 1 ∧ (s.dynAt 0).fallback = some 2 ∧ (s.slotAt 3).target? = some 0 ∧
      (s.slotAt 3).version < max (s.dynAt 0).floor 5 := by decide

theorem test_wit_abandon :
    let s := role .trial { TargetDyn.blank with trial := some 0 }
    s.takesRequests ∧ 2 ^ s.code ≤ (1#32).toNat ∧ (s.slotAt 0).state = .trial ∧ (s.slotAt 0).summary = some image1 ∧
      image1.target < s.targets.length ∧ ((role .sealed TargetDyn.blank).slotAt 0).state ≠ .trial := by decide

theorem test_wit_discard :
    let s := role .fallback { TargetDyn.blank with fallback := some 0 }
    s.takesRequests ∧ 2 ^ s.code ≤ (1#32).toNat ∧ (0#32).toNat < 2 ^ s.code ∧
      ((role .trial TargetDyn.blank).slotAt 0).state = .trial ∧ s.bootedSlot ≠ some 0 ∧ (up.slotAt 0).state = .empty ∧
      (s.slotAt 0).state = .fallback ∧ (s.slotAt 0).journaled ≠ .empty ∧ (s.slotAt 0).summary = some image1 ∧
      (boot0 (role .failed { TargetDyn.blank with booted := some 0 })).bootedSlot = some 0 := by decide

theorem test_wit_slot_code :
    up.takesRequests ∧ 4 < (5#32).toNat ∧ (4#32).toNat ≤ 4 ∧
      ((role .trial TargetDyn.blank).slots.any fun r => r.state == .trial) = true ∧
      (up.slots.all fun r => r.state != .trial && r.state != .active && r.state != .fallback) = true ∧
      up.bootedSlot = none ∧ (boot0 (role .failed { TargetDyn.blank with booted := some 0 })).bootedSlot ≠ none := by
  decide

theorem test_wit_log_free :
    let s := up.appendLog (LogEntry.of .sealed)
    s.takesRequests ∧ s.log.length < (2#32).toNat ∧ (1#32 : Word) ≠ 0 ∧ (1#32).toNat ≤ s.log.length := by decide

theorem test_wit_resets :
    up.phase ≠ .unpowered ∧ up.takesRequests ∧ up.store.port = none ∧ up.store.half0.cond ≠ .erasing ∧
      ({ up.store with port := some (.record .h0 0 rec1) } : Store).port = some (.record .h0 0 rec1) ∧
      ({ up.store with port := some (.record .h1 7679 rec1) } : Store).port = some (.record .h1 7679 rec1) ∧
      ({ up.store with port := some (.snapshot .h0 4128 rec1) } : Store).port = some (.snapshot .h0 4128 rec1) ∧
      ({ up.store with port := some (.snapshot .h1 0 rec1) } : Store).port = some (.snapshot .h1 0 rec1) ∧
      up.store.half1.cond ≠ .erasing :=
  ⟨by decide, by decide, rfl, by decide, rfl, rfl, rfl, rfl, by decide⟩

theorem test_wit_keys :
    let s := with1 SlotRec.blank
    s.takesRequests ∧ s.job = none ∧ ¬ ((8#32).toNat < 8 ∧ 2 ≤ (2#32).toNat ∧ (2#32).toNat ≤ 4294967290) ∧
      ((7#32).toNat < 8 ∧ 2 ≤ (2#32).toNat ∧ (4294967290#32).toNat ≤ 4294967290) ∧
      ({ s with locked := true } : State).locked = true ∧ s.keyAt 0 ≠ .empty ∧ s.keyAt 7 = .empty ∧ s.locked = false ∧
      s.keyAt 0 = .active 5 ∧ 8 ≤ (8#32).toNat := by decide

/-- A manifest job whose second pass is in flight under key slot 0. -/
theorem test_wit_key_restart :
    let s : State := { with1 SlotRec.blank with job := some (manifestJob .admission 5) }
    s.takesRequests ∧ s.job = some (manifestJob .admission 5) ∧ (manifestJob .admission 5).kind.isManifest = true ∧
      (manifestJob .admission 5).pass = .fold ∧ s.jobKeySlot (manifestJob .admission 5) = (0#32).toNat ∧
      (0#32).toNat < s.store.keyContent.keys.length ∧ s.jobKeySlot (manifestJob .admission 5) ≠ (1#32).toNat := by decide

theorem test_wit_target :
    let s := with1 SlotRec.blank
    s.takesRequests ∧ ¬ ((16#32).toNat < 16) ∧ (15#32).toNat < 16 ∧ (65535#32).toNat < 65536 ∧ (1023#32).toNat < 1024 ∧
      (1023#32 : Word).getLsbD 9 = true ∧ ((boot0 s).staticAt 0).bootMapped = true ∧ (s.staticAt 1).bootMapped = false ∧
      (slot1 .sealed (chunk1 .verified .written)).summary.map Summary.target = some 0 ∧
      (s.slots.all fun r => r.summary.isNone) = true ∧ (s.dynAt 0).booted = none ∧
      ({ s with locked := true } : State).locked = true := by decide

/-- Every row at a boundary of its item number and index, over blank rows; a garbled row starts from the defaults too. -/
theorem test_wit_config :
    up.takesRequests ∧ up.configRow 13 0 0 = none ∧ up.configRow 13 0 17 = none ∧
      up.configRow 13 0 16 = some (.settings { defaultSettings with egMax := 16 }) ∧
      up.configRow 13 0 1 = some (.settings { defaultSettings with egMax := 1 }) ∧ up.configRow 0 0 1 = none ∧
      up.configRow 21 0 1 = none ∧ up.configRow 4 1 0 = none ∧ up.configRow 12 1 8 = none ∧ up.configRow 8 16 0 = none ∧
      up.configRow 11 8 0 = none ∧ up.configRow 6 15 10 = none ∧ up.configRow 18 0 3 = none ∧
      up.configRow 18 0 0 = some (.settings { defaultSettings with scanScope := .none }) ∧
      up.configRow 9 6 3 = some (.partition ((defaultPartition 4096).modify 6 fun r => { r with kind := .staging })) ∧
      ({ up.store with geometryRow := .garbled } : Store).geometryRow.content? = none ∧ up.locked = false ∧
      ({ up with locked := true } : State).locked = true := by decide

/-- R90: a row with its check word is read, and any other check word is not. -/
theorem test_row_check (k : Word) (h : k ≠ rowCheck defaultSettings) :
    (Row.stored defaultSettings).content? = some defaultSettings ∧ (Row.stored defaultSettings k).content? = none ∧
      (Row.stored defaultSettings k).isGarbled = true := by
  simp [Row.content?, Row.isGarbled, h]

/-- R90, R154: replay ends at a record whose words folded again do not give its word 3. -/
theorem test_record_check (k : Word) (h : k ≠ recordCheck 5#32 (.snapEnd 2)) :
    validHalf [.record { seq := 4#32, payload := .snapBegin 768 3328 32 },
        .record { seq := 5#32, payload := .snapEnd 2 }] = true ∧
      validHalf [.record { seq := 4#32, payload := .snapBegin 768 3328 32 },
        .record { seq := 5#32, payload := .snapEnd 2, check := k }] = false := by
  have e : RecCell.readable (.record { seq := 5#32, payload := .snapEnd 2, check := k }) = none := by
    simpa [RecCell.readable, Record.passes] using h
  exact ⟨by simp [validHalf, halfRecords, journalRun, endsSnapshot],
    by simp [validHalf, halfRecords, journalRun, endsSnapshot, e]⟩

theorem test_wit_turned_away :
    let good := recordImage 1 16 0 0 0 0
    up.tracker = .idle ∧ ({ up with lastOutcome := .pending } : State).lastOutcome = .pending ∧
      up.lastOutcome ≠ .pending ∧ recordGood [] = false ∧ recordGood good = true ∧ 15 < (wordAt good 8).toNat ∧
      recordGood (recordImage 1 0 0 0 0 0) = true ∧ (wordAt (recordImage 1 0 0 0 0 0) 8).toNat = 0 := by decide +kernel

theorem test_wit_program_request :
    let t := tx 0x02#8 3113472 (recordImage 1 7 2 0 0 0)
    up.takes .program t = true ∧ up.tracker = .idle ∧ txnAddress t = up.cfg.startOf .control * 4096 + 512 ∧
      up.cfg.kindAt (txnAddress t / 4096) = some .control ∧ t.data = recordImage 1 7 2 0 0 0 := by decide +kernel

/-! #### The part's steps -/

theorem test_wit_ends :
    let s : State := { with1 (slot1 .filling (chunk1 .complete .written)) with
      flash := busyFlash, tracker := .programInFlight (op1 .program (some (1, 1))) }
    s.phase = .running ∧ s.flash.op = some (.erase 3149824 4096) ∧ s.cfg.busy 0x00#8 = false ∧ s.cfg.busy 0x01#8 = true ∧
      s.cfg.failed 0x20#8 = true ∧ s.cfg.failed 0x00#8 = false ∧ (op1 .program none).sectors = none ∧
      s.tracker = .programInFlight (op1 .program (some (1, 1))) ∧ s.slotOf 1 = some (0, 1) ∧
      (s.slotAt 0).state = .filling ∧ s.chunkAt 0 1 = some (chunk1 .complete .written) ∧
      ({ s with tracker := .eraseInFlight (op1 .eraseSector (some (1, 1))) } : State).tracker =
        .eraseInFlight (op1 .eraseSector (some (1, 1))) := by decide

theorem test_wit_poll :
    let s : State := { up with flash := busyFlash, tracker := .eraseInFlight (op1 .eraseSector none) }
    s.idleGap = true ∧ s.tracker.inFlight = true ∧ s.flash.op = some (.erase 3149824 4096) ∧
      (∀ b ∈ [0x01#8], s.cfg.busy b = true) ∧ s.cfg.busy 0x00#8 = false := by decide

theorem test_wit_disable :
    up.idleGap = true ∧ ({ up with pendingWD := true } : State).pendingWD = true ∧ up.tracker = .idle ∧
      (held false true none).tracker = .eraseHeld (op1 .eraseSector none) (hold1 false true none) ∧
      (hold1 false true none).guardOpen = true := by decide

/-- R2: while the part drives HRST_N low the polls, the write-disable and a held erase's sends are not cut. -/
theorem test_driven_uncut :
    let d (s : State) : State := { s with hrstDriven := true, portOpen := false }
    let p := d { up with pendingWD := true }
    let e := d (held false false none)
    p.idleGap = true ∧ (out (execPendingWriteDisable true p)).pendingWD = false ∧
      e.idleGap = true ∧ (out (execHeldEraseForward 0 .inErase e)).tracker = .eraseInFlight (op1 .eraseSector none) ∧
      (out (execStatusPoll [0x01#8] { e with flash := busyFlash, tracker := .eraseInFlight (op1 .eraseSector none) })).memOut.map
        MemTxn.cut = [false] := by decide

theorem test_wit_guard :
    (held false true none).phase = .running ∧
      (held false true none).tracker = .eraseHeld (op1 .eraseSector none) (hold1 false true none) ∧
      (hold1 false true none).guardOpen = true := by decide

theorem test_wit_held_erase :
    let s := held false false (some retire1)
    s.idleGap = true ∧ s.tracker = .eraseHeld (op1 .eraseSector none) (hold1 false false (some retire1)) ∧ s.formsWf ∧
      (hold1 false false none).decision = none ∧ retire1.moves = true ∧ retire1.target ≠ retire1.source ∧
      ({ retire1 with case := .inPlace, target := 1 } : Decision).moves = false := by decide

theorem test_wit_words :
    let j := { chunkJob .chunk with index := 1023 }
    let s : State := { with1 (slot1 .filling (chunk1 .complete .written)) with job := some j }
    s.readReady = true ∧ s.job = some j ∧ j.pass = .fold ∧ j.index + 1 ≤ j.count ∧ j.offset = 0 ∧ s.flash.op = none ∧
      s.hrstDriven = false ∧ j.index + 0 < j.count ∧
      ({ s with hrstDriven := true, portOpen := false } : State).readReady = true := by decide

/-- R23, R119: a read that ends inside a word is cut by the host, and comes whole while the part drives HRST_N low. -/
theorem test_scan_read_uncut :
    let j := { chunkJob .chunk with index := 1022 }
    let s : State := { with1 (slot1 .filling (chunk1 .complete .written)) with job := some j }
    let shown (t : State) : List (Nat × Bool) := t.memOut.map fun m => (m.readLen, m.cut)
    shown (s.verifyRead 2) = [(2, true)] ∧ shown (s.verifyRead 4) = [(4, false)] ∧
      (s.verifyRead 2).job.map Job.index = some 1022 ∧
      shown (State.verifyRead 2 { s with hrstDriven := true, portOpen := false }) = [(4, false)] ∧
      (State.verifyRead 2 { s with hrstDriven := true, portOpen := false }).job.map Job.index = some 1023 := by decide

/-! #### Verdicts -/

/-- Slot 0 in HEADER with its captured words, a manifest job at its tag, and the tag in the header sector. -/
def atTag (r : SlotRec) (k : JobKind) (version : Word) : State :=
  headerWord 9 9 0 0 0 { with1 r with job := some (manifestJob k version) }

def header1 : SlotRec := { SlotRec.blank with state := .header, headerMask := 1, captured := some (0x314D4B48#32, 10) }

theorem test_wit_admission :
    let s := atTag header1 .admission 5
    let w := s.manifestWords (manifestJob .admission 5)
    s.verdictJob .admission = some (manifestJob .admission 5) ∧ w = words1 5 ∧
      (s.slotAt 0).captured = some (w.getD 0 0, w.getD 1 0) ∧ (s.staticAt 0).inUse = true ∧ (s.staticAt 0).cls = 0 ∧
      s.keyAt 0 = .active 5 ∧ (s.staticAt 0).keyMask.getLsbD 0 = true ∧ s.foldMatches (manifestJob .admission 5) = true ∧
      1 ≤ min (s.slotSize - 1) 1015 ∧ (s.dynAt 0).floor ≤ 5 ∧
      5 < ((dyn0 { TargetDyn.blank with floor := 6 } s).dynAt 0).floor ∧
      (dyn0 { TargetDyn.blank with floor := 6 } s).verdictJob .admission = some (manifestJob .admission 5) ∧
      0 < s.slots.length := by decide

/-- Each of the checks 1 to 7 failing, those before it passing: no capture, target not in use, another class, a key that is
not ACTIVE, another tag, a base of 1, and no room for a chunk. -/
theorem test_wit_admission_checks :
    let s := atTag header1 .admission 5
    let bad : Job := { manifestJob .admission 5 with head := [0x314D4B48#32, 10, 0, 5, 4096, 1, 0, 0] }
    let j := manifestJob .admission 5
    (atTag { header1 with captured := none } .admission 5).verdictJob .admission = some j ∧
      ({ s with statics := up.statics } : State).verdictJob .admission = some j ∧
      (({ s with statics := up.statics } : State).staticAt 0).inUse = false ∧
      ({ s with statics := s.statics.set 0 { s.staticAt 0 with cls := 1 } } : State).verdictJob .admission = some j ∧
      ({ s with keys := s.keys.set 0 (.revoked 5) } : State).verdictJob .admission = some j ∧
      ({ s with keys := s.keys.set 0 (.revoked 5) } : State).keyAt 0 = .revoked 5 ∧
      (headerWord 9 8 0 0 0 s).verdictJob .admission = some j ∧ (headerWord 9 8 0 0 0 s).foldMatches j = false ∧
      ({ s with job := some bad } : State).verdictJob .admission = some bad ∧
      ({ s with job := some bad } : State).foldMatches bad = true ∧
      ({ s with cfg := { s.cfg with sPhys := 0 } } : State).verdictJob .admission = some j ∧
      min (({ s with cfg := { s.cfg with sPhys := 0 } } : State).slotSize - 1) 1015 = 0 := by decide

theorem test_wit_reload :
    let at' (st : SlotState) (v : Word) : State :=
      atTag { slot1 st (chunk1 .stale .recovered) with reload := true } .reload v
    let failure (s : State) (v : Word) : Option Reason :=
      s.reloadFailure 0 (s.manifestWords (manifestJob .reload v)) (s.foldMatches (manifestJob .reload v))
    (at' .sealed 5).verdictJob .reload = some (manifestJob .reload 5) ∧ failure (at' .sealed 5) 5 = none ∧
      failure (at' .sealed 6) 6 = some .badFormat ∧ ((at' .sealed 6).slotAt 0).state = .sealed ∧
      (at' .sealed 6).verdictJob .reload = some (manifestJob .reload 6) ∧
      failure (at' .active 6) 6 = some .badFormat ∧ ((at' .active 6).slotAt 0).state = .active ∧
      failure (at' .filling 5) 5 = none ∧ (at' .filling 5).verdictJob .reload = some (manifestJob .reload 5) ∧
      (at' .filling 5).chunkAt 0 1 = some (chunk1 .stale .recovered) ∧
      failure (at' .trial 6) 6 = some .badFormat ∧ (at' .trial 6).verdictJob .reload = some (manifestJob .reload 6) ∧
      ((at' .trial 6).slotAt 0).summary = some image1 ∧ image1.target < (at' .trial 6).targets.length := by decide

/-- A chunk job of slot 0 at its expected fold, which matches or does not. -/
def atFold (k : JobKind) (good : Bool) (st : SlotState) (c : Chunk) : State :=
  headerWord 8 0 (if good then 4 else 5) 0 0 { with1 (slot1 st c) with job := some (chunkJob k) }

theorem test_wit_chunk :
    let s (good : Bool) (o : Origin) := atFold .chunk good .filling (chunk1 .complete o)
    (s true .written).verdictJob .chunk = some (chunkJob .chunk) ∧
      (s true .written).chunkAt 0 1 = some (chunk1 .complete .written) ∧ (s true .written).formsWf ∧
      (s true .written).foldMatches (chunkJob .chunk) = true ∧
      (s false .written).foldMatches (chunkJob .chunk) = false ∧
      (s false .recovered).verdictJob .chunk = some (chunkJob .chunk) ∧
      (s false .recovered).foldMatches (chunkJob .chunk) = false ∧
      ((atFold .chunk true .sealed (chunk1 .verified .written)).slotAt 0).state ≠ .filling ∧
      (atFold .chunk true .sealed (chunk1 .verified .written)).verdictJob .chunk = some (chunkJob .chunk) := by decide

theorem test_wit_seal :
    ∀ c x, (atFold .chunk true .filling (chunk1 .complete .written)).chunkAt 0 c = some x → c ≠ 1 → x.state = .verified := by
  intro c x h hc
  match c with
  | 0 => exact nomatch h
  | 1 => exact absurd rfl hc
  | c + 2 => exact nomatch h

theorem test_wit_tick :
    let s : State := { with1 (slot1 .sealed (chunk1 .verified .written)) with
      nextTick := some 5000, job := some (manifestJob .reload 5) }
    s.phase = .running ∧ s.nextTick = some 5000 ∧ 5000 ≤ s.clock + 5000 ∧ up.walk.find? up.patrolEligible = none ∧
      s.walk.find? s.patrolEligible = some (0, 1) ∧ s.verifyQueue.length < 32 ∧ s.job.isSome = true ∧
      ({ s with job := none } : State).walk.find? ({ s with job := none } : State).patrolEligible = some (0, 1) ∧
      s.verifyQueue = [] ∧ s.scan = none ∧ s.aside = none ∧ s.manifestJobs = [] ∧
      32 ≤ ({ s with verifyQueue := List.replicate 32 { kind := .chunk, slot := 0, chunk := 1 } } : State).verifyQueue.length := by
  decide

theorem test_wit_patrol :
    let s (good : Bool) (st : SlotState) := atFold .patrol good st (chunk1 .verified .written)
    (s true .sealed).verdictJob .patrol = some (chunkJob .patrol) ∧
      (s true .sealed).chunkAt 0 1 = some (chunk1 .verified .written) ∧ (s true .sealed).formsWf ∧
      ((s true .sealed).slotAt 0).reload = false ∧ ((s true .sealed).slotAt 0).decayed = false ∧
      (s true .sealed).foldMatches (chunkJob .patrol) = true ∧ (s false .sealed).foldMatches (chunkJob .patrol) = false ∧
      (s false .active).verdictJob .patrol = some (chunkJob .patrol) ∧
      (s false .active).foldMatches (chunkJob .patrol) = false ∧
      (s false .trial).verdictJob .patrol = some (chunkJob .patrol) ∧
      (s false .trial).foldMatches (chunkJob .patrol) = false ∧ ((s false .trial).slotAt 0).summary = some image1 ∧
      image1.target < (s false .trial).targets.length := by decide

def scan1 (chunk : Nat) (full : Bool) : Scan := { slot := 0, role := .active, chunk := chunk, full := full }

theorem test_wit_scan :
    let m : State := { atTag (slot1 .active (chunk1 .verified .written)) .scanManifest 5 with scan := some (scan1 0 true) }
    let k (good : Bool) : State :=
      { atFold .scanChunk good .active (chunk1 .verified .written) with scan := some (scan1 1 true) }
    let long : Summary := { image1 with imageLen := 8192, chunks := 2 }
    let two : State := { k true with slots :=
      [{ slot1 .active (chunk1 .verified .written) with summary := some long }] }
    m.verdictJob .scanManifest = some (manifestJob .scanManifest 5) ∧ m.formsWf ∧
      m.reloadFailure 0 (m.manifestWords (manifestJob .scanManifest 5)) (m.foldMatches (manifestJob .scanManifest 5)) = none ∧
      two.verdictJob .scanChunk = some (chunkJob .scanChunk) ∧ two.foldMatches (chunkJob .scanChunk) = true ∧
      two.chunkAt 0 1 = some (chunk1 .verified .written) ∧ (two.slotAt 0).summary = some long ∧ 1 < long.chunks ∧
      (k false).verdictJob .scanChunk = some (chunkJob .scanChunk) ∧ (k false).foldMatches (chunkJob .scanChunk) = false := by
  decide

/-- A scan at the last chunk of an image, in each role, in a boot event of target 0. -/
theorem test_wit_scan_end :
    let d : TargetDyn := { TargetDyn.blank with active := some 0 }
    let b : BootEvent := { startup := false, target := some 0, before := d, failedTrial := none, decayed := [], settled := false }
    let s (good : Bool) (r : Role) : State :=
      { dyn0 d (atFold .scanChunk good .active (chunk1 .verified .written)) with
        scan := some { scan1 1 true with role := r }, boot := some b }
    (s true .active).verdictJob .scanChunk = some (chunkJob .scanChunk) ∧
      (s true .trial).verdictJob .scanChunk = some (chunkJob .scanChunk) ∧
      (s true .fallback).verdictJob .scanChunk = some (chunkJob .scanChunk) ∧
      (s true .active).foldMatches (chunkJob .scanChunk) = true ∧
      (s false .active).verdictJob .scanChunk = some (chunkJob .scanChunk) ∧
      (s false .active).foldMatches (chunkJob .scanChunk) = false ∧ (s true .active).boot = some b ∧ b.target = some 0 ∧
      0 < (s true .active).targets.length ∧ (s true .active).chunkAt 0 1 = some (chunk1 .verified .written) ∧
      ((s true .active).slotAt 0).summary = some image1 ∧ image1.chunks ≤ 1 ∧ (s true .active).formsWf ∧
      ((s true .active).dynAt 0).active = some 0 ∧ ((s true .active).dynAt 0).fallback = none := by decide

/-! #### Boot events, start-up and the record store -/

theorem test_wit_host_reset :
    let s := boot0 (role .trial { TargetDyn.blank with trial := some 0, bootsLeft := 1 })
    let seen (s : State) : State := { s with hrstSeenHigh := true }
    (seen s).phase = .running ∧ (seen s).hrstDriven = false ∧ (seen s).hrstSeenHigh = true ∧ (seen s).formsWf ∧
      s.bootTarget = some 0 ∧ (s.dynAt 0).trial = some 0 ∧ 0 < (s.dynAt 0).bootsLeft ∧ (s.slotAt 0).decayed = false ∧
      s.cfg.settings.scanScope ≠ .none ∧ up.bootTarget = none ∧ 0 < s.targets.length ∧ 0 < s.slots.length ∧
      ((boot0 (role .trial { TargetDyn.blank with trial := some 0 })).dynAt 0).bootsLeft = 0 ∧
      (held true false (some retire1)).tracker = .eraseHeld (op1 .eraseSector none) (hold1 true false (some retire1)) := by
  decide

def event (settled : Bool) : BootEvent :=
  { startup := true, target := none, before := TargetDyn.blank, failedTrial := none, decayed := [], settled := settled }

theorem test_wit_release :
    let s (settled : Bool) : State := { up with hrstDriven := true, portOpen := false, boot := some (event settled) }
    (s true).phase = .running ∧ (s true).hrstDriven = true ∧ (s true).boot = some (event true) ∧
      (event true).settled = true ∧ (s true).store.owes .boot = false ∧ (event false).settled = false ∧
      up.hrstDriven = false := by decide

theorem test_wit_startup :
    State.reset.phase = .inReset ∧ State.reset.store.geometryRow = .blank ∧ State.reset.store.profileRow = .blank ∧
      State.reset.store.partitionRow = .blank ∧ State.reset.store.settingsRow = .blank ∧
      State.reset.store.keyRow = .blank ∧ State.reset.store.targetRows = List.replicate 16 .blank ∧
      State.reset.store.identityRow = .stored (List.replicate 16 0) ∧
      ({ State.reset.store with settingsRow := .stored defaultSettings } : Store).settingsRow = .stored defaultSettings ∧
      ({ State.reset.store with keyRow := .garbled } : Store).keyRow = .garbled :=
  ⟨rfl, rfl, rfl, rfl, rfl, rfl, rfl, rfl, rfl, rfl⟩

theorem test_wit_idle_wait :
    let s : State := { State.reset with phase := .idleWait, flash := busyFlash }
    s.phase = .idleWait ∧ s.flash.ignored = false ∧ s.store.compaction = .none ∧
      s.flash.op = some (.erase 3149824 4096) ∧ s.cfg.busy 0x01#8 = true ∧ s.cfg.busy 0x20#8 = false ∧
      validHalf s.store.half0.cells = false ∧ validHalf s.store.half1.cells = false := by decide

/-- The store with half 0 current, one offer in the queue. -/
def store1 : Store :=
  { Store.factory with
    half0 := { cells := [.record { seq := 0, payload := .snapBegin 768 3328 32 }], cond := .current }, current := some .h0,
    nextFree := 7679, nextSeq := 7, queue := [{ payload := .slotCode 0, owner := .holdMap }] }

theorem test_wit_records :
    let s : State := { held true false none with store := store1 }
    s.phase = .running ∧ s.store.queue = [{ payload := .slotCode 0, owner := .holdMap }] ∧ s.store.current = some .h0 ∧
      s.store.closed = false ∧ s.store.port = none ∧ s.store.rowWait = none ∧ s.store.compaction = .none ∧
      s.store.nextFree < 7680 ∧
      (out (exec .recordWriteBegin s)).store.port = some (.record .h0 7679 rec1) ∧
      (out (exec .recordWriteEnd (out (exec .recordWriteBegin s)))).tracker =
        .eraseHeld (op1 .eraseSector none) (hold1 false false none) :=
  ⟨by decide, by decide, by decide, by decide, by decide, by decide, by decide, by decide, rfl, by decide⟩

theorem test_wit_rows :
    let waits : State := { up with store := { store1 with rowWait := some (.settings defaultSettings) } }
    let runs (w : RowWrite) : State := { up with store := { store1 with port := some (.row w) } }
    waits.phase = .running ∧ waits.store.port = none ∧ waits.store.rowWait = some (.settings defaultSettings) ∧
      (runs (.settings defaultSettings)).phase = .running ∧
      (runs (.settings defaultSettings)).store.port = some (.row (.settings defaultSettings)) ∧
      (runs (.target 15 TargetStatic.blank)).store.port = some (.row (.target 15 TargetStatic.blank)) :=
  ⟨rfl, rfl, rfl, rfl, rfl, rfl⟩

theorem test_wit_compaction :
    let s (st : Store) : State := { up with store := st }
    let copy := up.snapCopy
    ({ store1 with compaction := .due } : Store).compaction = .due ∧ (store1.half (otherHalf .h0)).cond = .blank ∧
      (({ store1 with half1 := { cells := [.torn], cond := .superseded } } : Store).half (otherHalf .h0)).cond =
        .superseded ∧
      (s { store1 with compaction := .running .h1 copy 0 }).store.compaction = .running .h1 copy 0 ∧
      0 + 1 < (s store1).snapLength copy ∧ 1675 + 1 = (s store1).snapLength copy ∧
      ({ store1 with half1 := { cells := [.torn], cond := .erasing } } : Store).half1.cond = .erasing ∧
      ({ store1 with half0 := { cells := [.torn], cond := .erasing } } : Store).half0.cond = .erasing := by decide

theorem test_wit_snapshot_port :
    let st : Store := { store1 with compaction := .running .h1 up.snapCopy 1675 }
    let w : RowWrite := .settings defaultSettings
    let p : PortOp := .snapshot .h1 1675 rec1
    st.compaction = .running .h1 up.snapCopy 1675 ∧ st.port = none ∧ st.rowWait = none ∧
      ({ st with rowWait := some w } : Store).rowWait = some w ∧ ({ st with port := some p } : Store).port = some p ∧
      ({ store1 with compaction := .due, replayed := some up.snapCopy } : Store).replayed = some up.snapCopy :=
  ⟨rfl, rfl, rfl, rfl, rfl, rfl⟩

/-- R141, R149: two commands write a snapshot record, and a reset between them leaves its position failing. -/
theorem test_snapshot_write :
    let s : State := { up with store := { store1 with compaction := .running .h1 up.snapCopy 0 } }
    let begun := s.writeSnapshot
    (begun.store.half1.cells = [] ∧ begun.store.nextSeq = 7 ∧ begun.store.port.isSome = true) ∧
      (begun.store.cut false 0).half1.cells = [.torn] ∧
      (begun.writeSnapshot.store.half1.cells.length = 1 ∧ begun.writeSnapshot.store.nextSeq = 8 ∧
        begun.writeSnapshot.store.port = none) ∧
      begun.writeSnapshot.writeSnapshot.store.port.isSome = true :=
  ⟨⟨rfl, rfl, rfl⟩, rfl, ⟨rfl, rfl, rfl⟩, rfl⟩

/-- R141: a half whose erase was cut is erased again, though it reads blank, and after another reset too; once erased, not. -/
theorem test_cut_erase_again :
    let h : HalfState := ({ cells := [], cond := .erasing } : HalfState).cutBy 0
    (h.cells = [] ∧ (h.atStart false).cond = .erasing ∧ ((h.cutBy 0).atStart false).cond = .erasing) ∧
      (h.atStart false).erased = { cells := [], cond := .blank } ∧ h.closes true = true ∧
      (((h.atStart false).erased.cutBy 0).atStart false).cond = .blank := by decide

/-- R154: after a torn replay the snapshot carries the state that replay gave, not the one that stands at its start. -/
theorem test_torn_copy :
    let old := up.snapCopy
    let s : State := { up with code := 3, store := { store1 with compaction := .due, replayed := some old } }
    s.startCompaction.store.compaction = .running .h1 old 0 ∧ s.startCompaction.store.replayed = none ∧
      old.code = 0 ∧ ({ s with store := { s.store with replayed := none } } : State).startCompaction.store.compaction =
        .running .h1 { old with code := 3 } 0 :=
  ⟨rfl, rfl, rfl, rfl⟩

/-! #### Boundary forms: ends of ranges, pages, rows and a replayed journal -/

/-- A READ at the capacity of a flash of 8 MiB, and one at the last byte of a flash without regions. -/
theorem test_wit_read_ends :
    let s : State := { up with cfg := { up.cfg with geometry := { up.cfg.geometry with capacity := 8 } } }
    let f : State := { up with cfg := { up.cfg with partition := [] } }
    s.takes .read (tx 0x03#8 8388608 []) = true ∧ s.cfg.bytes ≤ txnAddress (tx 0x03#8 8388608 []) ∧
      f.takes .read (tx 0x03#8 16777215 []) = true ∧ txnAddress (tx 0x03#8 16777215 []) + 1 = f.cfg.bytes ∧
      f.sourceAt 16777215 = .host ∧ f.sourceAt 0 = .host := by decide

/-- Report pages at their first and last byte, with and without a snapshot, log page 0 under ON_READ, the chunk-state page of
a slot and the entry of a log. -/
theorem test_wit_report_pages :
    let s := with1 (slot1 .filling (chunk1 .complete .written))
    let l := up.appendLog (LogEntry.of .sealed)
    up.takes .read (tx 0x03#8 3113216 []) = true ∧
      txnAddress (tx 0x03#8 3113216 []) = up.cfg.startOf .control * 4096 + 256 * 1 + 0 ∧
      txnAddress (tx 0x03#8 3113471 []) = up.cfg.startOf .control * 4096 + 256 * 1 + 255 ∧
      txnAddress (tx 0x03#8 3113728 []) = up.cfg.startOf .control * 4096 + 256 * 3 + 0 ∧
      (up.reportPage 1).isSome = true ∧ (up.reportPage 3).isSome = true ∧ lookupAt 1 up.snapshots = none ∧
      lookupAt 1 ({ up with snapshots := [(1, List.replicate 256 0)] } : State).snapshots = some (List.replicate 256 0) ∧
      up.cfg.settings.alertMode = .onRead ∧ 0 < up.slotCount ∧ (s.reportPage 48).isSome = true ∧
      s.chunkAt 0 1 = some (chunk1 .complete .written) ∧ s.chunkAt 0 256 = none ∧ (l.reportPage 3).isSome = true ∧
      l.log[0]?.isSome = true := by decide +kernel

/-- Erases in staging: the chunk of a FILLING slot, and the header of a HEADER and of a REJECTED slot the journal holds as
FILLING, with the guard open and with eight erases in the window. -/
theorem test_wit_staging_erase_slots :
    let f := with1 (slot1 .filling (chunk1 .complete .written))
    let r (st : SlotState) := with1 { SlotRec.blank with state := st, journaled := .filling }
    let full (s : State) : State := { s with guard := List.replicate 8 0 }
    let used (s : State) : Nat := (s.guard.filter fun x => decide (0 < x + s.cfg.settings.egWindow) && decide (x ≤ 0)).length
    f.takes .eraseSector (tx 0x20#8 3149824 []) = true ∧ f.slotOf (f.cfg.logicalOf 3149824) = some (0, 1) ∧
      (f.slotAt 0).state = .filling ∧ f.chunkAt 0 1 = some (chunk1 .complete .written) ∧
      (f.eraseDecision 1).namesRecord = false ∧ used f < f.cfg.settings.egMax ∧
      (full f).cfg.settings.egMax ≤ used (full f) ∧ (full f).slotOf ((full f).cfg.logicalOf 3149824) = some (0, 1) ∧
      (r .header).slotOf ((r .header).cfg.logicalOf 3145728) = some (0, 0) ∧ ((r .header).slotAt 0).state = .header ∧
      ((r .rejected).slotAt 0).state = .rejected ∧ ((r .rejected).slotAt 0).journaled ≠ .empty ∧
      ((r .rejected).eraseDecision 0).namesRecord = false ∧ used (r .rejected) < (r .rejected).cfg.settings.egMax ∧
      ({ up with health := [(1, { wear := 0, suspect := true, retired := false })], pool := [] } : State).eraseDecision 1 =
        { case := .degrade, logical := 1, source := 1, target := 1, wear := none } := by decide

/-- A FALLBACK slot is emptied and its target loses it; an ACTIVE slot is kept; with nothing to empty no record is offered. -/
theorem test_wit_clear_staging :
    let s := role .fallback { TargetDyn.blank with fallback := some 0 }
    s.takesRequests ∧ (s.slotAt 0).state = .fallback ∧ s.bootedSlot = none ∧ (s.slotAt 0).target? = some 0 ∧
      (s.slotAt 0).journaled ≠ .empty ∧ ((role .active TargetDyn.blank).slotAt 0).state = .active ∧ up.takesRequests ∧
      (up.slotAt 0).state = .empty ∧ up.store.owes .request = false := by decide

/-- The end of a header page where the manifest of 10 words is whole, and where one of 65 words is not, and of a page of a
COMPLETE chunk, with an engine that has nothing to do and one with a job; and an ignored write. -/
theorem test_wit_page_ends :
    let h (n : Word) : State := { with1 { header1 with captured := some (0x314D4B48#32, n) } with
      flash := busyFlash, tracker := .programInFlight (op1 .program (some (0, 0))) }
    let c : State := { with1 (slot1 .filling (chunk1 .complete .written)) with
      flash := busyFlash, tracker := .programInFlight (op1 .program (some (1, 1))) }
    (h 10).slotOf 0 = some (0, 0) ∧ ((h 10).slotAt 0).state = .header ∧
      ((h 10).slotAt 0).captured = some (0x314D4B48#32, 10) ∧ (h 10).manifestJobs = [] ∧
      (∀ g, g < ((10#32).toNat + 63) / 64 → ((h 10).slotAt 0).headerMask.getLsbD g = true) ∧
      ((h 65).slotAt 0).headerMask.getLsbD 1 = false ∧ 1 < ((65#32).toNat + 63) / 64 ∧ (h 10).job = none ∧
      (h 10).scan = none ∧ (h 10).aside = none ∧ c.slotOf 1 = some (0, 1) ∧
      c.chunkAt 0 1 = some (chunk1 .complete .written) ∧ c.verifyQueue = [] ∧
      ({ c with job := some (manifestJob .reload 5) } : State).job.isSome = true ∧
      ({ Flash.blank with ignored := true } : Flash).op = none := by decide

/-- A reload of a FILLING slot whose chunk the host has erased, and the third check of R80 failing alone. -/
theorem test_wit_reload_erased :
    let s (c : Chunk) : State := atTag { slot1 .filling c with reload := true } .reload 5
    let erased : Chunk := { chunk1 .stale .written with hostErased := true }
    let small : State := { s (chunk1 .stale .recovered) with cfg := { up.cfg with sPhys := 0 } }
    (s erased).verdictJob .reload = some (manifestJob .reload 5) ∧ (s erased).chunkAt 0 1 = some erased ∧
      (s erased).manifestWords (manifestJob .reload 5) = words1 5 ∧
      (s erased).foldMatches (manifestJob .reload 5) = true ∧ ((s erased).slotAt 0).summary = some image1 ∧
      small.verdictJob .reload = some (manifestJob .reload 5) ∧ min (small.slotSize - 1) 1015 = 0 := by decide

/-- A compaction that is due: over a half that is not blank, over a blank one, and one of a start-up. -/
theorem test_wit_records_due :
    let due (hold : Bool) (c : HalfCond) : Store :=
      { store1 with compaction := .due, startHold := hold, half1 := { cells := [], cond := c } }
    (due false .erasing).compaction = .due ∧ (due false .erasing).startHold = false ∧
      ((due false .erasing).half (otherHalf .h0)).cond ≠ .blank ∧ ((due false .blank).half (otherHalf .h0)).cond = .blank ∧
      (due true .erasing).startHold = true := by decide

/-- The release with records still in the queue, and of a boot event that is no start-up's. -/
theorem test_wit_release_queue :
    let s (st : Store) (u : Bool) : State :=
      { up with hrstDriven := true, portOpen := false, boot := some { event true with startup := u }, store := st }
    (s store1 true).store.owes .boot = false ∧ (s store1 true).store.queue ≠ [] ∧ (s up.store false).store.queue = [] ∧
      (s up.store false).store.waiting = [] := by decide

/-- Rows that are stored and fail R5, R26 or R142: 3 address bytes beyond 16 MiB, an empty profile, an empty partition; rows
that are stored and good; two boot-mapped target rows. -/
theorem test_wit_startup_rows :
    let st : Store := { Store.factory with
      geometryRow := .stored { capacity := 32, addrBytes := 3, busyBit := 0, failBit := 5 },
      profileRow := .stored [], partitionRow := .stored [], identityRow := .garbled, settingsRow := .garbled,
      keyRow := .stored { keys := List.replicate 8 .empty, locked := true },
      targetRows := [.stored { TargetStatic.blank with bootMapped := true }, .stored { TargetStatic.blank with bootMapped := true }] }
    let ok : Store := { Store.factory with
      geometryRow := .stored defaultGeometry, profileRow := .stored factoryProfile,
      partitionRow := .stored (defaultPartition 4096) }
    st.geometryRow = .stored { capacity := 32, addrBytes := 3, busyBit := 0, failBit := 5 } ∧ st.profileRow = .stored [] ∧
      st.partitionRow = .stored [] ∧ st.keyRow = .stored { keys := List.replicate 8 .empty, locked := true } ∧
      ok.geometryRow = .stored defaultGeometry ∧ ok.profileRow = .stored factoryProfile ∧
      ok.partitionRow = .stored (defaultPartition 4096) ∧
      1 < st.targetRows.length :=
  ⟨rfl, rfl, rfl, rfl, rfl, rfl, rfl, by decide⟩

/-- The rows that STARTUP takes as they are stored: the defaults, written out. -/
theorem test_wit_startup_good :
    let p := defaultProfile defaultGeometry
    let used := (defaultPartition 4096).filter fun r => r.length != 0
    ({ Store.factory with profileRow := .stored p } : Store).profileRow = .stored p ∧
      (∀ e ∈ p, e.cls = .read ∨ e.cls = .program ∨ e.cls = .eraseSector ∨ e.cls = .eraseLarge →
        e.addrLen = 3 ∨ e.addrLen = 4) ∧
      (∀ e ∈ p, e.cls = .statusRead ∨ e.cls = .writeEnable ∨ e.cls = .writeDisable ∨ e.cls = .eraseChip →
        e.addrLen = 0 ∧ e.dummyLen = 0) ∧
      (∀ e ∈ p, e.cls ≠ .block → e.addrLen = 4 → defaultGeometry.addrBytes ≠ 3) ∧
      (p.any fun e => e.cls == .read) = true ∧ (p.any fun e => e.cls == .statusRead) = true ∧
      (p.any fun e => e.cls == .writeEnable) = true ∧ (p.any fun e => e.cls == .writeDisable) = true ∧
      used.filter (fun x => x.kind == .staging) = [{ kind := .staging, start := 768, length := 3328 }] ∧
      used.filter (fun x => x.kind == .control) = [{ kind := .control, start := 760, length := 8 }] ∧
      (used.filter fun x => x.kind == .bootWindow).length ≤ 1 ∧ (∀ r ∈ used, r.start + r.length ≤ 4096) ∧
      used.Pairwise fun a b => a.start + a.length ≤ b.start ∨ b.start + b.length ≤ a.start :=
  ⟨rfl, by decide, by decide, by decide, by decide, by decide, by decide, by decide, by decide, by decide, by decide,
    by decide, by decide⟩

/-- What a journal half holds: a snapshot of two records, a move, a health entry, the SLOT record of an image and a TARGET
record. -/
def payloads1 (d : TargetDyn) (st : SlotState) : List Payload :=
  [.snapBegin 768 3328 32, .snapEnd 2, .map 1 3296, .health 1 { wear := 256, suspect := true, retired := false },
    .slotCode 0, .slot 0 { state := st, decayed := false, summary := some image1 }, .target 0 d]

def journal1 (d : TargetDyn) (st : SlotState) : List Record := recordsFrom 4 (payloads1 d st)

/-- The wait for an idle flash with that journal in half 1, and with a spare count. -/
def waiting1 (d : TargetDyn) (st : SlotState) (after : List RecCell) (sSp : Nat) : State :=
  { State.reset with
    phase := .idleWait, cfg := { State.reset.cfg with sSp := sSp },
    store := { Store.factory with
      half1 := { cells := (journal1 d st).map RecCell.record ++ after, cond := .current } } }

/-- What replay gives of slot 0, target 0 and logical sector 1. -/
def replayed (d : TargetDyn) (st : SlotState) : SlotRec × TargetDyn × Nat :=
  let q := (journal1 d st).foldl State.applyRecord (waiting1 d st [] 32)
  (q.slotAt 0, q.dynAt 0, q.physical 1)

theorem test_journal (d : TargetDyn) (st : SlotState) :
    halfRecords (waiting1 d st [] 32).store.half1.cells = journal1 d st := by
  show halfRecords ((journal1 d st).map RecCell.record ++ []) = _
  rw [List.append_nil]
  exact halfRecords_recordsFrom _ _

theorem test_valid (d : TargetDyn) (st : SlotState) :
    validHalf (waiting1 d st [] 32).store.half1.cells = true :=
  (validHalf_of _ _ (test_journal d st)).trans rfl

theorem test_chosen (d : TargetDyn) (st : SlotState) : (waiting1 d st [] 32).store.chosenHalf = some .h1 :=
  Store.chosenHalf_h1 _ rfl (test_valid d st)

theorem test_signature (d : TargetDyn) (st : SlotState) :
    (waiting1 d st [] 32).signatureMatches (journal1 d st) = true := by
  have hs : (waiting1 d st [] 32).cfg.stagingStart = 768 := by
    simp only [waiting1]; decide
  have hp : (waiting1 d st [] 32).cfg.sPhys = 3328 := by
    simp only [waiting1]; decide
  simp only [State.signatureMatches, journal1, payloads1, recordsFrom, hs, hp]
  simp [waiting1]

theorem test_replayed (d : TargetDyn) (st : SlotState) :
    let q := (waiting1 d st [] 32).replay
    (q.slotAt 0, q.dynAt 0, q.physical 1) = replayed d st := by
  obtain ⟨f, hf⟩ := State.replay_of_chosen _ .h1 _ (test_chosen d st) (test_journal d st)
  rw [if_pos (test_signature d st)] at hf
  simp only [hf, State.updStore_slotAt, State.updStore_dynAt, State.updStore_physical, replayed]

/-- A journal that replay takes whole: its records, what follows them, the signature in force and another one. -/
theorem test_wit_replay :
    let s := waiting1 TargetDyn.blank .sealed [] 32
    s.phase = .idleWait ∧ s.flash.ignored = false ∧ s.store.compaction = .none ∧ s.formsWf ∧ s.targets.length = 16 ∧
      s.cfg.busy 0x20#8 = false ∧ s.bootTarget = none ∧ validHalf s.store.half0.cells = false ∧
      (payloads1 TargetDyn.blank .sealed)[1]? = some (.snapEnd 2) ∧ (payloads1 TargetDyn.blank .sealed).length = 7 ∧
      (waiting1 TargetDyn.blank .sealed [] 8).cfg.sSp ≠ 32 := by decide

/-- Each position of that journal reads as its record, and the one after it is blank, or fails where a record was cut. -/
theorem test_wit_replay_reads (d : TargetDyn) (st : SlotState) (q : Nat) :
    ((waiting1 d st [] 32).store.half1.cells[q]?.bind RecCell.readable).map Record.payload = (payloads1 d st)[q]? ∧
      (waiting1 d st [.torn] 32).store.half1.cells[7]? = some .torn := by
  refine ⟨?_, rfl⟩
  show (((recordsFrom 4 (payloads1 d st)).map RecCell.record ++ [])[q]?.bind RecCell.readable).map Record.payload = _
  rw [List.append_nil, readable_recordsFrom, recordsFrom_payload]

/-- What there is to reconcile: a slot in each role of its target, in none, and below the floor. -/
theorem test_wit_reconcile :
    let shows (d : TargetDyn) (st : SlotState) : Bool :=
      decide ((replayed d st).1.target? = some 0 ∧ (replayed d st).1.state = st ∧ (replayed d st).2 = (d, 3296) ∧
        (replayed d st).1.version = 5)
    shows { TargetDyn.blank with trial := some 0 } .sealed = true ∧
      shows { TargetDyn.blank with active := some 0, floor := 5 } .trial = true ∧
      shows { TargetDyn.blank with fallback := some 0 } .active = true ∧ shows TargetDyn.blank .trial = true ∧
      shows { TargetDyn.blank with floor := 6 } .fallback = true ∧ shows { TargetDyn.blank with floor := 6 } .sealed = true ∧
      shows { TargetDyn.blank with floor := 6 } .filling = true ∧ shows { TargetDyn.blank with floor := 5 } .filling = true ∧
      shows TargetDyn.blank .failed = true := by decide +kernel

end Sys2Proof.Tests
end

section
/-! The end of a program or an erase (O41): what the sweep and the engine leave of the slots, what a suspect mark leaves
of the part, and what the owners of an address do at the end of its operation. -/

namespace Sys2Proof.Machine

open Sys2Proof

/-! ### Status bytes (R1) -/

theorem getLsbD_setBit_false (b : Byte) (i j : Nat) :
    (setBit b i false).getLsbD j = (b.getLsbD j && !decide (j = i)) := by
  simp only [setBit, Bool.false_eq_true, if_false, BitVec.getLsbD_and, BitVec.getLsbD_not, BitVec.getLsbD_ofNat,
    Nat.testBit_two_pow]
  by_cases hj : j < 8
  · simp [hj, eq_comm]
  · simp [hj, BitVec.getLsbD_of_ge b j (by omega)]

/-- While the flash runs an operation it answers as it does. -/
theorem State.flashAnswer_of_op {s : State} {fop : FlashOp} (h : s.flash.op = some fop) (raw : Byte) :
    s.flashAnswer raw = raw := by simp [State.flashAnswer, h]

theorem State.busy_flashAnswer_ignored {s : State} (ho : s.flash.op = none) (hi : s.flash.ignored = true) (raw : Byte) :
    s.cfg.busy (s.flashAnswer raw) = false := by
  simp [State.flashAnswer, ho, hi, InForce.busy, getLsbD_setBit_false]

theorem State.failed_flashAnswer_ignored {s : State} (ho : s.flash.op = none) (hi : s.flash.ignored = true)
    (raw : Byte) : s.cfg.failed (s.flashAnswer raw) = false := by
  simp [State.flashAnswer, ho, hi, InForce.failed, getLsbD_setBit_false]

/-! ### Page masks -/

theorem getLsbD_fullMask {n : Nat} (hn : n ≤ 16) (g : Nat) : (fullMask n).getLsbD g = decide (g < n) := by
  simp only [fullMask, BitVec.getLsbD_ofNat, Nat.testBit_two_pow_sub_one, Bool.and_eq_right_iff_imp,
    decide_eq_true_eq]
  omega

/-- A mask covers the first `n` pages when each of their bits is set. -/
theorem coversPages_iff (mask : BitVec 16) {n : Nat} (hn : n ≤ 16) :
    coversPages mask n = true ↔ ∀ g, g < n → mask.getLsbD g = true := by
  rw [coversPages, beq_iff_eq, BitVec.eq_of_getLsbD_eq_iff]
  simp only [BitVec.getLsbD_and, getLsbD_fullMask hn, Bool.and_eq_right_iff_imp, decide_eq_true_eq]
  exact ⟨fun h g hg => h g (by omega) hg, fun h g _ hg => h g hg⟩

/-! ### Chunks under an update of one chunk -/

@[simp] theorem SlotRec.updChunk_state (r : SlotRec) (c : Nat) (f : Chunk → Chunk) :
    (r.updChunk c f).state = r.state := by
  unfold SlotRec.updChunk
  split <;> rfl

@[simp] theorem State.slotAt_updChunk_state (s : State) (i c j : Nat) (f : Chunk → Chunk) :
    ((s.updChunk i c f).slotAt j).state = (s.slotAt j).state := by
  rw [State.updChunk, State.slotAt_updSlot]
  split
  · exact SlotRec.updChunk_state ..
  · rfl

theorem State.slotAt_updChunk_ne (s : State) {i j : Nat} (h : i ≠ j) (c : Nat) (f : Chunk → Chunk) :
    (s.updChunk i c f).slotAt j = s.slotAt j :=
  s.slotAt_updSlot_ne h _

theorem SlotRec.chunkAt_blank (c : Nat) : SlotRec.blank.chunkAt c = none := by simp [SlotRec.chunkAt, SlotRec.blank]

/-- Beyond the slot records every slot reads as blank. -/
theorem State.slotAt_of_length_le {s : State} {i : Nat} (h : s.slots.length ≤ i) : s.slotAt i = SlotRec.blank := by
  simp [State.slotAt, List.getElem?_eq_none h]

theorem State.chunkAt_updChunk (s : State) (i c j d : Nat) (f : Chunk → Chunk) :
    (s.updChunk i c f).chunkAt j d = if i = j ∧ c = d then (s.chunkAt j d).map f else s.chunkAt j d := by
  simp only [State.chunkAt, State.updChunk, State.slotAt_updSlot]
  by_cases hl : j < s.slots.length
  · by_cases hi : i = j <;> simp [hl, hi, SlotRec.chunkAt_updChunk]
  · simp [hl, State.slotAt_of_length_le (Nat.le_of_not_lt hl), SlotRec.chunkAt_blank]

/-! ### What the sweep and the engine leave of the slots (R104, R106) -/

/-- `t` has the slots of `s`, but for queued marks set on chunks of FILLING slots. -/
structure State.MarksOnly (s t : State) : Prop where
  state_eq : ∀ i, (t.slotAt i).state = (s.slotAt i).state
  slotAt_eq : ∀ i, (s.slotAt i).state ≠ .filling → t.slotAt i = s.slotAt i
  chunkAt_eq : ∀ i k,
    t.chunkAt i k = s.chunkAt i k ∨ t.chunkAt i k = (s.chunkAt i k).map fun c => { c with queued := true }

theorem State.MarksOnly.of_slots {s t : State} (h : t.slots = s.slots) : s.MarksOnly t := by
  have hslot (i : Nat) : t.slotAt i = s.slotAt i := by rw [State.slotAt, State.slotAt, h]
  exact ⟨fun i => congrArg _ (hslot i), fun i _ => hslot i, fun i k => .inl (congrArg (SlotRec.chunkAt · k) (hslot i))⟩

theorem State.MarksOnly.refl (s : State) : s.MarksOnly s := .of_slots rfl

theorem State.MarksOnly.trans {s t u : State} (hst : s.MarksOnly t) (htu : t.MarksOnly u) : s.MarksOnly u where
  state_eq i := (htu.state_eq i).trans (hst.state_eq i)
  slotAt_eq i h := (htu.slotAt_eq i (hst.state_eq i ▸ h)).trans (hst.slotAt_eq i h)
  chunkAt_eq i k := by
    rcases htu.chunkAt_eq i k with e' | e' <;> rw [e']
    · exact hst.chunkAt_eq i k
    · rcases hst.chunkAt_eq i k with e | e <;> rw [e]
      · exact .inr rfl
      · exact .inr (Option.map_map ..)

theorem State.joinQueue_marksOnly {s : State} {e : Entry} (h : (s.slotAt e.slot).state = .filling) :
    s.MarksOnly (s.joinQueue e) := by
  refine ⟨fun i => s.slotAt_updChunk_state .., fun i hi => ?_, fun i k => ?_⟩
  · exact s.slotAt_updChunk_ne (fun he : e.slot = i => hi (he ▸ h)) ..
  · have hc := s.chunkAt_updChunk e.slot e.chunk i k fun c => { c with queued := true }
    split at hc
    · exact .inr hc
    · exact .inl hc

/-- The sweep takes chunks of FILLING slots alone. -/
theorem State.filling_of_eligible {s : State} {p : Nat × Nat} (h : p ∈ s.eligibleChunks) :
    (s.slotAt p.1).state = .filling := by
  obtain ⟨⟨r, i⟩, hr, hp⟩ := List.mem_flatMap.1 h
  have hi : s.slots[i]? = some r := List.mem_zipIdx_iff_getElem?.1 hr
  dsimp only at hp
  split at hp
  · next hf =>
    obtain ⟨⟨c, k⟩, -, hk⟩ := List.mem_filterMap.1 hp
    obtain ⟨-, hk⟩ := Option.ite_none_right_eq_some.1 hk
    have hpi : p.1 = i := congrArg Prod.fst (Option.some.inj hk).symm
    simpa [State.slotAt, hpi, hi] using hf.1
  · cases hp

/-- A property that every joining of an eligible chunk keeps holds after the sweep. -/
theorem State.sweep_induction {P : State → Prop} {s : State} (h0 : P s)
    (hj : ∀ u p, p ∈ s.eligibleChunks → P u → P (u.joinQueue { kind := .chunk, slot := p.1, chunk := p.2 })) :
    P s.sweep := by
  unfold State.sweep
  have hl : ∀ p ∈ s.eligibleChunks.take (queueCapacity - s.verifyQueue.length), p ∈ s.eligibleChunks :=
    fun p => List.mem_of_mem_take
  generalize s.eligibleChunks.take (queueCapacity - s.verifyQueue.length) = l at hl
  exact List.foldlRecOn l _ h0 fun u hu p hp => hj u p (hl p hp) hu

theorem State.sweep_marksOnly (s : State) : s.MarksOnly s.sweep :=
  State.sweep_induction (.refl s) fun _ _ hp hu =>
    State.MarksOnly.trans hu (State.joinQueue_marksOnly ((hu.state_eq _).trans (State.filling_of_eligible hp)))

/-- The sweep only lengthens the verify queue at its tail. -/
theorem State.sweep_verifyQueue (s : State) : ∃ q, s.sweep.verifyQueue = s.verifyQueue ++ q :=
  State.sweep_induction (P := fun u => ∃ q, u.verifyQueue = s.verifyQueue ++ q) ⟨[], (List.append_nil _).symm⟩
    fun _ _ _ ⟨_, hq⟩ => ⟨_, (congrArg (· ++ _) hq).trans (List.append_assoc ..)⟩

theorem State.startJob_of_job {s : State} (h : s.job.isSome = true) : s.startJob = s := by simp [State.startJob, h]

/-- R106: with no job, no scan and no job put aside, the first manifest job is put in flight. -/
theorem State.startJob_of_manifest {s : State} {m : ManifestJob} {ms : List ManifestJob} (hj : s.job = none)
    (hs : s.scan = none) (ha : s.aside = none) (hm : s.manifestJobs = m :: ms) :
    s.startJob = { s with job := some (s.manifestStart (if m.reload then .reload else .admission) m.slot) } := by
  simp [State.startJob, hj, hs, ha, hm]

/-- R106: with nothing before it, the head of the verify queue is put in flight, and the sweep follows. -/
theorem State.startJob_of_queue {s : State} {e : Entry} {q : List Entry} (hj : s.job = none) (hs : s.scan = none)
    (ha : s.aside = none) (hm : s.manifestJobs = []) (hq : s.verifyQueue = e :: q) :
    s.startJob = { s with job := some (s.entryStart e), verifyQueue := q }.sweep := by
  simp [State.startJob, hj, hs, ha, hm, hq]

theorem State.startJob_marksOnly (s : State) : s.MarksOnly s.startJob := by
  unfold State.startJob
  split
  · exact .refl s
  · split
    · exact .of_slots rfl
    · split
      · exact .of_slots rfl
      · split
        · exact .of_slots rfl
        · split
          · next e q _ =>
            exact .trans (t := { s with job := some (s.entryStart e), verifyQueue := q }) (.of_slots rfl)
              (State.sweep_marksOnly _)
          · exact .refl s

theorem State.resettle_marksOnly (s : State) : s.MarksOnly s.resettle :=
  State.MarksOnly.trans s.sweep_marksOnly s.sweep.startJob_marksOnly

/-- A reading of chunks that does not see the queued mark reads the same after marks are set. -/
theorem State.MarksOnly.chunk_map {s t : State} (h : s.MarksOnly t) {α : Type} (f : Chunk → α)
    (hf : ∀ c : Chunk, f { c with queued := true } = f c) (i k : Nat) :
    (t.chunkAt i k).map f = (s.chunkAt i k).map f := by
  rcases h.chunkAt_eq i k with e | e <;> rw [e]
  cases s.chunkAt i k with
  | none => rfl
  | some c => exact congrArg some (hf c)

/-- A queued mark that is set stays set. -/
theorem State.MarksOnly.queued {s t : State} (h : s.MarksOnly t) {i k : Nat}
    (hq : (s.chunkAt i k).map Chunk.queued = some true) : (t.chunkAt i k).map Chunk.queued = some true := by
  rcases h.chunkAt_eq i k with e | e
  · rw [e, hq]
  · obtain ⟨c, hc, -⟩ := Option.map_eq_some_iff.1 hq
    rw [e, hc]
    rfl

section
variable (s : State)

@[simp] theorem State.sweep_job : s.sweep.job = s.job := by rw [State.sweep_eq]
@[simp] theorem State.sweep_aside : s.sweep.aside = s.aside := by rw [State.sweep_eq]
@[simp] theorem State.sweep_scan : s.sweep.scan = s.scan := by rw [State.sweep_eq]
@[simp] theorem State.sweep_manifestJobs : s.sweep.manifestJobs = s.manifestJobs := by rw [State.sweep_eq]

@[simp] theorem State.resettle_tracker : s.resettle.tracker = s.tracker := by rw [State.resettle_eq]
@[simp] theorem State.resettle_echo : s.resettle.echo = s.echo := by rw [State.resettle_eq]
@[simp] theorem State.resettle_pendingWD : s.resettle.pendingWD = s.pendingWD := by rw [State.resettle_eq]
@[simp] theorem State.resettle_map : s.resettle.map = s.map := by rw [State.resettle_eq]
@[simp] theorem State.resettle_pool : s.resettle.pool = s.pool := by rw [State.resettle_eq]
@[simp] theorem State.resettle_health : s.resettle.health = s.health := by rw [State.resettle_eq]
@[simp] theorem State.resettle_log : s.resettle.log = s.log := by rw [State.resettle_eq]
@[simp] theorem State.resettle_store : s.resettle.store = s.store := by rw [State.resettle_eq]
@[simp] theorem State.resettle_flash : s.resettle.flash = s.flash := by rw [State.resettle_eq]
@[simp] theorem State.resettle_manifestJobs : s.resettle.manifestJobs = s.manifestJobs := by rw [State.resettle_eq]

end

/-- A busy engine takes no job: the verify queue keeps its entries in front. -/
theorem State.resettle_verifyQueue {s : State} (h : s.job.isSome = true) :
    ∃ q, s.resettle.verifyQueue = s.verifyQueue ++ q := by
  rw [State.resettle, State.startJob_of_job (by rwa [State.sweep_job])]
  exact s.sweep_verifyQueue

/-- R106: an engine with nothing else to do takes the first manifest job. -/
theorem State.resettle_job_of_manifest {s : State} {m : ManifestJob} {ms : List ManifestJob} (hj : s.job = none)
    (hs : s.scan = none) (ha : s.aside = none) (hm : s.manifestJobs = m :: ms) :
    s.resettle.job = some (s.sweep.manifestStart (if m.reload then .reload else .admission) m.slot) := by
  rw [State.resettle, State.startJob_of_manifest (s.sweep_job.trans hj) (s.sweep_scan.trans hs)
    (s.sweep_aside.trans ha) (s.sweep_manifestJobs.trans hm)]

/-- R106: an engine with nothing else to do takes the head of the verify queue. -/
theorem State.resettle_job_of_queue {s : State} {e : Entry} {q : List Entry} (hj : s.job = none) (hs : s.scan = none)
    (ha : s.aside = none) (hm : s.manifestJobs = []) (hq : s.verifyQueue = e :: q) :
    s.resettle.job = some (s.sweep.entryStart e) := by
  obtain ⟨q', hq'⟩ := s.sweep_verifyQueue
  rw [hq, List.cons_append] at hq'
  rw [State.resettle, State.startJob_of_queue (s.sweep_job.trans hj) (s.sweep_scan.trans hs)
    (s.sweep_aside.trans ha) (s.sweep_manifestJobs.trans hm) hq', State.sweep_job]

/-! ### The suspect mark (R50) and the chunk of an erase (R99) -/

/-- The suspect mark touches the log, the health table, the strikes and the offers, and nothing else. -/
theorem State.markSuspect_eq (s : State) (r : Reason) (p l : Nat) (a : Option Nat) :
    s.markSuspect r p l a = { s with
      log := (s.markSuspect r p l a).log, overrun := (s.markSuspect r p l a).overrun,
      nextLogSeq := (s.markSuspect r p l a).nextLogSeq, alertPending := (s.markSuspect r p l a).alertPending,
      health := (s.markSuspect r p l a).health, strikes := (s.markSuspect r p l a).strikes,
      store := (s.markSuspect r p l a).store } := by
  unfold State.markSuspect
  split
  · rfl
  · dsimp only
    rw [State.offer_eq]
    rfl

section
variable (s : State) (r : Reason) (p l : Nat) (a : Option Nat)

@[simp] theorem State.markSuspect_tracker : (s.markSuspect r p l a).tracker = s.tracker := by rw [State.markSuspect_eq]
@[simp] theorem State.markSuspect_echo : (s.markSuspect r p l a).echo = s.echo := by rw [State.markSuspect_eq]
@[simp] theorem State.markSuspect_pendingWD : (s.markSuspect r p l a).pendingWD = s.pendingWD := by
  rw [State.markSuspect_eq]
@[simp] theorem State.markSuspect_map : (s.markSuspect r p l a).map = s.map := by rw [State.markSuspect_eq]
@[simp] theorem State.markSuspect_pool : (s.markSuspect r p l a).pool = s.pool := by rw [State.markSuspect_eq]
@[simp] theorem State.markSuspect_clean : (s.markSuspect r p l a).clean = s.clean := by rw [State.markSuspect_eq]
@[simp] theorem State.markSuspect_slots : (s.markSuspect r p l a).slots = s.slots := by rw [State.markSuspect_eq]
@[simp] theorem State.markSuspect_flash : (s.markSuspect r p l a).flash = s.flash := by rw [State.markSuspect_eq]

end

theorem State.markSuspect_suspect (s : State) (r : Reason) (p l : Nat) (a : Option Nat) :
    ((s.markSuspect r p l a).healthOf p).suspect = true := by
  unfold State.markSuspect
  split
  · assumption
  · dsimp only
    rw [State.offer_eq]
    have hne : ({ s.healthOf p with suspect := true } : Health) ≠ Health.blank :=
      fun h => Bool.noConfusion (congrArg Health.suspect h)
    show (healthLookup (healthStore p { s.healthOf p with suspect := true } s.health) p).suspect = true
    rw [healthStore, if_neg hne, healthLookup, lookupAt_putAt_some]
    rfl

/-- The chunk of an erase is all that changes with it. -/
theorem State.eraseChunk_eq (s : State) (l : Nat) (f : Chunk → Chunk) :
    s.eraseChunk l f = { s with slots := (s.eraseChunk l f).slots } := by
  unfold State.eraseChunk
  split
  · rfl
  · split <;> rfl

/-! ### Ends of operations (R16) -/

/-- The part when the first byte with busy 0 has ended the flash's operation, before the owners hear of it. -/
def State.operationEnded (fop : FlashOp) (answer : Byte) (s : State) : State :=
  { s with
    hostOut := [], memOut := [], tracker := .idle, freeCount := s.freeCount + 1,
    flash := { s.flash.finish fop (s.cfg.failed answer) s.freeCount with ignored := false } }

/-- The part after the status byte that follows a write the flash ignored. -/
def State.ignoredEnded (s : State) : State :=
  { s with hostOut := [], memOut := [], tracker := .idle, flash := { s.flash with ignored := false } }

theorem exec_programEnd {s : State} {op : OpRecord} (hp : s.phase = .running) (ht : s.tracker = .programInFlight op)
    (answer : Byte) : exec (.programEnd answer) s = .next (s.begin.observeEnd answer) := by
  show execProgramEnd answer s = _
  simp [execProgramEnd, hp, ht]

theorem exec_eraseEnd {s : State} {op : OpRecord} (hp : s.phase = .running) (ht : s.tracker = .eraseInFlight op)
    (answer : Byte) : exec (.eraseEnd answer) s = .next (s.begin.observeEnd answer) := by
  show execEraseEnd answer s = _
  simp [execEraseEnd, hp, ht]

/-- A byte with busy 1 ends nothing. -/
theorem State.begin_observeEnd_busy {s : State} {fop : FlashOp} {answer : Byte} (hf : s.flash.op = some fop)
    (hb : s.cfg.busy answer = true) : s.begin.observeEnd answer = s.begin := by
  simp [State.observeEnd, State.flashAnswer_of_op (s := s.begin) hf, hb]

theorem State.observeEnd_program {s : State} {op : OpRecord} {answer : Byte} (ht : s.tracker = .programInFlight op)
    (hb : s.cfg.busy (s.flashAnswer answer) = false) :
    s.observeEnd answer =
      (s.flashObserved (s.flashAnswer answer)).programEnded op (s.cfg.failed (s.flashAnswer answer)) := by
  simp [State.observeEnd, State.observe, ht, hb]

theorem State.observeEnd_erase {s : State} {op : OpRecord} {answer : Byte} (ht : s.tracker = .eraseInFlight op)
    (hb : s.cfg.busy (s.flashAnswer answer) = false) :
    s.observeEnd answer =
      (s.flashObserved (s.flashAnswer answer)).eraseEnded op (s.cfg.failed (s.flashAnswer answer)) := by
  simp [State.observeEnd, State.observe, ht, hb]

/-- The owners hear of an end with the tracker IDLE, whatever it was. -/
theorem State.programEnded_of_idle (s : State) (op : OpRecord) (failed : Bool) :
    s.programEnded op failed = { s with tracker := .idle }.programEnded op failed := rfl

theorem State.eraseEnded_of_idle (s : State) (op : OpRecord) (failed : Bool) :
    s.eraseEnded op failed = { s with tracker := .idle }.eraseEnded op failed := rfl

theorem State.begin_flashObserved_done {s : State} {fop : FlashOp} {answer : Byte} (hf : s.flash.op = some fop)
    (hb : s.cfg.busy answer = false) :
    { s.begin.flashObserved answer with tracker := .idle } = s.operationEnded fop answer := by
  unfold State.flashObserved
  rw [show s.begin.flash.op = some fop from hf]
  dsimp only
  rw [if_neg (by simpa using hb)]
  rfl

theorem State.begin_flashObserved_ignored {s : State} (ho : s.flash.op = none) (raw : Byte) :
    { s.begin.flashObserved raw with tracker := .idle } = s.ignoredEnded := by
  unfold State.flashObserved
  rw [show s.begin.flash.op = none from ho]
  rfl

/-- R16: the first byte with busy 0 ends a program at the flash, and its owners hear of it. -/
theorem exec_programEnd_done {s : State} {op : OpRecord} {fop : FlashOp} {answer : Byte} (hp : s.phase = .running)
    (hf : s.flash.op = some fop) (ht : s.tracker = .programInFlight op) (hb : s.cfg.busy answer = false) :
    exec (.programEnd answer) s = .next ((s.operationEnded fop answer).programEnded op (s.cfg.failed answer)) := by
  have ha : s.begin.flashAnswer answer = answer := State.flashAnswer_of_op hf answer
  rw [exec_programEnd hp ht, State.observeEnd_program (s := s.begin) ht (by rw [ha]; exact hb), ha,
    State.programEnded_of_idle, State.begin_flashObserved_done hf hb, State.begin_cfg]

/-- R16: the first byte with busy 0 ends an erase at the flash, and its owners hear of it. -/
theorem exec_eraseEnd_done {s : State} {op : OpRecord} {fop : FlashOp} {answer : Byte} (hp : s.phase = .running)
    (hf : s.flash.op = some fop) (ht : s.tracker = .eraseInFlight op) (hb : s.cfg.busy answer = false) :
    exec (.eraseEnd answer) s = .next ((s.operationEnded fop answer).eraseEnded op (s.cfg.failed answer)) := by
  have ha : s.begin.flashAnswer answer = answer := State.flashAnswer_of_op hf answer
  rw [exec_eraseEnd hp ht, State.observeEnd_erase (s := s.begin) ht (by rw [ha]; exact hb), ha,
    State.eraseEnded_of_idle, State.begin_flashObserved_done hf hb, State.begin_cfg]

/-- R1, R16: the byte after an ignored program ends it without the fail bit. -/
theorem exec_programEnd_ignored {s : State} {op : OpRecord} (hp : s.phase = .running) (ho : s.flash.op = none)
    (hi : s.flash.ignored = true) (ht : s.tracker = .programInFlight op) (answer : Byte) :
    exec (.programEnd answer) s = .next (s.ignoredEnded.programEnded op false) := by
  rw [exec_programEnd hp ht, State.observeEnd_program (s := s.begin) ht (State.busy_flashAnswer_ignored ho hi answer),
    State.failed_flashAnswer_ignored (s := s.begin) ho hi answer, State.programEnded_of_idle,
    State.begin_flashObserved_ignored ho]

/-- R1, R16: the byte after an ignored erase ends it without the fail bit. -/
theorem exec_eraseEnd_ignored {s : State} {op : OpRecord} (hp : s.phase = .running) (ho : s.flash.op = none)
    (hi : s.flash.ignored = true) (ht : s.tracker = .eraseInFlight op) (answer : Byte) :
    exec (.eraseEnd answer) s = .next (s.ignoredEnded.eraseEnded op false) := by
  rw [exec_eraseEnd hp ht, State.observeEnd_erase (s := s.begin) ht (State.busy_flashAnswer_ignored ho hi answer),
    State.failed_flashAnswer_ignored (s := s.begin) ho hi answer, State.eraseEnded_of_idle,
    State.begin_flashObserved_ignored ho]

/-! ### What the owners do (R50, R69, R96, R97, R104) -/

/-- With no owner, the end of a program is the tracker's alone. -/
theorem State.programEnded_no_owner {s : State} {op : OpRecord} (h : op.sectors = none) (failed : Bool) :
    s.programEnded op failed = { s with tracker := .idle } := by simp [State.programEnded, h]

/-- With no owner, or without the fail bit, the end of an erase is the tracker's alone. -/
theorem State.eraseEnded_quiet {s : State} {op : OpRecord} {failed : Bool} (h : op.sectors = none ∨ failed = false) :
    s.eraseEnded op failed = { s with tracker := .idle } := by
  unfold State.eraseEnded
  rcases h with h | h
  · rw [h]
  · subst h
    cases op.sectors <;> rfl

theorem State.eraseEnded_failed {s : State} {op : OpRecord} {l p : Nat} (h : op.sectors = some (l, p)) :
    s.eraseEnded op true =
      (({ s with tracker := .idle }.clearClean l).markSuspect .eraseFail p l (some op.address)).eraseChunk l
        fun c => { c with state := .stale } := by simp [State.eraseEnded, h]

theorem State.programEnded_header {s : State} {op : OpRecord} {l p i : Nat} (h : op.sectors = some (l, p))
    (hs : s.slotOf l = some (i, 0)) :
    s.programEnded op false = ({ s with tracker := .idle }.headerProgramEnded i).resettle := by
  simp [State.programEnded, h, hs]

theorem State.programEnded_chunk {s : State} {op : OpRecord} {l p i k : Nat} (h : op.sectors = some (l, p))
    (hs : s.slotOf l = some (i, k)) (hk : 0 < k) :
    s.programEnded op false = ({ s with tracker := .idle }.offerChunk i k).resettle := by
  simp [State.programEnded, h, hs, Nat.ne_of_gt hk]

theorem State.programEnded_chunk_failed {s : State} {op : OpRecord} {l p i k : Nat} (h : op.sectors = some (l, p))
    (hs : s.slotOf l = some (i, k)) (hk : 0 < k) :
    s.programEnded op true =
      (({ s with tracker := .idle }.chunkProgramFailed i k p op.address).markSuspect .programFail p l
        (some op.address)).resettle := by
  simp [State.programEnded, h, hs, Nat.ne_of_gt hk]

/-- R97: the chunk of a FILLING slot becomes MISMATCH, with its log entry. -/
theorem State.chunkProgramFailed_of_chunk {s : State} {i c : Nat} {k : Chunk} (hf : (s.slotAt i).state = .filling)
    (hc : s.chunkAt i c = some k) (p address : Nat) :
    s.chunkProgramFailed i c p address = (s.updChunk i c fun k => { k with state := .mismatch }).appendLog
      { s.mismatchEntry .programFail i c p with address := some address } := by
  simp [State.chunkProgramFailed, hf, hc]

/-- R69: the end of a header page changes the manifest job list and nothing else. -/
theorem State.headerProgramEnded_eq (s : State) (i : Nat) :
    s.headerProgramEnded i = { s with manifestJobs := (s.headerProgramEnded i).manifestJobs } := by
  unfold State.headerProgramEnded
  split
  · rfl
  · split <;> rfl

/-- R69: the slot's admission job joins the list exactly when every page of the manifest is in. -/
theorem State.headerProgramEnded_manifestJobs {s : State} {i : Nat} {w : Word × Word}
    (hh : (s.slotAt i).state = .header) (hw : (s.slotAt i).captured = some w) (hm : ∀ m ∈ s.manifestJobs, m.slot ≠ i) :
    (s.headerProgramEnded i).manifestJobs =
      if coversPages (s.slotAt i).headerMask ((w.2.toNat + 63) / 64) then
        joinManifest { slot := i, reload := false } s.manifestJobs
      else s.manifestJobs := by
  have hall : s.manifestJobs.all (fun m => m.slot != i) = true := by simpa using hm
  simp only [State.headerProgramEnded, hw, hh, hall, true_and, and_true]
  split <;> rfl

/-- R72: a job joins the list where its slot has none. -/
theorem mem_joinManifest {m : ManifestJob} {l : List ManifestJob} (h : ∀ n ∈ l, n.slot ≠ m.slot) :
    m ∈ joinManifest m l := by
  induction l with
  | nil => exact List.mem_singleton_self m
  | cons n t ih =>
    obtain ⟨hn, ht⟩ := List.forall_mem_cons.1 h
    unfold joinManifest
    rw [if_neg (Ne.symm hn)]
    split
    · exact List.mem_cons_self
    · exact List.mem_cons_of_mem _ (ih ht)

/-- R104: the end of a chunk page changes the queued marks and the verify queue, and nothing else. -/
theorem State.offerChunk_eq (s : State) (i c : Nat) :
    s.offerChunk i c =
      { s with slots := (s.offerChunk i c).slots, verifyQueue := (s.offerChunk i c).verifyQueue } := by
  unfold State.offerChunk
  split
  · rfl
  · split <;> rfl

theorem State.offerChunk_marksOnly (s : State) (i c : Nat) : s.MarksOnly (s.offerChunk i c) := by
  unfold State.offerChunk
  split
  · exact .refl s
  · split
    · next h => exact State.joinQueue_marksOnly h.1
    · exact .refl s

/-- R104: a COMPLETE chunk of a FILLING slot that is not queued joins the queue where there is room. -/
theorem State.offerChunk_of_complete {s : State} {i c : Nat} {k : Chunk} (hf : (s.slotAt i).state = .filling)
    (hc : s.chunkAt i c = some k) (hs : k.state = .complete) (hq : k.queued = false) (hl : s.verifyQueue.length < 32) :
    s.offerChunk i c = s.joinQueue { kind := .chunk, slot := i, chunk := c } := by
  simp [State.offerChunk, hc, hf, hs, hq, hl, queueCapacity]

theorem State.joinQueue_queued {s : State} {e : Entry} {k : Chunk} (h : s.chunkAt e.slot e.chunk = some k) :
    ((s.joinQueue e).chunkAt e.slot e.chunk).map Chunk.queued = some true := by
  have hc := s.chunkAt_updChunk e.slot e.chunk e.slot e.chunk fun c => { c with queued := true }
  rw [if_pos ⟨rfl, rfl⟩, h] at hc
  exact congrArg (Option.map Chunk.queued) hc

/-! ### The cases of O41 -/

/-- R50, R53: a failed erase of a staging sector leaves it not clean and suspect. -/
theorem State.eraseEnded_failed_effect {s : State} {op : OpRecord} {l p : Nat} (h : op.sectors = some (l, p)) :
    let t := s.eraseEnded op true
    t.tracker = .idle ∧ t.isClean l = false ∧ (t.healthOf p).suspect = true ∧ t.flash = s.flash ∧ t.map = s.map ∧
      t.pool = s.pool ∧ t.echo = s.echo := by
  rw [State.eraseEnded_failed h, State.eraseChunk_eq]
  refine ⟨State.markSuspect_tracker .., ?_, State.markSuspect_suspect .., State.markSuspect_flash ..,
    State.markSuspect_map .., State.markSuspect_pool .., State.markSuspect_echo ..⟩
  have hc := { s with tracker := .idle }.isClean_clearClean l l
  simp only [State.isClean, ne_eq, not_true, decide_false, Bool.and_false] at hc
  simpa only [State.isClean, State.markSuspect_clean] using hc

/-- R50, R97: a failed program of a chunk of a FILLING slot makes the chunk MISMATCH and its sector suspect. -/
theorem State.programEnded_chunk_failed_effect {s : State} {op : OpRecord} {l p i k : Nat} {c : Chunk}
    (h : op.sectors = some (l, p)) (hs : s.slotOf l = some (i, k)) (hk : 0 < k)
    (hf : (s.slotAt i).state = .filling) (hc : s.chunkAt i k = some c) :
    let t := s.programEnded op true
    t.tracker = .idle ∧ (t.healthOf p).suspect = true ∧ (t.chunkAt i k).map Chunk.state = some .mismatch ∧
      (t.slotAt i).state = .filling ∧ t.flash = s.flash ∧ t.map = s.map ∧ t.pool = s.pool ∧ t.echo = s.echo ∧
      t.pendingWD = s.pendingWD := by
  rw [State.programEnded_chunk_failed h hs hk]
  set s0 : State := { s with tracker := .idle }
  have hc0 : s0.chunkAt i k = some c := hc
  rw [State.chunkProgramFailed_of_chunk (s := s0) hf hc0]
  set u := s0.updChunk i k fun k => { k with state := .mismatch } with hu
  set v := State.markSuspect .programFail p l (some op.address) (u.appendLog
    { s0.mismatchEntry .programFail i k p with address := some op.address }) with hv
  have huk : (u.chunkAt i k).map Chunk.state = some .mismatch := by
    rw [hu, State.chunkAt_updChunk, if_pos ⟨rfl, rfl⟩, hc0]
    rfl
  have hvs : v.slots = u.slots := State.markSuspect_slots ..
  have hm := v.resettle_marksOnly
  refine ⟨?_, ?_, ?_, ?_, ?_, ?_, ?_, ?_, ?_⟩
  · rw [State.resettle_tracker, hv, State.markSuspect_tracker]; rfl
  · rw [State.healthOf, State.resettle_health]; exact State.markSuspect_suspect ..
  · rw [hm.chunk_map Chunk.state (fun _ => rfl), State.chunkAt, State.slotAt, hvs]; exact huk
  · rw [hm.state_eq, State.slotAt, hvs]; exact (State.slotAt_updChunk_state ..).trans hf
  · rw [State.resettle_flash, hv, State.markSuspect_flash]; rfl
  · rw [State.resettle_map, hv, State.markSuspect_map]; rfl
  · rw [State.resettle_pool, hv, State.markSuspect_pool]; rfl
  · rw [State.resettle_echo, hv, State.markSuspect_echo]; rfl
  · rw [State.resettle_pendingWD, hv, State.markSuspect_pendingWD]; rfl

/-- R69, R72, R106: when every page of the manifest is in, the end of a header page of a HEADER slot puts the slot's
admission job on the list, and in flight where the engine has nothing to do; else it leaves the list as it is. -/
theorem State.programEnded_header_effect {s : State} {op : OpRecord} {l p i : Nat} {w : Word × Word}
    (h : op.sectors = some (l, p)) (hs : s.slotOf l = some (i, 0)) (hh : (s.slotAt i).state = .header)
    (hw : (s.slotAt i).captured = some w) (hm : ∀ m ∈ s.manifestJobs, m.slot ≠ i) :
    let whole : Prop := ∀ g, g < (w.2.toNat + 63) / 64 → (s.slotAt i).headerMask.getLsbD g = true
    let t := s.programEnded op false
    t.tracker = .idle ∧ t.slotAt i = s.slotAt i ∧ t.log = s.log ∧ t.flash = s.flash ∧ t.store = s.store ∧
      t.health = s.health ∧
      (whole → w.2.toNat ≤ 1024 → { slot := i, reload := false } ∈ t.manifestJobs ∧
        (s.job = none → s.scan = none → s.aside = none → s.manifestJobs = [] →
          ∃ j, t.job = some j ∧ j.kind = .admission ∧ j.slot = i ∧ j.pass = .first ∧ j.index = 0)) ∧
      (¬ whole → w.2.toNat ≤ 1024 → t.manifestJobs = s.manifestJobs) := by
  intro whole
  have hcov (hl : w.2.toNat ≤ 1024) : coversPages (s.slotAt i).headerMask ((w.2.toNat + 63) / 64) = true ↔ whole :=
    coversPages_iff _ (by omega)
  have hjobs := State.headerProgramEnded_manifestJobs (s := { s with tracker := .idle }) hh hw hm
  rw [State.programEnded_header h hs, State.headerProgramEnded_eq]
  set u : State := { s with
    tracker := .idle, manifestJobs := (State.headerProgramEnded i { s with tracker := .idle }).manifestJobs }
  refine ⟨u.resettle_tracker, u.resettle_marksOnly.slotAt_eq i ?_, u.resettle_log, u.resettle_flash, u.resettle_store,
    u.resettle_health, fun hwh hl => ?_, fun hwh hl => ?_⟩
  · show (s.slotAt i).state ≠ .filling
    simp [hh]
  · have hu : u.manifestJobs = joinManifest { slot := i, reload := false } s.manifestJobs :=
      hjobs.trans (if_pos ((hcov hl).2 hwh))
    refine ⟨?_, fun hj hsc ha hnil => ?_⟩
    · rw [State.resettle_manifestJobs, hu]
      exact mem_joinManifest hm
    · rw [hnil] at hu
      exact ⟨_, State.resettle_job_of_manifest hj hsc ha hu, rfl, rfl, rfl, rfl⟩
  · exact u.resettle_manifestJobs.trans (hjobs.trans (if_neg fun hc => hwh ((hcov hl).1 hc)))

/-- R96, R104, R106: the end of a page of a chunk of a FILLING slot leaves the chunk as it is but for its queued mark; a
COMPLETE chunk joins the verify queue's tail, and goes in flight where the engine has nothing to do. -/
theorem State.programEnded_chunk_effect {s : State} {op : OpRecord} {l p i k : Nat} {c : Chunk}
    (h : op.sectors = some (l, p)) (hs : s.slotOf l = some (i, k)) (hk : 0 < k)
    (hf : (s.slotAt i).state = .filling) (hc : s.chunkAt i k = some c) :
    let t := s.programEnded op false
    t.tracker = .idle ∧ t.log = s.log ∧ t.flash = s.flash ∧ t.store = s.store ∧ t.health = s.health ∧
      (t.chunkAt i k).map (fun x => (x.state, x.mask, x.origin)) = some (c.state, c.mask, c.origin) ∧
      (c.state = .complete → c.queued = false → s.verifyQueue.length < 32 →
        (t.chunkAt i k).map Chunk.queued = some true ∧
        (s.job.isSome = true →
          t.verifyQueue.take (s.verifyQueue.length + 1) =
            s.verifyQueue ++ [{ kind := .chunk, slot := i, chunk := k }]) ∧
        (s.job = none → s.scan = none → s.aside = none → s.manifestJobs = [] → s.verifyQueue = [] →
          ∃ j, t.job = some j ∧ j.kind = .chunk ∧ j.slot = i ∧ j.chunk = k ∧ j.index = 0)) := by
  rw [State.programEnded_chunk h hs hk]
  set s0 : State := { s with tracker := .idle }
  have hc0 : s0.chunkAt i k = some c := hc
  have hframe := s0.offerChunk_eq i k
  have hm : s0.MarksOnly (s0.offerChunk i k).resettle :=
    State.MarksOnly.trans (s0.offerChunk_marksOnly i k) (State.resettle_marksOnly _)
  refine ⟨?_, ?_, ?_, ?_, ?_, ?_, fun hcs hcq hl => ?_⟩
  · rw [State.resettle_tracker, hframe]
  · rw [State.resettle_log, hframe]
  · rw [State.resettle_flash, hframe]
  · rw [State.resettle_store, hframe]
  · rw [State.resettle_health, hframe]
  · rw [hm.chunk_map (fun x => (x.state, x.mask, x.origin)) (fun _ => rfl), hc0]
    rfl
  · rw [State.offerChunk_of_complete (s := s0) hf hc0 hcs hcq hl]
    refine ⟨(State.resettle_marksOnly _).queued (State.joinQueue_queued hc0), fun hj => ?_,
      fun hj hsc ha hmj hvq => ?_⟩
    · obtain ⟨q, hq⟩ := State.resettle_verifyQueue
        (s := s0.joinQueue { kind := .chunk, slot := i, chunk := k }) hj
      rw [hq]
      exact List.take_left' (by simp [State.joinQueue, s0])
    · have hq : (s0.joinQueue { kind := .chunk, slot := i, chunk := k }).verifyQueue =
          [{ kind := .chunk, slot := i, chunk := k }] := congrArg (· ++ _) hvq
      exact ⟨_, State.resettle_job_of_queue hj hsc ha hmj hq, rfl, rfl, rfl, rfl⟩

/-- Settles O41, by what the owners of a program's or an erase's address do at its end. -/
theorem operationEnds : Obligations.OperationEnds := by
  unfold Obligations.OperationEnds
  refine ⟨fun answer s op hp ho hi => ⟨fun ht hn => ?_, fun ht => ?_⟩,
    fun answer s op fop hp hf => ⟨fun ht hb hn => ?_, fun ht hb hq => ?_, fun l p ht hb hl hs => ?_,
      fun l p i k c ht hb hl hs hsl hk hfi hc => ?_, fun l p i w ht hb hl hs hsl hh hw hm => ?_,
      fun l p i k c ht hb hl hs hsl hk hfi hc => ?_, fun ht hb => ?_, fun ht hb => ?_⟩⟩
  · rw [exec_programEnd_ignored hp ho hi ht, State.programEnded_no_owner hn]
    rfl
  · rw [exec_eraseEnd_ignored hp ho hi ht, State.eraseEnded_quiet (.inr rfl)]
    rfl
  · rw [exec_programEnd_done hp hf ht hb, State.programEnded_no_owner hn]
    rfl
  · rw [exec_eraseEnd_done hp hf ht hb, State.eraseEnded_quiet hq]
    rfl
  · exact ⟨_, hl ▸ exec_eraseEnd_done hp hf ht hb, State.eraseEnded_failed_effect hs⟩
  · exact ⟨_, hl ▸ exec_programEnd_done hp hf ht hb,
      State.programEnded_chunk_failed_effect (s := s.operationEnded fop answer) hs hsl hk hfi hc⟩
  · exact ⟨_, hl ▸ exec_programEnd_done hp hf ht hb,
      State.programEnded_header_effect (s := s.operationEnded fop answer) hs hsl hh hw hm⟩
  · exact ⟨_, hl ▸ exec_programEnd_done hp hf ht hb,
      State.programEnded_chunk_effect (s := s.operationEnded fop answer) hs hsl hk hfi hc⟩
  · exact (exec_programEnd hp ht answer).trans (congrArg _ (State.begin_observeEnd_busy hf hb))
  · exact (exec_eraseEnd hp ht answer).trans (congrArg _ (State.begin_observeEnd_busy hf hb))

end Sys2Proof.Machine
end

section
/-! The books of the part: what the operations on slots, targets, sectors, the log, the engine and the offers leave alone. -/

namespace Sys2Proof.Machine

open Sys2Proof

/-- From `s` to `t` only the books change: the slots, targets, sectors and log, the engine's lists, and offers that join the
journal's. The lines, the port, the tracker, the flags, the map, the clean flags, the flash, the configuration and the
request's outcome stay. -/
structure State.Books (s t : State) : Prop where
  phase : t.phase = s.phase
  portOpen : t.portOpen = s.portOpen
  hrstDriven : t.hrstDriven = s.hrstDriven
  boot : s.boot.isSome = true → t.boot.isSome = true
  cfg : t.cfg = s.cfg
  keys : t.keys = s.keys
  tracker : t.tracker = s.tracker
  echo : t.echo = s.echo
  pendingWD : t.pendingWD = s.pendingWD
  guard : t.guard = s.guard
  map : t.map = s.map
  clean : t.clean = s.clean
  flash : t.flash = s.flash
  lastOutcome : t.lastOutcome = s.lastOutcome
  port : t.store.port = s.store.port
  rowWait : t.store.rowWait = s.store.rowWait
  offers : ∃ l, t.store.offers = s.store.offers ++ l

theorem State.Books.of_eq {s t : State} (h : t = { t with
    phase := s.phase, portOpen := s.portOpen, hrstDriven := s.hrstDriven, boot := s.boot, cfg := s.cfg, keys := s.keys,
    tracker := s.tracker, echo := s.echo, pendingWD := s.pendingWD, guard := s.guard, map := s.map, clean := s.clean,
    flash := s.flash, lastOutcome := s.lastOutcome, store := s.store }) : s.Books t := by
  rw [h]
  exact ⟨rfl, rfl, rfl, id, rfl, rfl, rfl, rfl, rfl, rfl, rfl, rfl, rfl, rfl, rfl, rfl, [], (List.append_nil _).symm⟩

theorem State.Books.refl (s : State) : s.Books s := .of_eq rfl

theorem State.Books.trans {s t u : State} (h : s.Books t) (g : t.Books u) : s.Books u where
  phase := g.phase.trans h.phase
  portOpen := g.portOpen.trans h.portOpen
  hrstDriven := g.hrstDriven.trans h.hrstDriven
  boot := g.boot ∘ h.boot
  cfg := g.cfg.trans h.cfg
  keys := g.keys.trans h.keys
  tracker := g.tracker.trans h.tracker
  echo := g.echo.trans h.echo
  pendingWD := g.pendingWD.trans h.pendingWD
  guard := g.guard.trans h.guard
  map := g.map.trans h.map
  clean := g.clean.trans h.clean
  flash := g.flash.trans h.flash
  lastOutcome := g.lastOutcome.trans h.lastOutcome
  port := g.port.trans h.port
  rowWait := g.rowWait.trans h.rowWait
  offers := by
    obtain ⟨l, hl⟩ := h.offers
    obtain ⟨m, hm⟩ := g.offers
    exact ⟨l ++ m, by rw [hm, hl, List.append_assoc]⟩

theorem State.Books.foldl {α : Type} {f : State → α → State} (hf : ∀ (u : State) (x : α), u.Books (f u x)) (l : List α)
    (s : State) :
    s.Books (l.foldl f s) :=
  List.foldlRecOn l f (.refl s) fun u hu x _ => hu.trans (hf u x)

section
variable (s : State)

/-! ### The basic updates -/

theorem State.appendLog_books {e : LogEntry} : s.Books (s.appendLog e) := .of_eq rfl
theorem State.updSlot_books {i : Nat} {f : SlotRec → SlotRec} : s.Books (s.updSlot i f) := .of_eq rfl
theorem State.updDyn_books {t : Nat} {f : TargetDyn → TargetDyn} : s.Books (s.updDyn t f) := .of_eq rfl
theorem State.updChunk_books {i c : Nat} {f : Chunk → Chunk} : s.Books (s.updChunk i c f) := .of_eq rfl
theorem State.setHealth_books {p : Nat} {h : Health} : s.Books (s.setHealth p h) := .of_eq rfl
theorem State.setStrikes_books {p n : Nat} : s.Books (s.setStrikes p n) := .of_eq rfl
theorem State.send_books {t : MemTxn} : s.Books (s.send t) := .of_eq rfl

theorem State.updBoot_books {f : BootEvent → BootEvent} : s.Books (s.updBoot f) :=
  ⟨rfl, rfl, rfl, fun h => (Option.isSome_map ..).trans h, rfl, rfl, rfl, rfl, rfl, rfl, rfl, rfl, rfl, rfl, rfl, rfl, [],
    (List.append_nil _).symm⟩

theorem State.offer_books {o : Owner} {p : Payload} : s.Books (s.offer o p) :=
  ⟨rfl, rfl, rfl, id, rfl, rfl, rfl, rfl, rfl, rfl, rfl, rfl, rfl, rfl, by rw [State.offer_eq], by rw [State.offer_eq],
    _, s.offer_offers o p⟩

theorem State.offerSlot_books {o : Owner} {i : Nat} : s.Books (s.offerSlot o i) :=
  .trans (State.offer_books _) (State.updSlot_books _)

theorem State.offerTarget_books {o : Owner} {t : Nat} : s.Books (s.offerTarget o t) := State.offer_books _

theorem State.offerInOrder_books {o : Owner} {slots targets : List Nat} : s.Books (s.offerInOrder o slots targets) :=
  ((State.Books.foldl (fun _ _ => State.offerSlot_books _) _ _).trans
    (State.Books.foldl (fun _ _ => State.offerTarget_books _) _ _)).trans
      (State.Books.foldl (fun _ _ => State.offerSlot_books _) _ _)

/-! ### Sectors (3.5) -/

theorem State.markSuspect_books {r : Reason} {p l : Nat} {a : Option Nat} : s.Books (s.markSuspect r p l a) := by
  unfold State.markSuspect
  split
  · exact .refl s
  · exact (s.appendLog_books.trans (State.setHealth_books _)).trans
      ((State.setStrikes_books _).trans (State.offer_books _))

theorem State.strike_books {p l : Nat} : s.Books (s.strike p l) := by
  unfold State.strike
  split
  · exact .refl s
  · split
    · exact s.markSuspect_books
    · exact s.setStrikes_books

theorem State.eraseChunk_books {l : Nat} {f : Chunk → Chunk} : s.Books (s.eraseChunk l f) := by
  rw [State.eraseChunk_eq]
  exact .of_eq rfl

/-! ### The engine's lists (6.4, 6.5) -/

theorem State.resettle_books : s.Books s.resettle := by
  rw [State.resettle_eq]
  exact .of_eq rfl

theorem State.startJob_books : s.Books s.startJob := by
  rw [State.startJob_eq]
  exact .of_eq rfl

theorem State.joinQueue_books {e : Entry} : s.Books (s.joinQueue e) := .of_eq rfl
theorem State.dropManifest_books {i : Nat} : s.Books (s.dropManifest i) := .of_eq rfl
theorem State.dropSlotJobs_books {i : Nat} : s.Books (s.dropSlotJobs i) := .of_eq rfl
theorem State.dropChunkJob_books {i c : Nat} : s.Books (s.dropChunkJob i c) := .of_eq rfl

theorem State.sendWordRead_books {w : Nat × Nat} {n : Nat} {cut : Bool} : s.Books (s.sendWordRead w n cut) := .of_eq rfl

theorem State.endJob_books {j : Job} : s.Books (s.endJob j) := by
  unfold State.endJob
  split <;> exact .of_eq rfl

theorem State.restartSecondPass_books {f : Nat → Bool} : s.Books (s.restartSecondPass f) := by
  unfold State.restartSecondPass
  split
  · split <;> exact .of_eq rfl
  · exact .refl s

theorem State.verifyRead_books {n : Nat} : s.Books (s.verifyRead n) := by
  unfold State.verifyRead
  dsimp only
  split
  · exact .refl s
  · split
    · exact .of_eq rfl
    · split
      · exact s.sendWordRead_books
      · exact .refl s

theorem State.patrolStep_books : s.Books s.patrolStep := by
  unfold State.patrolStep
  split
  · exact .refl s
  · split
    · next p _ _ =>
      exact (s.joinQueue_books (e := { kind := .patrol, slot := p.1, chunk := p.2 })).trans
        (.trans (.of_eq rfl) (State.startJob_books
          { s.joinQueue { kind := .patrol, slot := p.1, chunk := p.2 } with
            patrolSlot := (s.pointerAfter p).1, patrolChunk := (s.pointerAfter p).2 }))
    · exact .refl s

/-! ### Admission, reload and chunk work (chapters 4, 6 and 7) -/

theorem State.admitSlot_books {i : Nat} {w : List Word} : s.Books (s.admitSlot i w) :=
  (s.dropManifest_books.trans (State.updSlot_books _)).trans ((State.appendLog_books _).trans (State.offerSlot_books _))

theorem State.rejectHeader_books {i : Nat} {r : Reason} : s.Books (s.rejectHeader i r) :=
  s.dropManifest_books.trans (State.updSlot_books _)

theorem State.rejectAdmission_books {i : Nat} {r : Reason} {w : List Word} : s.Books (s.rejectAdmission i r w) :=
  s.rejectHeader_books.trans (State.appendLog_books _)

theorem State.failSlot_books {i : Nat} : s.Books (s.failSlot i) := s.dropSlotJobs_books.trans (State.updSlot_books _)

theorem State.markDecayed_books {i : Nat} : s.Books (s.markDecayed i) :=
  s.dropSlotJobs_books.trans (State.updSlot_books _)

theorem State.trialEndedByCheck_books {i : Nat} {r : Reason} {c : Option Nat} :
    s.Books (s.trialEndedByCheck i r c) :=
  ((s.failSlot_books.trans (State.updDyn_books _)).trans (State.appendLog_books _)).trans
    ((State.offerSlot_books _).trans (State.offerTarget_books _))

theorem State.reloadFailedSlot_books {i : Nat} {r : Reason} : s.Books (s.reloadFailedSlot i r) := by
  have h : s.Books ((s.dropManifest i).updSlot i SlotRec.reloadFailed) :=
    s.dropManifest_books.trans (State.updSlot_books _)
  unfold State.reloadFailedSlot
  dsimp only
  split
  case _ | _ =>
    exact h.trans (((State.failSlot_books _).trans (State.appendLog_books _)).trans (State.offerSlot_books _))
  · exact h.trans (State.trialEndedByCheck_books _)
  case _ | _ =>
    exact h.trans (((State.markDecayed_books _).trans (State.appendLog_books _)).trans (State.offerSlot_books _))
  all_goals exact h

theorem State.reloadPassedSlot_books {i : Nat} : s.Books (s.reloadPassedSlot i) :=
  s.dropManifest_books.trans (State.updSlot_books _)

theorem State.chunkMismatched_books {r : Reason} {i c p : Nat} : s.Books (s.chunkMismatched r i c p) :=
  (s.updChunk_books.trans (State.appendLog_books _)).trans (State.strike_books _)

theorem State.sealIfVerified_books {i : Nat} : s.Books (s.sealIfVerified i) := by
  unfold State.sealIfVerified
  split
  · exact (s.updSlot_books.trans (State.appendLog_books _)).trans (State.offerSlot_books _)
  · exact .refl s

theorem State.chunkVerdict_books {i c p : Nat} {m : Bool} : s.Books (s.chunkVerdict i c p m) := by
  unfold State.chunkVerdict
  split
  · exact .refl s
  · split
    · split
      · exact (s.updChunk_books.trans (State.setStrikes_books _)).trans (State.sealIfVerified_books _)
      · split
        · exact s.chunkMismatched_books
        · exact s.updChunk_books
    · exact .refl s

theorem State.patrolVerdict_books {i c p : Nat} {m : Bool} : s.Books (s.patrolVerdict i c p m) := by
  unfold State.patrolVerdict
  split
  · exact .refl s
  · split
    · split
      · exact s.updChunk_books.trans (State.setStrikes_books _)
      · have h : s.Books (s.chunkMismatched .patrol i c p) := s.chunkMismatched_books
        dsimp only
        split
        · exact h.trans ((State.failSlot_books _).trans (State.offerSlot_books _))
        · exact h.trans (State.trialEndedByCheck_books _)
        case _ | _ =>
          exact h.trans (((State.markDecayed_books _).trans (State.appendLog_books _)).trans (State.offerSlot_books _))
        all_goals exact h
    · exact .refl s

/-! ### The owners of programs and erases (R16) -/

theorem State.headerProgramEnded_books {i : Nat} : s.Books (s.headerProgramEnded i) := by
  rw [State.headerProgramEnded_eq]
  exact .of_eq rfl

theorem State.offerChunk_books {i c : Nat} : s.Books (s.offerChunk i c) := by
  rw [State.offerChunk_eq]
  exact .of_eq rfl

theorem State.chunkProgramFailed_books {i c p a : Nat} : s.Books (s.chunkProgramFailed i c p a) := by
  unfold State.chunkProgramFailed
  split
  · exact s.updChunk_books.trans (State.appendLog_books _)
  · exact .refl s

theorem State.takeHeaderErase_books {i : Nat} : s.Books (s.takeHeaderErase i) := by
  unfold State.takeHeaderErase
  dsimp only
  split
  · exact s.dropManifest_books.trans (State.updSlot_books _)
  · split
    · exact s.updSlot_books
    · exact s.updSlot_books.trans (State.offerSlot_books _)
  · exact .refl s

theorem State.takeBodyErase_books {i k : Nat} : s.Books (s.takeBodyErase i k) := by
  unfold State.takeBodyErase
  split
  · exact s.dropChunkJob_books.trans (State.updChunk_books _)
  · exact .refl s

theorem State.takeDecision_books {d : Decision} {a : Nat} : s.Books (s.takeDecision d a) := by
  have hw (u : State) : u.Books (match d.wear with
      | none => u
      | some w => u.offer .holdWear (.health d.target { s.healthOf d.target with wear := w })) := by
    split
    · exact .refl u
    · exact u.offer_books
  unfold State.takeDecision
  refine .trans ?_ (hw _)
  split
  · exact (s.appendLog_books.trans (State.offer_books _)).trans (State.offer_books _)
  · exact s.appendLog_books
  · exact s.offer_books
  · exact .refl s

theorem State.takeProgram_books {i k page : Nat} : s.Books (s.takeProgram i k page) := by
  unfold State.takeProgram
  split
  · exact s.updSlot_books
  · exact s.updChunk_books

theorem State.capture_books {i a : Nat} {data : List Byte} : s.Books (s.capture i a data) := by
  unfold State.capture
  dsimp only
  split
  · exact s.updSlot_books
  · exact (s.rejectHeader_books.trans (State.appendLog_books _)).trans (State.resettle_books _)

/-! ### Boot events (8.5) -/

theorem State.settleBoot_books {t : Nat} {c : Option Nat} : s.Books (s.settleBoot t c) := by
  unfold State.settleBoot
  extract_lets s1
  have h1 : s.Books s1 := s.updDyn_books
  split
  · exact h1
  · next b _ =>
    extract_lets s2 s3
    have h2 : s1.Books s2 := by
      unfold s2
      split
      · exact .refl s1
      · exact s1.offerSlot_books
    have h3 : s2.Books s3 := by
      unfold s3
      split
      · exact .refl s2
      · exact s2.offerTarget_books
    exact ((h1.trans h2).trans h3).trans
      ((State.Books.foldl (fun _ _ => State.offerSlot_books _) b.decayed s3).trans (State.updBoot_books _))

theorem State.bootTrialFails_books {t i : Nat} {r : Option Reason} {c : Option Nat} :
    s.Books (s.bootTrialFails t i r c) :=
  ((s.failSlot_books.trans (State.dropManifest_books _)).trans
    ((State.updSlot_books _).trans (State.updDyn_books _))).trans
      ((State.appendLog_books _).trans (State.updBoot_books _))

theorem State.bootDecays_books {i : Nat} {r : Option Reason} {c : Option Nat} : s.Books (s.bootDecays i r c) := by
  unfold State.bootDecays
  split
  · exact .refl s
  · exact (s.markDecayed_books.trans (State.appendLog_books _)).trans (State.updBoot_books _)

theorem State.openScan_books {r : Role} {i : Nat} : s.Books (s.openScan r i) := .of_eq rfl

theorem State.fallbackScanned_books {t i : Nat} {pass : Bool} {r : Option Reason} {c : Option Nat} :
    s.Books (s.fallbackScanned t i pass r c) := by
  unfold State.fallbackScanned
  split
  · exact (s.updDyn_books.trans (State.appendLog_books _)).trans (State.settleBoot_books _)
  · exact s.bootDecays_books.trans (State.settleBoot_books _)

theorem State.askFallback_books {t : Nat} : s.Books (s.askFallback t) := by
  unfold State.askFallback
  split
  · exact s.settleBoot_books
  · split
    · exact s.settleBoot_books
    · split
      · exact s.fallbackScanned_books
      · exact s.openScan_books

theorem State.activeScanned_books {t i : Nat} {pass : Bool} {r : Option Reason} {c : Option Nat} :
    s.Books (s.activeScanned t i pass r c) := by
  unfold State.activeScanned
  split
  · exact s.settleBoot_books
  · exact s.bootDecays_books.trans (State.askFallback_books _)

theorem State.askActive_books {t : Nat} : s.Books (s.askActive t) := by
  unfold State.askActive
  split
  · exact s.settleBoot_books
  · split
    · exact s.activeScanned_books
    · exact s.openScan_books

theorem State.trialScanned_books {t i : Nat} {pass : Bool} {r : Option Reason} {c : Option Nat} :
    s.Books (s.trialScanned t i pass r c) := by
  unfold State.trialScanned
  split
  · exact s.appendLog_books.trans (State.settleBoot_books _)
  · exact s.bootTrialFails_books.trans (State.askActive_books _)

theorem State.askTrial_books {t i : Nat} : s.Books (s.askTrial t i) := by
  unfold State.askTrial
  split
  · exact s.trialScanned_books
  · exact s.openScan_books

/-- A boot event changes only books once it is in progress. -/
theorem State.beginBoot_of_books (startup : Bool) :
    ∃ b : BootEvent, State.Books { s with boot := some b } (s.beginBoot startup) := by
  unfold State.beginBoot
  split
  · exact ⟨_, .refl _⟩
  · next t _ =>
    refine ⟨{ startup := startup, target := some t, before := s.dynAt t, failedTrial := none, decayed := [],
              settled := false }, ?_⟩
    extract_lets s1
    split
    · exact State.askActive_books _
    · split
      · exact (State.updDyn_books _).trans (State.askTrial_books _)
      · exact (State.bootTrialFails_books _).trans (State.askActive_books _)

theorem State.setBoot_books {b : BootEvent} : s.Books { s with boot := some b } :=
  ⟨rfl, rfl, rfl, fun _ => rfl, rfl, rfl, rfl, rfl, rfl, rfl, rfl, rfl, rfl, rfl, rfl, rfl, [], (List.append_nil _).symm⟩

theorem State.beginBoot_books {startup : Bool} : s.Books (s.beginBoot startup) := by
  obtain ⟨b, hb⟩ := s.beginBoot_of_books startup
  exact s.setBoot_books.trans hb

theorem State.beginBoot_boot (startup : Bool) : (s.beginBoot startup).boot.isSome = true := by
  obtain ⟨b, hb⟩ := s.beginBoot_of_books startup
  exact hb.boot rfl

theorem State.scanEnds_books {c : Scan} {pass : Bool} {r : Option Reason} {k : Option Nat} :
    s.Books (s.scanEnds c pass r k) := by
  unfold State.scanEnds
  extract_lets s1
  have h1 : s.Books s1 := .of_eq rfl
  split
  · exact h1
  · split
    · exact h1.trans s1.trialScanned_books
    · exact h1.trans s1.activeScanned_books
    · exact h1.trans s1.fallbackScanned_books

theorem State.scanManifestVerdict_books {c : Scan} {w : List Word} {tag : Bool} :
    s.Books (s.scanManifestVerdict c w tag) := by
  unfold State.scanManifestVerdict
  extract_lets s0 s1
  have h0 : s.Books s0 := .of_eq rfl
  split
  · exact h0.trans ((s0.dropManifest_books.trans (State.updSlot_books _)).trans (State.scanEnds_books _))
  · have h1 : s0.Books s1 := by
      unfold s1
      split
      · exact s0.reloadPassedSlot_books
      · exact .refl s0
    split
    · exact (h0.trans h1).trans (.of_eq rfl)
    · exact (h0.trans h1).trans s1.scanEnds_books

theorem State.scanChunkVerdict_books {c : Scan} {p : Nat} {m : Bool} : s.Books (s.scanChunkVerdict c p m) := by
  unfold State.scanChunkVerdict
  extract_lets s0 s1
  have h0 : s.Books s0 := .of_eq rfl
  split
  · have h1 : s0.Books s1 := s0.updChunk_books.trans (State.setStrikes_books _)
    split
    · exact (h0.trans h1).trans s1.scanEnds_books
    · exact (h0.trans h1).trans (.of_eq rfl)
  · exact h0.trans ((s0.dropChunkJob_books.trans (State.chunkMismatched_books _)).trans (State.scanEnds_books _))

/-! ### Requests (8.3, chapter 10) -/

theorem State.confirmDrops_books {i : Nat} : s.Books (s.confirmDrops i) :=
  (s.dropSlotJobs_books.trans (State.dropManifest_books _)).trans (State.updSlot_books _)

theorem State.confirmLog_books {before : State} {i : Nat} : s.Books (s.confirmLog before i) := by
  unfold State.confirmLog
  split
  · exact s.appendLog_books
  · exact s.appendLog_books
  · exact .refl s

theorem State.confirmRoles_books {i t floor : Nat} : s.Books (s.confirmRoles i t floor) := by
  have hf (f : Option Nat) : s.Books (match f with
      | none => s
      | some f =>
        if ((s.updSlot f (SlotRec.leaveRole floor)).slotAt f).state = SlotState.sealed then
          s.updSlot f (SlotRec.leaveRole floor)
        else (s.updSlot f (SlotRec.leaveRole floor)).confirmDrops f) := by
    split
    · exact .refl s
    · split
      · exact s.updSlot_books
      · exact s.updSlot_books.trans (State.confirmDrops_books _)
  have ha (u : State) (a : Option Nat) : u.Books (match a with
      | none => u
      | some a => u.updSlot a fun r => { r with state := .fallback }) := by
    split
    · exact .refl u
    · exact u.updSlot_books
  exact ((hf _).trans (ha _ _)).trans ((State.updSlot_books _).trans (State.updDyn_books _))

theorem State.outdate_books {floor j : Nat} : s.Books (s.outdate floor j) :=
  s.confirmDrops_books.trans (State.updSlot_books _)

theorem State.emptySlot_books {i : Nat} : s.Books (s.emptySlot i) := by
  have h : s.Books (((s.dropManifest i).dropSlotJobs i).updSlot i
      fun r => { SlotRec.blank with journaled := r.journaled }) :=
    (s.dropManifest_books.trans (State.dropSlotJobs_books _)).trans (State.updSlot_books _)
  unfold State.emptySlot
  dsimp only
  split
  · exact h.trans (State.updDyn_books _)
  · exact h

theorem State.changeSlotCode_books {c : Nat} : s.Books (s.changeSlotCode c) := .of_eq rfl

end

end Sys2Proof.Machine
end

section
/-! The rule of the lines (O4) and of the waits (O5): every command upholds both. Most commands are calm: they neither move
the lines nor make anything wait. The rest are a new hold, a request that becomes PENDING, the ends of writes of the record
store, boot events, start-up and part resets. -/

namespace Sys2Proof.Machine

open Sys2Proof

/-! ### Calm steps -/

/-- The tracker holds an erase whose record condition is open. -/
def Tracker.waits : Tracker → Bool
  | .eraseHeld _ h => h.recordOpen
  | _ => false

/-- From `s` to `t` the lines to the host stay, nothing begins to wait, and nothing that is waited for goes. -/
structure State.Calm (s t : State) : Prop where
  phase : t.phase = s.phase
  portOpen : t.portOpen = s.portOpen
  hrstDriven : t.hrstDriven = s.hrstDriven
  boot : s.boot.isSome = true → t.boot.isSome = true
  hold : t.tracker.waits = true → s.tracker.waits = true
  asked : t.lastOutcome = .pending → s.lastOutcome = .pending
  owes : ∀ o, s.store.owes o = true → t.store.owes o = true
  row : s.store.rowBusy = true → t.store.rowBusy = true

theorem State.Calm.of_eq {s t : State} (h : t = { t with
    phase := s.phase, portOpen := s.portOpen, hrstDriven := s.hrstDriven, boot := s.boot, tracker := s.tracker,
    lastOutcome := s.lastOutcome, store := s.store }) : s.Calm t := by
  rw [h]
  exact ⟨rfl, rfl, rfl, id, id, id, fun _ => id, id⟩

theorem State.Calm.refl (s : State) : s.Calm s := .of_eq rfl

theorem State.Calm.trans {s t u : State} (h : s.Calm t) (g : t.Calm u) : s.Calm u where
  phase := g.phase.trans h.phase
  portOpen := g.portOpen.trans h.portOpen
  hrstDriven := g.hrstDriven.trans h.hrstDriven
  boot := g.boot ∘ h.boot
  hold := h.hold ∘ g.hold
  asked := h.asked ∘ g.asked
  owes o := g.owes o ∘ h.owes o
  row := g.row ∘ h.row

theorem State.Calm.foldl {α : Type} {f : State → α → State} (hf : ∀ (u : State) (x : α), u.Calm (f u x)) (l : List α)
    (s : State) : s.Calm (l.foldl f s) :=
  List.foldlRecOn l f (.refl s) fun u hu x _ => hu.trans (hf u x)

/-- More offers keep what is waited for. -/
theorem Store.owes_of_append {st st' : Store} {l : List Offer} (h : st'.offers = st.offers ++ l) (o : Owner)
    (ho : st.owes o = true) : st'.owes o = true := by
  rw [Store.owes, h, List.any_append, Bool.or_eq_true]
  exact .inl ho

theorem State.Books.calm {s t : State} (h : s.Books t) : s.Calm t where
  phase := h.phase
  portOpen := h.portOpen
  hrstDriven := h.hrstDriven
  boot := h.boot
  hold := by rw [h.tracker]; exact id
  asked := by rw [h.lastOutcome]; exact id
  owes o := by
    obtain ⟨l, hl⟩ := h.offers
    exact Store.owes_of_append hl o
  row := by rw [Store.rowBusy, Store.rowBusy, h.port, h.rowWait]; exact id

/-! ### What a step upholds -/

/-- What is safe in `s` stays safe in `t`: the rule of the lines, and that nothing waits for nothing. -/
structure State.Upholds (s t : State) : Prop where
  lines : s.linesSafe → t.linesSafe
  waits : s.waitsBacked → t.waitsBacked

theorem State.Upholds.trans {s t u : State} (h : s.Upholds t) (g : t.Upholds u) : s.Upholds u :=
  ⟨g.lines ∘ h.lines, g.waits ∘ h.waits⟩

theorem State.waitsBacked_iff (s : State) : s.waitsBacked ↔
    (s.tracker.waits = true → s.store.owes .holdMap = true ∨ s.store.owes .holdWear = true) ∧
    (s.lastOutcome = .pending → s.store.owes .request = true ∨ s.store.rowBusy = true) := by
  refine and_congr_left fun _ => ⟨fun h hw => ?_, fun h op hold ht hr => h ?_⟩
  · cases ht : s.tracker with
    | eraseHeld op hold => exact h op hold ht (by simpa [Tracker.waits, ht] using hw)
    | _ => simp [Tracker.waits, ht] at hw
  · simpa [Tracker.waits, ht] using hr

theorem State.Calm.upholds {s t : State} (h : s.Calm t) : s.Upholds t where
  lines := by
    rintro ⟨hopen, hreset, hrun⟩
    unfold State.linesSafe
    rw [h.phase, h.portOpen, h.hrstDriven]
    exact ⟨hopen, hreset, fun hp hd => h.boot (hrun hp hd)⟩
  waits := by
    rw [State.waitsBacked_iff, State.waitsBacked_iff]
    rintro ⟨hhold, hreq⟩
    exact ⟨fun hw => (hhold (h.hold hw)).imp (h.owes _) (h.owes _),
      fun hp => (hreq (h.asked hp)).imp (h.owes _) h.row⟩

theorem State.Books.upholds {s t : State} (h : s.Books t) : s.Upholds t := h.calm.upholds

section
variable (s : State)

/-! ### Calm operations of the flash and the tracker -/

theorem State.begin_calm : s.Calm s.begin := .of_eq rfl
theorem State.begin_tick_calm {e : Nat} : s.Calm (s.begin.tick e) := .of_eq rfl
theorem State.begin_drift_calm {d : Drift} : s.Calm (s.begin.drift d) := .of_eq rfl
theorem State.setLatch_calm {v : Bool} : s.Calm (s.setLatch v) := .of_eq rfl
theorem State.clearClean_calm {l : Nat} : s.Calm (s.clearClean l) := .of_eq rfl
theorem State.sendProgram_calm {tx : HostTxn} {a : Nat} : s.Calm (s.sendProgram tx a) := .of_eq rfl
theorem State.refuseWrite_calm {r : Reason} {op : Byte} {a : Option Nat} : s.Calm (s.refuseWrite r op a) := .of_eq rfl
theorem State.refuseHeld_calm {op : Byte} {a : Option Nat} : s.Calm (s.refuseHeld op a) := .of_eq rfl

theorem State.flashObserved_calm {raw : Byte} : s.Calm (s.flashObserved raw) := by
  unfold State.flashObserved
  split
  · exact .of_eq rfl
  · split
    · exact .refl s
    · exact .of_eq rfl

/-- With the tracker IDLE nothing is held. -/
theorem State.idle_calm : s.Calm { s with tracker := .idle } := ⟨rfl, rfl, rfl, id, nofun, id, fun _ => id, id⟩

theorem State.programEnded_calm {op : OpRecord} {failed : Bool} : s.Calm (s.programEnded op failed) := by
  refine s.idle_calm.trans ?_
  unfold State.programEnded
  extract_lets s0
  split
  · exact .refl s0
  · extract_lets suspect
    have hs (u : State) : u.Books (suspect u) := by
      unfold suspect
      split
      · exact u.markSuspect_books
      · exact .refl u
    split
    · exact (hs s0).calm
    · split
      · exact (((hs s0).trans (State.headerProgramEnded_books _)).trans (State.resettle_books _)).calm
      · split
        · exact ((s0.chunkProgramFailed_books.trans (hs _)).trans (State.resettle_books _)).calm
        · exact (s0.offerChunk_books.trans (State.resettle_books _)).calm

theorem State.eraseEnded_calm {op : OpRecord} {failed : Bool} : s.Calm (s.eraseEnded op failed) := by
  refine s.idle_calm.trans ?_
  unfold State.eraseEnded
  extract_lets s0
  split
  · exact .refl s0
  · split
    · exact s0.clearClean_calm.trans ((State.markSuspect_books _).trans (State.eraseChunk_books _)).calm
    · exact .refl s0

theorem State.observe_calm {raw : Byte} : s.Calm (s.observe raw) := by
  have h := s.flashObserved_calm (raw := raw)
  unfold State.observe
  extract_lets s1
  split
  · split
    · exact h
    · exact h.trans s1.programEnded_calm
  · split
    · exact h
    · exact h.trans s1.eraseEnded_calm
  · exact h
  · exact h

theorem State.observeEnd_calm {b : Byte} : s.Calm (s.observeEnd b) := by
  unfold State.observeEnd
  split
  · exact .refl s
  · exact s.observe_calm

theorem State.statusByte_calm {b : Byte} : s.Calm (s.statusByte b) := s.observe_calm.trans (.of_eq rfl)

theorem State.pollBytes_calm (bs : List Byte) (n : Nat) : s.Calm (State.pollBytes bs n s).2 := by
  induction bs generalizing n s with
  | nil => exact .refl s
  | cons b bs ih =>
    unfold State.pollBytes
    split
    · exact s.observe_calm.trans (ih _ _)
    · exact .refl s

theorem State.idleBytes_calm (bs : List Byte) (n : Nat) : s.Calm (State.idleBytes bs n s).2.2 := by
  induction bs generalizing n s with
  | nil => exact .refl s
  | cons b bs ih =>
    unfold State.idleBytes
    extract_lets raw
    split
    · exact s.flashObserved_calm.trans (ih _ _)
    · exact s.flashObserved_calm

/-! ### Reads (R29) -/

theorem State.touchPage_calm {p o : Nat} {page : List Byte} : s.Calm (s.touchPage p o page) := by
  unfold State.touchPage
  extract_lets s1
  have h1 : s.Calm s1 := by
    unfold s1
    split <;> exact .of_eq rfl
  split
  · exact h1.trans (.of_eq rfl)
  · exact h1

theorem State.partByte_calm {a : Nat} : s.Calm (s.partByte a).2 := by
  unfold State.partByte State.windowByte
  split
  · split
    · exact .refl s
    · split
      · exact .refl s
      · exact s.touchPage_calm
  · exact .refl s

theorem State.serve_calm (tx : HostTxn) (n i a : Nat) (prev : Option Nat) : s.Calm (s.serve tx n i a prev) := by
  induction n generalizing i a prev s with
  | zero => exact .refl s
  | succ n ih =>
    unfold State.serve
    refine .trans ?_ (ih _ _ _ _)
    split
    · exact s.partByte_calm.trans (.of_eq rfl)
    · exact .of_eq rfl
    · exact .of_eq rfl

theorem State.readRuns_calm {tx : HostTxn} {len : Nat} : s.Calm (s.readRuns tx len) := by
  unfold State.readRuns
  extract_lets a src s1
  split
  · exact .of_eq rfl
  · have h1 : s.Calm s1 := by
      unfold s1
      clear_value src
      cases src <;> exact .of_eq rfl
    exact (h1.trans (s1.serve_calm ..)).trans (.of_eq rfl)

/-! ### Erases (R3, R19, R20) -/

theorem State.applyDecision_calm {d : Decision} : s.Calm (s.applyDecision d) := by
  unfold State.applyDecision
  split <;> exact .of_eq rfl

theorem State.stagingForwarded_calm {d : Decision} : s.Calm (s.stagingForwarded d) :=
  (s.applyDecision_calm.trans (.of_eq rfl)).trans (State.eraseChunk_books _).calm

theorem State.forwardErase_calm {t : MemTxn} {op : OpRecord} {d : Option Decision} : s.Calm (s.forwardErase t op d) := by
  unfold State.forwardErase
  extract_lets _ s1
  have h1 : s.Calm s1 := ⟨rfl, rfl, rfl, id, nofun, id, fun _ => id, id⟩
  split
  · exact h1
  · exact h1.trans s1.stagingForwarded_calm

/-- A decision that names a record offers one that the hold waits for. -/
theorem State.takeDecision_owes (d : Decision) (a : Nat) (h : d.namesRecord = true) :
    (s.takeDecision d a).store.owes .holdMap = true ∨ (s.takeDecision d a).store.owes .holdWear = true := by
  unfold State.takeDecision
  extract_lets entry _ s1
  cases hw : d.wear with
  | some w => exact .inr (by simp [State.offer_owes])
  | none =>
    have hm : d.case = .retire ∨ d.case = .swap := by
      simpa [Decision.namesRecord, Decision.moves, hw] using h
    refine .inl ?_
    unfold s1
    rcases hm with hc | hc <;> rw [hc] <;> simp [State.offer_owes]

/-- R19: an erase is held with its record condition open only where a record that it waits for has been offered. -/
theorem State.acceptErase_upholds {tx : HostTxn} {op : OpRecord} {d : Option Decision} {cut : Bool}
    (hd : d.any Decision.namesRecord = true → s.store.owes .holdMap = true ∨ s.store.owes .holdWear = true) :
    s.Upholds (s.acceptErase tx op d cut) := by
  have held (t : State) (g : Bool) (h : s.Calm t) (ho : t.store = s.store) :
      s.Upholds { t with
        tracker := .eraseHeld op { recordOpen := d.any Decision.namesRecord, guardOpen := g, decision := d } } := by
    refine ⟨fun hl => (h.upholds.lines hl :), fun hw => ?_⟩
    have ht := (State.waitsBacked_iff _).1 (h.upholds.waits hw)
    rw [State.waitsBacked_iff]
    exact ⟨fun hr => show t.store.owes _ = true ∨ t.store.owes _ = true from ho ▸ hd hr, ht.2⟩
  unfold State.acceptErase
  extract_lets recordOpen guardOpen _ txn hold
  split
  · exact held s _ (.refl s) rfl
  · split
    · exact held (s.send txn) guardOpen s.send_books.calm rfl
    · exact s.forwardErase_calm.upholds

theorem State.stagingErase_upholds {tx : HostTxn} {a : Nat} {cut : Bool} : s.Upholds (s.stagingErase tx a cut) := by
  unfold State.stagingErase
  extract_lets l
  split
  · exact s.refuseWrite_calm.upholds
  · next i k _ =>
    split
    · exact s.refuseWrite_calm.upholds
    · extract_lets s1 d op
      have h1 : s.Books s1 := by
        unfold s1
        split
        · exact s.takeHeaderErase_books
        · exact s.takeBodyErase_books
      exact ((h1.trans s1.takeDecision_books).upholds.trans
        (State.acceptErase_upholds _ fun hd => s1.takeDecision_owes d a (by simpa using hd))).trans
          (State.resettle_books _).upholds

theorem State.idleEraseSector_upholds {tx : HostTxn} {a : Nat} {cut : Bool} :
    s.Upholds (s.idleEraseSector tx a cut) := by
  unfold State.idleEraseSector
  split
  · exact s.acceptErase_upholds nofun
  · exact s.stagingErase_upholds
  all_goals exact s.refuseWrite_calm.upholds

theorem State.idleEraseLarge_upholds {tx : HostTxn} {a : Nat} {cut : Bool} :
    s.Upholds (s.idleEraseLarge tx a cut) := by
  unfold State.idleEraseLarge
  split
  · exact s.acceptErase_upholds nofun
  · exact s.refuseWrite_calm.upholds

theorem State.takeWrite_upholds {op : Byte} {a : Option Nat} {f : State → State} (hf : ∀ u : State, u.Upholds (f u)) :
    s.Upholds (s.takeWrite op a f) := by
  unfold State.takeWrite
  split
  · exact (State.Calm.refl s).upholds
  · exact (State.Calm.refl s).upholds
  · exact s.refuseHeld_calm.upholds
  · exact State.Upholds.trans (t := { s with echo := false }) (State.Calm.upholds (.of_eq rfl)) (hf _)

/-! ### Requests (R125, R171, R172) -/

theorem State.refuseRequest_calm {r : ReqReason} : s.Calm (s.refuseRequest r) :=
  ⟨rfl, rfl, rfl, id, id, nofun, fun _ => id, id⟩
theorem State.requestDone_calm : s.Calm s.requestDone := ⟨rfl, rfl, rfl, id, id, nofun, fun _ => id, id⟩
theorem State.writeRow_calm {w : RowWrite} : s.Calm (s.writeRow w) := ⟨rfl, rfl, rfl, id, id, id, fun _ => id, fun _ => rfl⟩

/-- R172: an outcome is PENDING where a record or a row is to be written. -/
theorem State.requestPending_upholds (h : s.store.owes .request = true ∨ s.store.rowBusy = true) :
    s.Upholds s.requestPending where
  lines := id
  waits hw := by
    rw [State.waitsBacked_iff] at hw ⊢
    exact ⟨hw.1, fun _ => h⟩

theorem State.requestAwaits_upholds : s.Upholds s.requestAwaits := by
  unfold State.requestAwaits
  split
  · next h => exact s.requestPending_upholds (.inl h)
  · exact s.requestDone_calm.upholds

/-- R143: a request that rewrites a row waits for the row. -/
theorem State.writeRow_pending_upholds {w : RowWrite} : s.Upholds (s.writeRow w).requestPending :=
  s.writeRow_calm.upholds.trans (State.requestPending_upholds _ (.inr rfl))

theorem State.offerSlot_owes (o : Owner) (i : Nat) : (s.offerSlot o i).store.owes o = true := by
  show (s.offer o _).store.owes o = true
  simp [State.offer_owes]

theorem State.offerTarget_owes (o : Owner) (t : Nat) : (s.offerTarget o t).store.owes o = true := by
  simp [State.offerTarget, State.offer_owes]

theorem State.offerInOrder_owes (o : Owner) (slots : List Nat) (t : Nat) :
    (s.offerInOrder o slots [t]).store.owes o = true :=
  (State.Books.foldl (fun _ _ => State.offerSlot_books _) _ _).calm.owes o (State.offerTarget_owes _ o t)

theorem State.partReset_phase (b : Bool) : (s.partReset b).phase = .inReset := rfl
theorem State.partReset_portOpen (b : Bool) : (s.partReset b).portOpen = false := rfl
theorem State.partReset_hrstDriven (b : Bool) : (s.partReset b).hrstDriven = true := rfl
theorem State.partReset_tracker (b : Bool) : (s.partReset b).tracker = .idle := rfl
theorem State.partReset_lastOutcome (b : Bool) : (s.partReset b).lastOutcome = .none := rfl

/-- A part reset leaves the host held in reset, the port closed, and nothing that waits. -/
theorem State.partReset_upholds {b : Bool} : s.Upholds (s.partReset b) where
  lines _ := by simp [State.linesSafe, s.partReset_phase, s.partReset_portOpen, s.partReset_hrstDriven]
  waits _ := by simp [State.waitsBacked, s.partReset_tracker, s.partReset_lastOutcome]

theorem State.reqActivate_upholds {a : Word} : s.Upholds (s.reqActivate a) := by
  unfold State.reqActivate
  extract_lets i r t
  split
  · exact s.refuseRequest_calm.upholds
  · split
    · exact s.refuseRequest_calm.upholds
    · split
      · exact s.refuseRequest_calm.upholds
      · split
        · exact (((s.updSlot_books.trans (State.updDyn_books _)).trans (State.appendLog_books _)).trans
            ((State.offerTarget_books _).trans (State.offerSlot_books _))).upholds.trans
              (State.requestPending_upholds _ (.inl (State.offerSlot_owes ..)))
        · exact s.refuseRequest_calm.upholds

theorem State.reqConfirm_upholds {a : Word} : s.Upholds (s.reqConfirm a) := by
  unfold State.reqConfirm
  extract_lets i r t floor below s1 changed _ s2 s3
  split
  · exact s.refuseRequest_calm.upholds
  · split
    · exact s.refuseRequest_calm.upholds
    · split
      · exact s.refuseRequest_calm.upholds
      · have h1 : s.Books s1 := s.confirmRoles_books.trans (State.Books.foldl (fun _ _ => State.outdate_books _) _ _)
        have h3 : s1.Books s3 := s1.appendLog_books.trans (State.Books.foldl (fun u _ => u.confirmLog_books) changed s2)
        exact ((h1.trans h3).trans s3.offerInOrder_books).upholds.trans
          ((State.requestPending_upholds _ (.inl (State.offerInOrder_owes ..))).trans (State.resettle_books _).upholds)

theorem State.reqAbandon_upholds {a : Word} : s.Upholds (s.reqAbandon a) := by
  unfold State.reqAbandon
  extract_lets i r t
  split
  · exact s.refuseRequest_calm.upholds
  · split
    · exact s.refuseRequest_calm.upholds
    · exact (((s.updSlot_books.trans (State.updDyn_books _)).trans (State.appendLog_books _)).trans
        ((State.offerTarget_books _).trans (State.offerSlot_books _))).upholds.trans
          (State.requestPending_upholds _ (.inl (State.offerSlot_owes ..)))

theorem State.reqDiscard_upholds {a : Word} : s.Upholds (s.reqDiscard a) := by
  unfold State.reqDiscard
  extract_lets i r s1 s2 s3
  split
  · exact s.refuseRequest_calm.upholds
  · split
    · exact s.refuseRequest_calm.upholds
    · split
      · exact s.requestDone_calm.upholds
      · have h1 : s.Books s1 := s.emptySlot_books
        have h2 : s1.Books s2 := by
          unfold s2
          split
          · exact .refl s1
          · exact s1.offerSlot_books
        have h3 : s2.Books s3 := by
          unfold s3
          split
          · exact s2.offerTarget_books
          · exact .refl s2
        exact ((h1.trans h2).trans h3).upholds.trans (s3.requestAwaits_upholds.trans (State.resettle_books _).upholds)

theorem State.reqClearStaging_upholds : s.Upholds s.reqClearStaging := by
  unfold State.reqClearStaging
  extract_lets ids targets s1
  have h1 : s.Books s1 := State.Books.foldl (fun _ _ => State.emptySlot_books _) _ _
  exact (h1.trans s1.offerInOrder_books).upholds.trans
    ((State.requestAwaits_upholds _).trans (State.resettle_books _).upholds)

theorem State.reqSetSlotCode_upholds {a : Word} : s.Upholds (s.reqSetSlotCode a) := by
  unfold State.reqSetSlotCode
  split
  · exact s.refuseRequest_calm.upholds
  · split
    · exact s.refuseRequest_calm.upholds
    · split
      · exact s.refuseRequest_calm.upholds
      · exact (s.changeSlotCode_books.trans (State.offer_books _)).upholds.trans
          (State.requestPending_upholds _ (.inl (by simp [State.offer_owes])))

theorem State.reqLogFree_upholds {a : Word} : s.Upholds (s.reqLogFree a) := by
  unfold State.reqLogFree
  split
  · exact s.refuseRequest_calm.upholds
  · split
    · exact s.refuseRequest_calm.upholds
    · exact State.Calm.upholds ⟨rfl, rfl, rfl, id, id, nofun, fun _ => id, id⟩

theorem State.reqAckAlert_upholds : s.Upholds s.reqAckAlert := by
  unfold State.reqAckAlert
  split
  · exact State.Calm.upholds ⟨rfl, rfl, rfl, id, id, nofun, fun _ => id, id⟩
  · exact s.requestDone_calm.upholds

theorem State.putKeyRow_upholds {r : KeyRow} : s.Upholds (s.putKeyRow r) :=
  State.Upholds.trans (t := { s with keys := r.keys, locked := r.locked }) (State.Calm.upholds (.of_eq rfl))
    (State.writeRow_pending_upholds _)

theorem State.reqKeyWrite_upholds {a v : Word} : s.Upholds (s.reqKeyWrite a v) := by
  unfold State.reqKeyWrite
  extract_lets k
  split
  · exact s.refuseRequest_calm.upholds
  · split
    · exact s.refuseRequest_calm.upholds
    · split
      · exact s.refuseRequest_calm.upholds
      · exact s.putKeyRow_upholds.trans (State.restartSecondPass_books _).upholds

theorem State.reqKeyRevoke_upholds {a : Word} : s.Upholds (s.reqKeyRevoke a) := by
  unfold State.reqKeyRevoke
  extract_lets k
  split
  · exact s.refuseRequest_calm.upholds
  · split
    · exact s.putKeyRow_upholds.trans (State.restartSecondPass_books _).upholds
    · exact s.refuseRequest_calm.upholds

theorem State.reqLock_upholds : s.Upholds s.reqLock := by
  unfold State.reqLock
  split
  · exact s.requestDone_calm.upholds
  · exact s.putKeyRow_upholds

theorem State.reqFactoryClear_upholds : s.Upholds s.reqFactoryClear := by
  unfold State.reqFactoryClear
  extract_lets s1 s2
  have h1 : s.Upholds s1 := State.Calm.upholds (.of_eq rfl)
  exact (h1.trans s1.putKeyRow_upholds).trans
    ((State.Books.foldl (fun _ _ => State.offerTarget_books _) _ _).trans (State.restartSecondPass_books _)).upholds

theorem State.reqTargetWrite_upholds {a c f : Word} : s.Upholds (s.reqTargetWrite a c f) := by
  unfold State.reqTargetWrite
  extract_lets t old new
  split
  · exact s.refuseRequest_calm.upholds
  · split
    · exact s.refuseRequest_calm.upholds
    · split
      · exact s.refuseRequest_calm.upholds
      · split
        · exact s.refuseRequest_calm.upholds
        · exact State.Upholds.trans (t := { s with statics := s.statics.set t new }) (State.Calm.upholds (.of_eq rfl))
            (State.writeRow_pending_upholds _)

theorem State.reqConfigWrite_upholds {i n v : Word} : s.Upholds (s.reqConfigWrite i n v) := by
  unfold State.reqConfigWrite
  split
  · exact s.refuseRequest_calm.upholds
  · split
    · exact s.refuseRequest_calm.upholds
    · exact State.Upholds.trans (t := { s with configChanged := true }) (State.Calm.upholds (.of_eq rfl))
        (State.writeRow_pending_upholds _)

theorem State.reqReload_upholds : s.Upholds s.reqReload :=
  s.requestDone_calm.upholds.trans (State.partReset_upholds _)

theorem requestRule_upholds {code a1 a2 a3 a4 : Word} {act : State → State}
    (h : requestRule code a1 a2 a3 a4 = some act) : s.Upholds (act s) := by
  unfold requestRule at h
  split at h <;> cases h
  · exact s.reqActivate_upholds
  · exact s.reqConfirm_upholds
  · exact s.reqAbandon_upholds
  · exact s.reqDiscard_upholds
  · exact s.reqClearStaging_upholds
  · exact s.reqSetSlotCode_upholds
  · exact s.reqLogFree_upholds
  · exact s.reqAckAlert_upholds
  · exact s.reqReload_upholds
  · exact s.reqKeyWrite_upholds
  · exact s.reqKeyRevoke_upholds
  · exact s.reqTargetWrite_upholds
  · exact s.reqConfigWrite_upholds
  · exact s.reqLock_upholds
  · exact s.reqFactoryClear_upholds

theorem State.takeRequest_upholds {image : List Byte} {serial code : Word} {act : State → State}
    (h : ∀ u : State, u.Upholds (act u)) : s.Upholds (s.takeRequest image serial code act) := by
  unfold State.takeRequest
  split
  · exact State.Calm.upholds (.of_eq rfl)
  · exact State.Upholds.trans (t := { s with reqPage := image, lastSerial := some serial, lastCode := some code })
      (State.Calm.upholds (.of_eq rfl)) (h _)

theorem State.judgeRecord_upholds {image : List Byte} : s.Upholds (s.judgeRecord image) := by
  refine s.takeRequest_upholds fun u => ?_
  split
  · cases h : imageRule image with
    | none => exact u.refuseRequest_calm.upholds
    | some act => exact requestRule_upholds u h
  · exact u.refuseRequest_calm.upholds

theorem State.request_upholds {serial code a1 a2 a3 a4 : Word} {act : State → State}
    (h : ∀ u : State, u.Upholds (act u)) : s.Upholds (s.begin.request serial code a1 a2 a3 a4 act) := by
  unfold State.request
  split
  · exact State.Upholds.trans (t := { s.begin with echo := false }) (State.Calm.upholds (.of_eq rfl))
      (State.takeRequest_upholds _ h)
  · exact s.begin_calm.upholds

/-! ### Programs (R35, R39) -/

/-- With an operation in flight nothing is held. -/
theorem State.programInFlight_calm {op : OpRecord} : s.Calm { s with tracker := .programInFlight op } :=
  ⟨rfl, rfl, rfl, id, nofun, id, fun _ => id, id⟩

theorem State.stagingProgram_calm {tx : HostTxn} {a : Nat} : s.Calm (s.stagingProgram tx a) := by
  unfold State.stagingProgram
  extract_lets l p
  split
  · exact s.refuseWrite_calm
  · next i k _ =>
    have h (op : OpRecord) := ((s.takeProgram_books (i := i) (k := k) (page := pageOf a)).calm.trans
      (State.sendProgram_calm _ (tx := tx) (a := s.translate l (a % 4096)))).trans
        ((State.clearClean_calm _ (l := l)).trans (State.programInFlight_calm _ (op := op)))
    split
    · exact s.refuseWrite_calm
    · dsimp only
      split
      · exact (h _).trans (State.capture_books _).calm
      · exact h _

theorem State.idleProgram_upholds {tx : HostTxn} {a : Nat} : s.Upholds (s.idleProgram tx a) := by
  unfold State.idleProgram
  split
  · exact State.Calm.upholds ⟨rfl, rfl, rfl, id, nofun, id, fun _ => id, id⟩
  · exact s.stagingProgram_calm.upholds
  · split
    · exact s.judgeRecord_upholds
    · exact s.refuseWrite_calm.upholds
  all_goals exact s.refuseWrite_calm.upholds

end

end Sys2Proof.Machine
end

section
/-! Every command upholds the rule of the lines and of the waits: the obligations O4 and O5. -/

namespace Sys2Proof.Machine

open Sys2Proof

/-! ### Steps of the record store (chapter 9) -/

/-- From `st` to `st'` no list of offers, write in the port or waiting row changes. -/
structure Store.SameWork (st st' : Store) : Prop where
  queue : st'.queue = st.queue
  waiting : st'.waiting = st.waiting
  rowBusy : st'.rowBusy = st.rowBusy

theorem Store.SameWork.refl (st : Store) : st.SameWork st := ⟨rfl, rfl, rfl⟩

theorem Store.SameWork.trans {a b c : Store} (h : a.SameWork b) (g : b.SameWork c) : a.SameWork c :=
  ⟨g.queue.trans h.queue, g.waiting.trans h.waiting, g.rowBusy.trans h.rowBusy⟩

theorem Store.SameWork.owes {st st' : Store} (h : st.SameWork st') (o : Owner) : st'.owes o = st.owes o := by
  rw [Store.owes, Store.owes, Store.offers, Store.offers, h.queue, h.waiting]

theorem State.updStore_calm {s : State} {f : Store → Store} (h : s.store.SameWork (f s.store)) : s.Calm (s.updStore f) :=
  ⟨rfl, rfl, rfl, id, id, id, fun o => by rw [← h.owes o]; exact id, by rw [← h.rowBusy]; exact id⟩

section
variable (st : Store)

theorem Store.updHalf_sameWork {h : Half} {f : HalfState → HalfState} : st.SameWork (st.updHalf h f) := by
  cases h <;> exact ⟨rfl, rfl, rfl⟩

theorem Store.updHalf_rowWait (h : Half) (f : HalfState → HalfState) : (st.updHalf h f).rowWait = st.rowWait := by
  cases h <;> rfl

theorem Store.startEnded_sameWork : st.SameWork st.startEnded := by
  unfold Store.startEnded
  split <;> exact ⟨rfl, rfl, rfl⟩

theorem Store.beginRecord_sameWork : st.SameWork st.beginRecord := by
  unfold Store.beginRecord
  split
  · split
    · next h =>
      simp only [Store.mayAppend, Bool.and_eq_true, Option.isNone_iff_eq_none] at h
      obtain ⟨⟨⟨hport, -⟩, -⟩, -⟩ := h
      exact ⟨rfl, rfl, by simp [Store.rowBusy, hport]⟩
    · exact .refl st
  · exact .refl st

theorem Store.beginRow_sameWork : st.SameWork st.beginRow := by
  unfold Store.beginRow
  split
  · next h => exact ⟨rfl, rfl, by simp [Store.rowBusy, h]⟩
  · exact .refl st

theorem Store.endSnapshot_sameWork {into h : Half} {c : SnapCopy} {n last pos : Nat} {r r' : Record}
    (hp : st.port = some (.snapshot h pos r')) : st.SameWork (st.endSnapshot into c n last r) := by
  unfold Store.endSnapshot
  extract_lets u st1
  have hu : st.SameWork u := st.updHalf_sameWork
  have hw : u.rowWait = st.rowWait := st.updHalf_rowWait into _
  have h1 : st.SameWork st1 :=
    { queue := hu.queue, waiting := hu.waiting, rowBusy := by simp [Store.rowBusy, st1, hw, hp] }
  split
  · refine h1.trans ?_
    unfold Store.endCompaction
    extract_lets st2
    have h2 : st1.SameWork st2 := by
      unfold st2
      split
      · exact st1.updHalf_sameWork
      · exact .refl st1
    exact (h2.trans st2.updHalf_sameWork).trans ⟨rfl, rfl, rfl⟩
  · exact h1

end

section
variable (s : State)

theorem State.startCompaction_calm : s.Calm s.startCompaction := by
  unfold State.startCompaction
  split
  · split
    · exact State.updStore_calm ⟨rfl, rfl, rfl⟩
    · exact State.updStore_calm (Store.updHalf_sameWork _)
  · exact .refl s

theorem State.writeSnapshot_calm : s.Calm s.writeSnapshot := by
  unfold State.writeSnapshot
  split
  · split
    · next hp =>
      unfold State.beginSnapshot
      split
      · exact State.updStore_calm ⟨rfl, rfl, by simp [Store.rowBusy, hp]⟩
      · exact .refl s
    · next hp => exact State.updStore_calm (Store.endSnapshot_sameWork _ hp)
    · exact .refl s
    · exact .refl s
  · exact .refl s

/-- R172: where the request's last record or row is written, its outcome is PENDING no more. -/
theorem State.completeRequest_asked (h : s.completeRequest.lastOutcome = .pending) :
    s.store.owes .request = true ∨ s.store.rowBusy = true := by
  unfold State.completeRequest at h
  split at h
  · cases h
  · next hn => grind

/-- R19: where the hold's last record is written, its record condition is open no more. -/
theorem State.releaseHold_waits (h : s.releaseHold.tracker.waits = true) :
    s.store.owes .holdMap = true ∨ s.store.owes .holdWear = true := by
  unfold State.releaseHold at h
  split at h
  · next op hold ht =>
    split at h
    · simp [Tracker.waits] at h
    · next hn =>
      rw [ht] at h
      simp only [Tracker.waits] at h
      grind
  · next hn =>
    exfalso
    cases ht : s.tracker with
    | eraseHeld op hold => exact hn _ _ ht
    | _ => simp [ht, Tracker.waits] at h

theorem State.releaseHold_eq : s.releaseHold = { s with tracker := s.releaseHold.tracker } := by
  unfold State.releaseHold
  split
  · split <;> rfl
  · rfl

theorem State.completeRequest_eq : s.completeRequest = { s with lastOutcome := s.completeRequest.lastOutcome } := by
  unfold State.completeRequest
  split <;> rfl

/-- The reports at the end of a write leave no hold and no request waiting for nothing. -/
theorem State.reports_waitsBacked : s.releaseHold.completeRequest.waitsBacked := by
  rw [State.waitsBacked_iff]
  have hs : s.releaseHold.completeRequest.store = s.store := by rw [State.completeRequest_eq, State.releaseHold_eq]
  have ht : s.releaseHold.completeRequest.tracker = s.releaseHold.tracker := by rw [State.completeRequest_eq]
  have hr : s.releaseHold.store = s.store := by rw [State.releaseHold_eq]
  rw [hs, ht]
  exact ⟨s.releaseHold_waits, fun h => hr ▸ s.releaseHold.completeRequest_asked h⟩

theorem State.recordWritten_upholds : s.Upholds s.recordWritten := by
  unfold State.recordWritten
  split
  · refine ⟨fun h => ?_, fun _ => State.reports_waitsBacked _⟩
    rw [State.completeRequest_eq, State.releaseHold_eq]
    exact h
  · exact (State.Calm.refl s).upholds

theorem Store.storeRow_offers (st : Store) (w : RowWrite) : (st.storeRow w).offers = st.offers := by
  cases w <;> rfl

theorem State.rowWritten_upholds : s.Upholds s.rowWritten := by
  unfold State.rowWritten
  split
  · next w _ =>
    set t := s.updStore fun st => { st.storeRow w with port := none } with ht
    have ho (o : Owner) : t.store.owes o = s.store.owes o :=
      congrArg (fun l => l.any fun f => f.owner == o) (s.store.storeRow_offers w)
    refine ⟨fun h => ?_, fun h => ?_⟩
    · rw [State.completeRequest_eq]
      exact h
    · have hb := (State.waitsBacked_iff s).1 h
      rw [State.waitsBacked_iff]
      have hs : t.completeRequest.store = t.store := by rw [State.completeRequest_eq]
      rw [hs]
      refine ⟨fun hw => ?_, t.completeRequest_asked⟩
      rw [ho, ho]
      refine hb.1 ?_
      rw [State.completeRequest_eq] at hw
      exact hw
  · exact (State.Calm.refl s).upholds

theorem State.storeStep_upholds {f : State → State} (h : ∀ u : State, u.Upholds (f u)) : s.Upholds (s.storeStep f) := by
  unfold State.storeStep
  split
  · exact s.begin_calm.upholds.trans (h _)
  · exact s.begin_calm.upholds

/-! ### Boot events and start-up (8.5, chapter 12) -/

theorem State.stagingDiscarded_calm {d : Decision} : s.Calm (s.stagingDiscarded d) := by
  have h : (s.applyDecision d).Calm ((s.applyDecision d).discardWear d) := by
    unfold State.discardWear
    split
    · exact .refl _
    · exact (State.setHealth_books _).calm
  exact (s.applyDecision_calm.trans h).trans ((State.clearClean_calm _).trans (State.eraseChunk_books _).calm)

/-- R61: an offer that nobody waits for any more, where the hold that waited for it is discarded. -/
def Offer.released (o : Offer) : Offer :=
  if o.owner = .holdMap ∨ o.owner = .holdWear then { o with owner := .nobody } else o

theorem Offer.released_request (o : Offer) : (o.released.owner == .request) = (o.owner == .request) := by
  unfold Offer.released
  split
  · next h => rcases h with h | h <;> rw [h] <;> rfl
  · rfl

/-- The hold is gone: the tracker is IDLE, and nobody waits for its records. -/
def State.unheld (s : State) : State :=
  { s with
    tracker := .idle
    store := { s.store with
      queue := s.store.queue.map Offer.released, waiting := s.store.waiting.map Offer.released } }

theorem State.discardHeld_of_held {op : OpRecord} {h : Hold} (ht : s.tracker = .eraseHeld op h) :
    s.discardHeld = match h.decision with
      | none => s.unheld
      | some d => s.unheld.stagingDiscarded d := by
  unfold State.discardHeld
  rw [ht]
  rfl

theorem State.discardHeld_of_not_held (ht : ∀ op h, s.tracker ≠ .eraseHeld op h) : s.discardHeld = s := by
  unfold State.discardHeld
  split
  · next op h e => exact absurd e (ht op h)
  · rfl

/-- What a request waits for stays when a hold is discarded. -/
theorem State.unheld_owes_request : s.unheld.store.owes .request = s.store.owes .request := by
  simp [Store.owes, Store.offers, State.unheld, Function.comp_def, Offer.released_request]

theorem State.unheld_upholds : s.Upholds s.unheld := by
  refine ⟨id, fun hw => ?_⟩
  have hb := (State.waitsBacked_iff s).1 hw
  rw [State.waitsBacked_iff, State.unheld_owes_request]
  exact ⟨nofun, hb.2⟩

theorem State.discardHeld_upholds : s.Upholds s.discardHeld := by
  by_cases ht : ∃ op h, s.tracker = .eraseHeld op h
  · obtain ⟨op, h, ht⟩ := ht
    rw [s.discardHeld_of_held ht]
    split
    · exact s.unheld_upholds
    · exact s.unheld_upholds.trans (State.stagingDiscarded_calm _).upholds
  · rw [s.discardHeld_of_not_held fun op h e => ht ⟨op, h, e⟩]
    exact (State.Calm.refl s).upholds

/-- What the discard of a hold leaves of the lines, the flags and the rest of the part. -/
theorem State.discardHeld_keeps :
    s.discardHeld.phase = s.phase ∧ s.discardHeld.hrstDriven = s.hrstDriven ∧ s.discardHeld.portOpen = s.portOpen := by
  have hd (u : State) (d : Decision) := u.stagingDiscarded_calm (d := d)
  by_cases ht : ∃ op h, s.tracker = .eraseHeld op h
  · obtain ⟨op, h, ht⟩ := ht
    rw [s.discardHeld_of_held ht]
    split
    · exact ⟨rfl, rfl, rfl⟩
    · exact ⟨(hd _ _).phase, (hd _ _).hrstDriven, (hd _ _).portOpen⟩
  · rw [s.discardHeld_of_not_held fun op h e => ht ⟨op, h, e⟩]
    exact ⟨rfl, rfl, rfl⟩

/-- R133: the port is closed and the line driven for the boot event that begins. -/
theorem State.hostReset_upholds (hp : s.phase = .running) :
    s.Upholds ((({ s.begin with hrstDriven := true, portOpen := false }.discardHeld).beginBoot false).resettle) where
  lines _ := by
    set u : State := { s.begin with hrstDriven := true, portOpen := false }
    obtain ⟨hph, hdr, hop⟩ := u.discardHeld_keeps
    have hb := (u.discardHeld.beginBoot_books (startup := false)).trans (State.resettle_books _)
    have hph' : ((u.discardHeld.beginBoot false).resettle).phase = .running := (hb.phase.trans hph).trans hp
    refine ⟨fun h => ?_, fun h => ?_, fun _ _ => (State.resettle_books _).boot (State.beginBoot_boot ..)⟩
    · rw [hb.portOpen, hop] at h
      cases h
    · rw [hph'] at h
      rcases h with h | h <;> cases h
  waits h := by
    have hu : State.waitsBacked { s.begin with hrstDriven := true, portOpen := false } := h
    exact ((State.beginBoot_books _).trans (State.resettle_books _)).upholds.waits
      ((State.discardHeld_upholds _).waits hu)

theorem State.releaseHost_upholds (hp : s.phase = .running) : s.Upholds s.releaseHost where
  lines _ := by
    refine ⟨fun _ => ⟨hp, rfl⟩, fun h => ?_, nofun⟩
    have : s.phase = .inReset ∨ s.phase = .idleWait := h
    rw [hp] at this
    rcases this with h | h <;> cases h
  waits h := by
    have hw := s.store.startEnded_sameWork
    rw [State.waitsBacked_iff] at h ⊢
    have : s.releaseHost.store = s.store.startEnded := rfl
    rw [this, hw.owes, hw.owes, hw.owes, hw.rowBusy]
    exact h

theorem State.applyRecord_calm {r : Record} : s.Calm (s.applyRecord r) := by
  unfold State.applyRecord
  split
  case h_7 => split <;> exact .of_eq rfl
  all_goals exact .of_eq rfl

theorem State.replay_calm : s.Calm s.replay := by
  unfold State.replay
  split
  · exact .trans (t := { s.freshStaging with targets := s.targets.map fun _ => TargetDyn.blank }) (.of_eq rfl)
      (State.updStore_calm ⟨rfl, rfl, rfl⟩)
  · extract_lets cells recs s1 same s2 closed
    have h1 : s.Calm s1 := State.Calm.foldl (fun _ _ => State.applyRecord_calm _) _ _
    have h2 : s1.Calm s2 := by
      unfold s2
      split
      · exact .refl s1
      · exact .of_eq rfl
    refine (h1.trans h2).trans (State.updStore_calm ?_)
    extract_lets st1
    split <;> exact ⟨rfl, rfl, rfl⟩

theorem reconcileField_calm {replayed : State} {t : Nat} {st : SlotState} {f : Option Nat} :
    s.Calm (reconcileField replayed t st f s) := by
  unfold reconcileField
  split
  · exact .refl s
  · split
    · exact .of_eq rfl
    · exact .refl s

theorem State.reconcileTarget_calm {t : Nat} : s.Calm (s.reconcileTarget t) :=
  ((reconcileField_calm s).trans ((reconcileField_calm _).trans (reconcileField_calm _))).trans (.of_eq rfl)

theorem State.reconcile_calm : s.Calm s.reconcile :=
  (State.Calm.foldl (fun _ _ => State.reconcileTarget_calm _) _ _).trans (State.offerInOrder_books _).calm

theorem State.completeRetired_calm : s.Calm s.completeRetired := .of_eq rfl
theorem State.rebuildPool_calm : s.Calm s.rebuildPool := .of_eq rfl
theorem State.rebuild_calm : s.Calm s.rebuild := .of_eq rfl

theorem State.rebuilt_calm : s.Calm s.replay.completeRetired.rebuildPool.reconcile.rebuild :=
  (s.replay_calm.trans ((State.completeRetired_calm _).trans (State.rebuildPool_calm _))).trans
    ((State.reconcile_calm _).trans (State.rebuild_calm _))

/-- R187: start-up's boot event is in progress when the part runs, and the line is still driven. -/
theorem State.afterIdleWait_upholds (h : s.phase = .idleWait) : s.Upholds { s with phase := .running }.afterIdleWait := by
  set u : State := { s with phase := .running } with hu
  have hc : u.Calm u.afterIdleWait := u.rebuilt_calm.trans ((State.beginBoot_books _).trans (State.resettle_books _)).calm
  refine ⟨fun hl => ?_, fun hw => hc.upholds.waits hw⟩
  obtain ⟨hopen, hreset, -⟩ := hl
  have hrun : u.afterIdleWait.phase = .running := hc.phase
  refine ⟨fun ho => ?_, fun hp => ?_, fun _ _ => (State.resettle_books _).boot (State.beginBoot_boot ..)⟩
  · have := (hopen (hc.portOpen.symm.trans ho)).1
    rw [h] at this
    cases this
  · rw [hrun] at hp
    rcases hp with hp | hp <;> cases hp

end

/-! ### Every command -/

section
variable (s : State)

theorem execRead_upholds (tx : HostTxn) (len : Nat) (d : Drift) :
    ∃ t, execRead tx len d s = .next t ∧ s.Upholds t := by
  refine ⟨_, rfl, ?_⟩
  split
  · exact (s.begin_drift_calm.trans (State.readRuns_calm _)).upholds
  · exact s.begin_calm.upholds

theorem execStatusRead_upholds (tx : HostTxn) (answers : List Byte) :
    ∃ t, execStatusRead tx answers s = .next t ∧ s.Upholds t := by
  refine ⟨_, rfl, ?_⟩
  split
  · exact ((s.begin_calm.trans (State.send_books _).calm).trans
      (State.Calm.foldl (fun _ _ => State.statusByte_calm _) _ _)).upholds
  · exact s.begin_calm.upholds

theorem execProgram_upholds (tx : HostTxn) : ∃ t, execProgram tx s = .next t ∧ s.Upholds t := by
  refine ⟨_, rfl, ?_⟩
  split
  · exact s.begin_calm.upholds.trans (State.takeWrite_upholds _ fun u => u.idleProgram_upholds)
  · exact s.begin_calm.upholds

theorem execEraseSector_upholds (tx : HostTxn) (e : Nat) (cut : Bool) :
    ∃ t, execEraseSector tx e cut s = .next t ∧ s.Upholds t := by
  refine ⟨_, rfl, ?_⟩
  split
  · exact s.begin_tick_calm.upholds.trans (State.takeWrite_upholds _ fun u => u.idleEraseSector_upholds)
  · exact s.begin_tick_calm.upholds

theorem execEraseLarge_upholds (tx : HostTxn) (e : Nat) (cut : Bool) :
    ∃ t, execEraseLarge tx e cut s = .next t ∧ s.Upholds t := by
  refine ⟨_, rfl, ?_⟩
  split
  · exact s.begin_tick_calm.upholds.trans (State.takeWrite_upholds _ fun u => u.idleEraseLarge_upholds)
  · exact s.begin_tick_calm.upholds

theorem execEraseChip_upholds (tx : HostTxn) : ∃ t, execEraseChip tx s = .next t ∧ s.Upholds t := by
  refine ⟨_, rfl, ?_⟩
  split
  · exact s.begin_calm.upholds.trans (State.takeWrite_upholds _ fun u => u.refuseWrite_calm.upholds)
  · exact s.begin_calm.upholds

theorem State.setFlags_calm {e p : Bool} : s.Calm { s with echo := e, pendingWD := p } := .of_eq rfl
theorem State.setPendingWD_calm {p : Bool} : s.Calm { s with pendingWD := p } := .of_eq rfl
theorem State.setHostOut_calm {out : List Byte} {n : Nat} : s.Calm { s with hostOut := out, freeCount := n } :=
  .of_eq rfl

theorem execWriteEnable_upholds (tx : HostTxn) : ∃ t, execWriteEnable tx s = .next t ∧ s.Upholds t := by
  refine ⟨_, rfl, State.Calm.upholds ?_⟩
  split
  · exact (s.begin_calm.trans (State.send_books _).calm).trans
      ((State.setLatch_calm _).trans (State.setFlags_calm _))
  · exact s.begin_calm

theorem execWriteDisable_upholds (tx : HostTxn) : ∃ t, execWriteDisable tx s = .next t ∧ s.Upholds t := by
  refine ⟨_, rfl, State.Calm.upholds ?_⟩
  split
  · exact (s.begin_calm.trans (State.send_books _).calm).trans
      ((State.setLatch_calm _).trans (State.setPendingWD_calm _))
  · exact s.begin_calm

theorem execPass_upholds (tx : HostTxn) (answers : List Byte) : ∃ t, execPass tx answers s = .next t ∧ s.Upholds t := by
  refine ⟨_, rfl, State.Calm.upholds ?_⟩
  split
  · exact (s.begin_calm.trans (State.send_books _).calm).trans
      ((State.setLatch_calm _).trans (State.setHostOut_calm _))
  · exact s.begin_calm

theorem execBlock_upholds (tx : HostTxn) (len : Nat) : ∃ t, execBlock tx len s = .next t ∧ s.Upholds t := by
  refine ⟨_, rfl, State.Calm.upholds ?_⟩
  split <;> exact ⟨rfl, rfl, rfl, id, id, id, fun _ => id, id⟩

theorem execRequestNotCarried_upholds (image : List Byte) :
    ∃ t, execRequestNotCarried image s = .next t ∧ s.Upholds t := by
  refine ⟨_, rfl, ?_⟩
  split
  · exact State.Upholds.trans (t := { s.begin with echo := false }) (State.Calm.upholds (.of_eq rfl))
      (State.judgeRecord_upholds _)
  · exact s.begin_calm.upholds

theorem execProgramEnd_upholds (b : Byte) : ∃ t, execProgramEnd b s = .next t ∧ s.Upholds t := by
  refine ⟨_, rfl, State.Calm.upholds ?_⟩
  split
  · exact s.begin_calm.trans (State.observeEnd_calm _)
  · exact s.begin_calm

theorem execEraseEnd_upholds (b : Byte) : ∃ t, execEraseEnd b s = .next t ∧ s.Upholds t := by
  refine ⟨_, rfl, State.Calm.upholds ?_⟩
  split
  · exact s.begin_calm.trans (State.observeEnd_calm _)
  · exact s.begin_calm

theorem execStatusPoll_upholds (answers : List Byte) : ∃ t, execStatusPoll answers s = .next t ∧ s.Upholds t := by
  refine ⟨_, rfl, State.Calm.upholds ?_⟩
  split
  · exact (s.begin_calm.trans (State.pollBytes_calm ..)).trans (State.send_books _).calm
  · exact s.begin_calm

theorem execPendingWriteDisable_upholds (cut : Bool) :
    ∃ t, execPendingWriteDisable cut s = .next t ∧ s.Upholds t := by
  refine ⟨_, rfl, State.Calm.upholds ?_⟩
  split
  · extract_lets cut' s1
    have h1 : s.Calm s1 := s.begin_calm.trans (State.send_books _).calm
    split
    · exact h1
    · exact h1.trans (s1.setLatch_calm.trans (State.setPendingWD_calm _))
  · exact s.begin_calm

theorem State.releaseGuard_calm : s.Calm s.releaseGuard := by
  unfold State.releaseGuard
  split
  · next op h ht =>
    split
    · exact ⟨rfl, rfl, rfl, id, by rw [ht]; exact id, id, fun _ => id, id⟩
    · exact .refl s
  · exact .refl s

theorem State.forwardHeld_calm {op : OpRecord} {h : Hold} {cut : SendCut} : s.Calm (s.forwardHeld op h cut) := by
  unfold State.forwardHeld
  extract_lets enable
  split
  · exact .of_eq rfl
  · exact .of_eq rfl
  · exact ((State.send_books s).calm.trans (State.setLatch_calm _)).trans (State.forwardErase_calm _)

theorem execHeldEraseForward_upholds (e : Nat) (cut : SendCut) :
    ∃ t, execHeldEraseForward e cut s = .next t ∧ s.Upholds t := by
  refine ⟨_, rfl, State.Calm.upholds ?_⟩
  split
  · split
    · exact s.begin_tick_calm.trans (State.forwardHeld_calm _)
    · exact s.begin_tick_calm
  · exact s.begin_tick_calm

/-- A verdict: the job ends, its outcome takes effect in the books, and the engine goes on. -/
theorem State.verdict_upholds {d : Drift} {j : Job} {t : State} (h : ((s.begin.drift d).endJob j).Books t) :
    s.Upholds t.resettle :=
  s.begin_drift_calm.upholds.trans (((State.endJob_books _).trans h).trans (State.resettle_books _)).upholds

theorem State.admissionOutcome_books {i : Nat} {w : List Word} {tag : Bool} : s.Books (s.admissionOutcome i w tag) := by
  unfold State.admissionOutcome
  split
  · exact s.admitSlot_books
  · exact s.rejectAdmission_books

theorem State.reloadOutcome_books {i : Nat} {w : List Word} {tag : Bool} : s.Books (s.reloadOutcome i w tag) := by
  unfold State.reloadOutcome
  split
  · exact s.reloadPassedSlot_books
  · exact s.reloadFailedSlot_books

theorem execAdmissionVerdict_upholds (d : Drift) : ∃ t, execAdmissionVerdict d s = .next t ∧ s.Upholds t := by
  refine ⟨_, rfl, ?_⟩
  split
  · exact s.begin_drift_calm.upholds
  · exact s.verdict_upholds (State.admissionOutcome_books _)

theorem execReloadVerdict_upholds (d : Drift) : ∃ t, execReloadVerdict d s = .next t ∧ s.Upholds t := by
  refine ⟨_, rfl, ?_⟩
  split
  · exact s.begin_drift_calm.upholds
  · exact s.verdict_upholds (State.reloadOutcome_books _)

theorem execChunkVerdict_upholds (d : Drift) : ∃ t, execChunkVerdict d s = .next t ∧ s.Upholds t := by
  refine ⟨_, rfl, ?_⟩
  split
  · exact s.begin_drift_calm.upholds
  · exact s.verdict_upholds (State.chunkVerdict_books _)

theorem execPatrolVerdict_upholds (d : Drift) : ∃ t, execPatrolVerdict d s = .next t ∧ s.Upholds t := by
  refine ⟨_, rfl, ?_⟩
  split
  · exact s.begin_drift_calm.upholds
  · exact s.verdict_upholds (State.patrolVerdict_books _)

theorem execBootScanManifestVerdict_upholds (d : Drift) :
    ∃ t, execBootScanManifestVerdict d s = .next t ∧ s.Upholds t := by
  refine ⟨_, rfl, ?_⟩
  split
  · exact s.verdict_upholds (State.scanManifestVerdict_books _)
  · exact s.begin_drift_calm.upholds

theorem execBootScanChunkVerdict_upholds (d : Drift) : ∃ t, execBootScanChunkVerdict d s = .next t ∧ s.Upholds t := by
  refine ⟨_, rfl, ?_⟩
  split
  · exact s.verdict_upholds (State.scanChunkVerdict_books _)
  · exact s.begin_drift_calm.upholds

theorem execPatrolTick_upholds (e : Nat) : ∃ t, execPatrolTick e s = .next t ∧ s.Upholds t := by
  refine ⟨_, rfl, State.Calm.upholds ?_⟩
  split
  · split
    · exact .trans (.of_eq rfl) (State.patrolStep_books _).calm
    · exact s.begin_tick_calm
  · exact s.begin_tick_calm

theorem execHostResetSeen_upholds : ∃ t, execHostResetSeen s = .next t ∧ s.Upholds t := by
  refine ⟨_, rfl, ?_⟩
  split
  · next h => exact s.hostReset_upholds (by simp at h; exact h.1.1)
  · exact s.begin_calm.upholds

theorem execHrstRelease_upholds (e : Nat) : ∃ t, execHrstRelease e s = .next t ∧ s.Upholds t := by
  refine ⟨_, rfl, ?_⟩
  split
  · next h =>
    refine s.begin_tick_calm.upholds.trans (State.releaseHost_upholds _ ?_)
    simp only [State.releaseReady, Bool.and_eq_true, beq_iff_eq] at h
    exact h.1.1.1
  · exact s.begin_tick_calm.upholds

theorem execHrstNSeenHigh_upholds : ∃ t, execHrstNSeenHigh s = .next t ∧ s.Upholds t := by
  refine ⟨_, rfl, State.Calm.upholds ?_⟩
  split <;> exact .of_eq rfl

theorem execResetInAssert_upholds (b : Bool) : ∃ t, execResetInAssert b s = .next t ∧ s.Upholds t := by
  refine ⟨_, rfl, ?_⟩
  split
  · exact s.begin_calm.upholds
  · exact s.partReset_upholds

theorem execPowerLoss_upholds (b : Bool) : ∃ t, execPowerLoss b s = .next t ∧ s.Upholds t :=
  ⟨_, rfl, fun _ => by simp [State.linesSafe, State.partReset_portOpen],
    fun _ => by simp [State.waitsBacked, State.partReset_tracker, State.partReset_lastOutcome]⟩

theorem execStartup_upholds : ∃ t, execStartup s = .next t ∧ s.Upholds t := by
  refine ⟨_, rfl, ?_⟩
  split
  · next hp =>
    refine ⟨fun hl => ?_, id⟩
    obtain ⟨hopen, hreset, -⟩ := hl
    refine ⟨fun ho => ?_, fun _ => hreset (.inl hp), nofun⟩
    have := (hopen ho).1
    rw [hp] at this
    cases this
  · exact s.begin_calm.upholds

theorem execFlashIdleWaitEnd_upholds (answers : List Byte) :
    ∃ t, execFlashIdleWaitEnd answers s = .next t ∧ s.Upholds t := by
  refine ⟨_, rfl, ?_⟩
  split
  · next hp =>
    have hc (m : MemTxn) := (s.begin_calm.trans (State.idleBytes_calm _ answers 0)).trans
      (State.send_books _ (t := m)).calm
    dsimp only
    split
    · exact (hc _).upholds.trans (State.afterIdleWait_upholds _ ((hc _).phase.trans hp))
    · exact (hc _).upholds
  · exact s.begin_calm.upholds

/-- Every command answers a next state, and upholds the rule of the lines and of the waits. -/
theorem exec_upholds (c : Instr) : ∃ t, exec c s = .next t ∧ s.Upholds t := by
  cases c with
  | read tx len d => exact execRead_upholds s tx len d
  | statusRead tx answers => exact execStatusRead_upholds s tx answers
  | program tx => exact execProgram_upholds s tx
  | eraseSector tx e cut => exact execEraseSector_upholds s tx e cut
  | eraseLarge tx e cut => exact execEraseLarge_upholds s tx e cut
  | eraseChip tx => exact execEraseChip_upholds s tx
  | writeEnable tx => exact execWriteEnable_upholds s tx
  | writeDisable tx => exact execWriteDisable_upholds s tx
  | pass tx answers => exact execPass_upholds s tx answers
  | block tx len => exact execBlock_upholds s tx len
  | transactionDropped tx => exact ⟨_, rfl, s.begin_calm.upholds⟩
  | activate => exact ⟨_, rfl, s.request_upholds fun u => u.reqActivate_upholds⟩
  | confirm => exact ⟨_, rfl, s.request_upholds fun u => u.reqConfirm_upholds⟩
  | abandon => exact ⟨_, rfl, s.request_upholds fun u => u.reqAbandon_upholds⟩
  | discard => exact ⟨_, rfl, s.request_upholds fun u => u.reqDiscard_upholds⟩
  | clearStaging => exact ⟨_, rfl, s.request_upholds fun u => u.reqClearStaging_upholds⟩
  | setSlotCode => exact ⟨_, rfl, s.request_upholds fun u => u.reqSetSlotCode_upholds⟩
  | logFree => exact ⟨_, rfl, s.request_upholds fun u => u.reqLogFree_upholds⟩
  | ackAlert => exact ⟨_, rfl, s.request_upholds fun u => u.reqAckAlert_upholds⟩
  | reload => exact ⟨_, rfl, s.request_upholds fun u => u.reqReload_upholds⟩
  | keyWrite => exact ⟨_, rfl, s.request_upholds fun u => u.reqKeyWrite_upholds⟩
  | keyRevoke => exact ⟨_, rfl, s.request_upholds fun u => u.reqKeyRevoke_upholds⟩
  | targetWrite => exact ⟨_, rfl, s.request_upholds fun u => u.reqTargetWrite_upholds⟩
  | configWrite => exact ⟨_, rfl, s.request_upholds fun u => u.reqConfigWrite_upholds⟩
  | lock => exact ⟨_, rfl, s.request_upholds fun u => u.reqLock_upholds⟩
  | factoryClear => exact ⟨_, rfl, s.request_upholds fun u => u.reqFactoryClear_upholds⟩
  | requestNotCarried image => exact execRequestNotCarried_upholds s image
  | programEnd b => exact execProgramEnd_upholds s b
  | eraseEnd b => exact execEraseEnd_upholds s b
  | statusPoll answers => exact execStatusPoll_upholds s answers
  | pendingWriteDisable cut => exact execPendingWriteDisable_upholds s cut
  | guardRelease e => exact ⟨_, rfl, (s.begin_tick_calm.trans (State.releaseGuard_calm _)).upholds⟩
  | heldEraseForward e cut => exact execHeldEraseForward_upholds s e cut
  | verifyRead n d => exact ⟨_, rfl, s.begin_drift_calm.upholds.trans (State.verifyRead_books _).upholds⟩
  | admissionVerdict d => exact execAdmissionVerdict_upholds s d
  | reloadVerdict d => exact execReloadVerdict_upholds s d
  | chunkVerdict d => exact execChunkVerdict_upholds s d
  | patrolTick e => exact execPatrolTick_upholds s e
  | patrolVerdict d => exact execPatrolVerdict_upholds s d
  | hostResetSeen => exact execHostResetSeen_upholds s
  | bootScanManifestVerdict d => exact execBootScanManifestVerdict_upholds s d
  | bootScanChunkVerdict d => exact execBootScanChunkVerdict_upholds s d
  | hrstRelease e => exact execHrstRelease_upholds s e
  | recordWriteBegin =>
    exact ⟨_, rfl, s.storeStep_upholds fun u => (State.updStore_calm u.store.beginRecord_sameWork).upholds⟩
  | recordWriteEnd => exact ⟨_, rfl, s.storeStep_upholds fun u => u.recordWritten_upholds⟩
  | rowWriteBegin => exact ⟨_, rfl, s.storeStep_upholds fun u => (State.updStore_calm u.store.beginRow_sameWork).upholds⟩
  | rowWriteEnd => exact ⟨_, rfl, s.storeStep_upholds fun u => u.rowWritten_upholds⟩
  | compactionStart => exact ⟨_, rfl, s.storeStep_upholds fun u => u.startCompaction_calm.upholds⟩
  | snapshotRecordWrite => exact ⟨_, rfl, s.storeStep_upholds fun u => u.writeSnapshot_calm.upholds⟩
  | halfEraseEnd half => exact ⟨_, rfl, s.storeStep_upholds fun u => (State.updStore_calm u.store.updHalf_sameWork).upholds⟩
  | powerOn b => exact ⟨_, rfl, s.partReset_upholds⟩
  | resetInAssert b => exact execResetInAssert_upholds s b
  | startup => exact execStartup_upholds s
  | flashIdleWaitEnd answers => exact execFlashIdleWaitEnd_upholds s answers
  | powerLoss b => exact execPowerLoss_upholds s b
  | hrstNSeenHigh => exact execHrstNSeenHigh_upholds s

/-- A step upholds both rules: on an empty queue it changes nothing, and else it is the front command's. -/
theorem step_upholds : ∃ t, step s = .next t ∧ s.Upholds t := by
  unfold step
  split
  · exact ⟨s, rfl, (State.Calm.refl s).upholds⟩
  · next c rest _ =>
    obtain ⟨t, ht, h⟩ := exec_upholds { s with pending := rest } c
    exact ⟨t, ht, h.lines, h.waits⟩

end

/-- Settles O4: every command upholds the rule of the lines. -/
theorem linesKept : Obligations.LinesKept := by
  intro s hs t' ht'
  obtain ⟨t, ht, h⟩ := step_upholds s
  cases ht.symm.trans ht'
  exact h.lines hs

/-- Settles O5: every command upholds the rule of the waits. -/
theorem waitsKept : Obligations.WaitsKept := by
  intro s hs t' ht'
  obtain ⟨t, ht, h⟩ := step_upholds s
  cases ht.symm.trans ht'
  exact h.waits hs

end Sys2Proof.Machine
end

section
/-! The host's transactions on the pass-through path (1.1 to 1.5): what is passed on, answered, dropped and refused, and the
status byte the host sees. -/

namespace Sys2Proof.Machine

open Sys2Proof

/-! ### What the port takes (R2) -/

theorem State.takes_of_closed {s : State} (h : s.portOpen = false ∨ s.hrstDriven = true) (c : TxClass) (tx : HostTxn)
    (n : Nat) : s.takes c tx n = false := by
  rcases h with h | h <;> simp [State.takes, State.accepts, h]

theorem State.phase_of_takes {s : State} {c : TxClass} {tx : HostTxn} {n : Nat} (h : s.takes c tx n = true) :
    s.phase = .running := ((s.takes_iff c tx n).1 h).1

@[simp] theorem State.tick_zero (s : State) : s.tick 0 = s := by simp [State.tick]

theorem State.tick_of_running {s : State} (h : s.phase = .running) (e : Nat) :
    s.tick e = { s with clock := s.clock + e } := by simp [State.tick, h]

/-! ### Commands passed on, and BLOCK (R9, R10) -/

/-- Settles O8: each of the three commands is sent on, and its flags are set as R9 says. -/
theorem commandsPassedOn : Obligations.CommandsPassedOn := by
  intro tx answers s
  refine ⟨fun h => ?_, fun h => ?_, fun h => ⟨Config.freeBit s.freeCount 0, s.freeCount + 1, ?_⟩⟩
  · show execWriteEnable tx s = _
    rw [execWriteEnable, if_pos h]
    simp only [State.setLatch, State.send, State.begin, List.nil_append]
  · show execWriteDisable tx s = _
    rw [execWriteDisable, if_pos h]
    simp only [State.setLatch, State.send, State.begin, List.nil_append]
  · show execPass tx answers s = _
    rw [execPass, if_pos h]
    simp only [State.setLatch, State.send, State.begin, List.nil_append]

/-- R4: an opcode that no entry holds is BLOCK. -/
theorem classify_of_absent {p : List ProfileEntry} {op : Byte} (h : ∀ e ∈ p, e.opcode ≠ op) :
    classify p op = { opcode := op, cls := .block, addrLen := 0, dummyLen := 0 } := by
  have : p.find? (fun e => e.opcode == op) = none := List.find?_eq_none.2 fun e he => by simpa using h e he
  simp [classify, this]

/-- Settles O9. -/
theorem blockAllOnes : Obligations.BlockAllOnes := by
  refine ⟨fun tx len s h => ?_, fun s op h => classify_of_absent h⟩
  show execBlock tx len s = _
  rw [execBlock, if_pos h]
  rfl

/-- Settles O10: a port that is closed, or a part that drives HRST_N low, takes no transaction. -/
theorem droppedNoEffect : Obligations.DroppedNoEffect := by
  refine fun tx s => ⟨rfl, fun h len answers => ?_⟩
  have hn (c : TxClass) (n : Nat) : s.takes c tx n = false := State.takes_of_closed h c tx n
  simp only [exec, execRead, execStatusRead, execProgram, execEraseSector, execEraseLarge, execEraseChip,
    execWriteEnable, execWriteDisable, execPass, execBlock, hn, Bool.false_and, State.tick_zero]
  exact ⟨rfl, rfl, rfl, rfl, rfl, rfl, rfl, rfl, rfl, rfl⟩

/-! ### The status byte (R8, R16) -/

theorem getLsbD_setBit_true (b : Byte) (i : Nat) {j : Nat} (hj : j < 8) :
    (setBit b i true).getLsbD j = (b.getLsbD j || decide (j = i)) := by
  simp only [setBit, if_true, BitVec.getLsbD_or, BitVec.getLsbD_ofNat, Nat.testBit_two_pow, hj, decide_true,
    Bool.true_and, eq_comm]

theorem State.composeStatus_of_held {s : State} {op : OpRecord} {h : Hold} (ht : s.tracker = .eraseHeld op h)
    (raw : Byte) : s.composeStatus raw = setBit raw s.cfg.geometry.busyBit true := by
  simp [State.composeStatus, ht]

theorem State.composeStatus_of_not_held {s : State} (ht : ∀ op h, s.tracker ≠ .eraseHeld op h) (raw : Byte) :
    s.composeStatus raw =
      if s.echo then setBit (setBit raw s.cfg.geometry.busyBit false) s.cfg.geometry.failBit true else raw := by
  unfold State.composeStatus
  split
  · next op h e => exact absurd e (ht op h)
  · rfl

/-- Settles O11, by the bits of the byte that R8 sets. -/
theorem statusComposed : Obligations.StatusComposed := by
  intro s raw i hi hne _ _
  refine ⟨fun op h ht => ?_, fun ht he => ?_, fun ht he => ?_⟩
  · rw [State.composeStatus_of_held ht, getLsbD_setBit_true _ _ hi]
  · rw [State.composeStatus_of_not_held ht, if_pos he, getLsbD_setBit_true _ _ hi, getLsbD_setBit_false]
    by_cases hb : i = s.cfg.geometry.busyBit
    · simp [hb, hne]
    · by_cases hf : i = s.cfg.geometry.failBit <;> simp [hb, hf, Ne.symm hne]
  · rw [State.composeStatus_of_not_held ht, he]
    rfl

/-- With nothing in flight and no ignored write, a status byte only goes out to the host. -/
theorem State.statusByte_of_quiet {s : State} (ht : s.tracker.inFlight = false) (ho : s.flash.op = none)
    (hi : s.flash.ignored = false) (b : Byte) :
    s.statusByte b = { s with hostOut := s.hostOut ++ [s.composeStatus b] } := by
  have hraw : s.flashAnswer b = b := by simp [State.flashAnswer, hi]
  have hflash : s.flashObserved b = s := by
    have hf : { s.flash with ignored := false } = s.flash := by rw [← hi]
    rw [State.flashObserved, ho]
    simp only [hf]
  have hobs : s.observe b = s := by
    unfold State.observe
    cases hk : s.tracker <;> simp_all [Tracker.inFlight]
  unfold State.statusByte
  simp only [hraw, hobs]

theorem State.foldl_statusByte_of_quiet {s : State} (ht : s.tracker.inFlight = false) (ho : s.flash.op = none)
    (hi : s.flash.ignored = false) (bs : List Byte) :
    bs.foldl State.statusByte s = { s with hostOut := s.hostOut ++ bs.map s.composeStatus } := by
  induction bs generalizing s with
  | nil => simp
  | cons b bs ih =>
    rw [List.foldl_cons, State.statusByte_of_quiet ht ho hi]
    refine (ih (s := { s with hostOut := s.hostOut ++ [s.composeStatus b] }) ht ho hi).trans ?_
    simp only [List.append_assoc, List.singleton_append, List.map_cons]
    rfl

/-- Settles O12: each byte goes out as composed, by induction on the bytes. -/
theorem statusReadQuiet : Obligations.StatusReadQuiet := by
  intro tx answers s h ht ho hi
  show execStatusRead tx answers s = _
  rw [execStatusRead, if_pos h]
  exact congrArg _ (State.foldl_statusByte_of_quiet (s := s.begin.send (forwardTxn tx none answers.length)) ht ho hi answers)

/-! ### Writes by the state of the tracker (R11, R18) -/

/-- The state in which a write taken in IDLE is judged: the ports empty, the time passed, the echo clear (R11). -/
def State.heard (elapsed : Nat) (s : State) : State :=
  { s with hostOut := [], memOut := [], clock := s.clock + elapsed, echo := false }

theorem State.takeWrite_of_idle {s : State} (ht : s.tracker = .idle) (op : Byte) (a : Option Nat)
    (f : State → State) : s.takeWrite op a f = f { s with echo := false } := by
  simp [State.takeWrite, ht]

theorem exec_program_of_idle {s : State} {tx : HostTxn} (h : s.takes .program tx = true) (hd : tx.data ≠ [])
    (ht : s.tracker = .idle) : exec (.program tx) s = .next ((s.heard 0).idleProgram tx (txnAddress tx)) := by
  show execProgram tx s = _
  rw [execProgram, if_pos (by simp [h, hd]), State.takeWrite_of_idle (s := s.begin) ht]
  rfl

theorem exec_eraseSector_of_idle {s : State} {tx : HostTxn} (h : s.takes .eraseSector tx = true)
    (ht : s.tracker = .idle) (e : Nat) (cut : Bool) :
    exec (.eraseSector tx e cut) s = .next ((s.heard e).idleEraseSector tx (txnAddress tx) cut) := by
  show execEraseSector tx e cut s = _
  rw [execEraseSector, if_pos h, State.tick_of_running (s := s.begin) (State.phase_of_takes h)]
  exact congrArg _ (State.takeWrite_of_idle (s := { s.begin with clock := s.clock + e }) ht ..)

theorem exec_eraseLarge_of_idle {s : State} {tx : HostTxn} (h : s.takes .eraseLarge tx = true)
    (ht : s.tracker = .idle) (e : Nat) (cut : Bool) :
    exec (.eraseLarge tx e cut) s = .next ((s.heard e).idleEraseLarge tx (txnAddress tx) cut) := by
  show execEraseLarge tx e cut s = _
  rw [execEraseLarge, if_pos h, State.tick_of_running (s := s.begin) (State.phase_of_takes h)]
  exact congrArg _ (State.takeWrite_of_idle (s := { s.begin with clock := s.clock + e }) ht ..)

theorem exec_eraseChip_of_idle {s : State} {tx : HostTxn} (h : s.takes .eraseChip tx = true) (ht : s.tracker = .idle) :
    exec (.eraseChip tx) s = .next ((s.heard 0).refuseWrite .chipErase tx.opcode none) := by
  show execEraseChip tx s = _
  rw [execEraseChip, if_pos h, State.takeWrite_of_idle (s := s.begin) ht]
  rfl

theorem State.takeWrite_of_inFlight {s : State} (h : s.tracker.inFlight = true) (op : Byte) (a : Option Nat)
    (f : State → State) : s.takeWrite op a f = s := by
  unfold State.takeWrite
  cases ht : s.tracker <;> simp_all [Tracker.inFlight]

theorem State.takeWrite_of_held {s : State} {op : OpRecord} {h : Hold} (ht : s.tracker = .eraseHeld op h) (c : Byte)
    (a : Option Nat) (f : State → State) : s.takeWrite c a f = s.refuseHeld c a := by
  simp [State.takeWrite, ht]

/-- Settles O18: whatever the port takes of them, nothing happens. -/
theorem writesDroppedInFlight : Obligations.WritesDroppedInFlight := by
  intro tx s h
  have hd (op : Byte) (a : Option Nat) (f : State → State) : s.begin.takeWrite op a f = s.begin :=
    State.takeWrite_of_inFlight (s := s.begin) h op a f
  simp only [exec, execProgram, execEraseSector, execEraseLarge, execEraseChip, State.tick_zero, hd, ite_self]
  exact ⟨rfl, rfl, rfl, rfl⟩

/-- Settles O19: R18's refusal. -/
theorem writesRefusedHeld : Obligations.WritesRefusedHeld := by
  intro tx s op h ht
  have hr (c : Byte) (a : Option Nat) (f : State → State) : s.begin.takeWrite c a f = s.begin.refuseHeld c a :=
    State.takeWrite_of_held (s := s.begin) ht c a f
  simp only [exec, execProgram, execEraseSector, execEraseLarge, execEraseChip, State.tick_zero, hr]
  refine ⟨fun h hd => ?_, fun h => ?_, fun h => ?_, fun h => ?_⟩
  · rw [if_pos (by simp [h, hd])]
    rfl
  · rw [if_pos h]
    rfl
  · rw [if_pos h]
    rfl
  · rw [if_pos h]
    rfl

/-! ### Writes taken in IDLE, by the kind of the entry (R30 to R32, R37, R39) -/

section
variable {s : State} {tx : HostTxn} {a : Nat}

theorem State.idleProgram_of_barred (h : s.cfg.kindAt (a / 4096) = some .liveProtected ∨
    s.cfg.kindAt (a / 4096) = some .bootWindow ∨ s.cfg.kindAt (a / 4096) = none) :
    s.idleProgram tx a = s.refuseWrite .protectedRegion tx.opcode (some a) := by
  rcases h with h | h | h <;> simp [State.idleProgram, h]

theorem State.idleEraseSector_of_barred {cut : Bool} (h : s.cfg.kindAt (a / 4096) = some .liveProtected ∨
    s.cfg.kindAt (a / 4096) = some .bootWindow ∨ s.cfg.kindAt (a / 4096) = none) :
    s.idleEraseSector tx a cut = s.refuseWrite .protectedRegion tx.opcode (some a) := by
  rcases h with h | h | h <;> simp [State.idleEraseSector, h]

theorem State.idleProgram_of_slack (h : s.cfg.kindAt (a / 4096) = some .staging)
    (hs : s.slotOf (s.cfg.logicalOf a) = none) :
    s.idleProgram tx a = s.refuseWrite .slack tx.opcode (some a) := by
  simp [State.idleProgram, h, State.stagingProgram, hs]

theorem State.idleEraseSector_of_staging {cut : Bool} (h : s.cfg.kindAt (a / 4096) = some .staging) :
    s.idleEraseSector tx a cut = s.stagingErase tx a cut := by
  simp [State.idleEraseSector, h]

theorem State.stagingErase_of_slack {cut : Bool} (hs : s.slotOf (s.cfg.logicalOf a) = none) :
    s.stagingErase tx a cut = s.refuseWrite .slack tx.opcode (some a) := by
  simp [State.stagingErase, hs]

theorem State.stagingErase_of_refused {cut : Bool} {i k : Nat} {r : Reason}
    (hs : s.slotOf (s.cfg.logicalOf a) = some (i, k)) (hr : s.judgeErase i k = some r) :
    s.stagingErase tx a cut = s.refuseWrite r tx.opcode (some a) := by
  simp [State.stagingErase, hs, hr]

theorem State.idleProgram_of_control (h : s.cfg.kindAt (a / 4096) = some .control)
    (hp : (a - s.cfg.startOf .control * 4096) / 256 ≠ 2) :
    s.idleProgram tx a = s.refuseWrite .controlPage tx.opcode (some a) := by
  have : s.inRequestPage a = false := by simpa [State.inRequestPage, requestPageNo] using hp
  simp [State.idleProgram, h, this]

theorem State.idleEraseSector_of_control {cut : Bool} (h : s.cfg.kindAt (a / 4096) = some .control) :
    s.idleEraseSector tx a cut = s.refuseWrite .controlPage tx.opcode (some a) := by
  simp [State.idleEraseSector, h]

/-- R43: the states that protect every sector of a slot from erases, and FILLING its header. -/
theorem State.judgeErase_slotState {i k : Nat} (h : (s.slotAt i).state = .sealed ∨ (s.slotAt i).state = .trial ∨
    (s.slotAt i).state = .active ∨ (s.slotAt i).state = .fallback ∨ (s.slotAt i).state = .failed ∨
    (s.slotAt i).state = .outdated ∨ ((s.slotAt i).state = .filling ∧ k = 0)) :
    s.judgeErase i k = some .slotState := by
  rcases h with h | h | h | h | h | h | ⟨h, hk⟩
  case inr.inr.inr.inr.inr.inr => simp [State.judgeErase, h, hk]
  all_goals simp [State.judgeErase, h]

end

/-- Settles O17: each refusal by the kind of the entry, and what R12 says of it. -/
theorem writesRefused : Obligations.WritesRefused := by
  intro tx s ht
  refine ⟨fun h hd hb => ?_, fun h hb => ?_, fun hk hs => ⟨fun h hd => ?_, fun h => ?_⟩,
    fun hk => ⟨fun h hd hp => ?_, fun h => ?_⟩, fun i k hk hs hst h => ?_, fun h hl => ?_, fun h => ?_⟩
  · rw [exec_program_of_idle h hd ht, State.idleProgram_of_barred (s := s.heard 0) hb]
    rfl
  · rw [exec_eraseSector_of_idle h ht, State.idleEraseSector_of_barred (s := s.heard 0) hb]
    rfl
  · rw [exec_program_of_idle h hd ht, State.idleProgram_of_slack (s := s.heard 0) hk hs]
    rfl
  · rw [exec_eraseSector_of_idle h ht, State.idleEraseSector_of_staging (s := s.heard 0) hk,
      State.stagingErase_of_slack (s := s.heard 0) hs]
    rfl
  · rw [exec_program_of_idle h hd ht, State.idleProgram_of_control (s := s.heard 0) hk hp]
    rfl
  · rw [exec_eraseSector_of_idle h ht, State.idleEraseSector_of_control (s := s.heard 0) hk]
    rfl
  · rw [exec_eraseSector_of_idle h ht, State.idleEraseSector_of_staging (s := s.heard 0) hk,
      State.stagingErase_of_refused (s := s.heard 0) hs (State.judgeErase_slotState (s := s.heard 0) hst)]
    rfl
  · have hl' : (s.heard 0).largeAccepted (txnAddress tx) = false := hl
    rw [exec_eraseLarge_of_idle h ht, State.idleEraseLarge, if_neg (by rw [hl']; exact Bool.false_ne_true)]
    rfl
  · rw [exec_eraseChip_of_idle h ht]
    rfl

/-- Settles O16. -/
theorem programLiveOpen : Obligations.ProgramLiveOpen := by
  intro tx s h hd ht hk
  have hk' : (s.heard 0).cfg.kindAt (txnAddress tx / 4096) = some .liveOpen := hk
  rw [exec_program_of_idle h hd ht, State.idleProgram, hk']
  rfl

/-! ### Erases accepted in LIVE_OPEN (R3, R19, R22) -/

/-- The host's erase as it is sent at an address (R3, R35). -/
def eraseTxn (tx : HostTxn) (a : Nat) (cut : Bool) : MemTxn := { forwardTxn tx (some a) 0 with data := [], cut := cut }

section
variable {s : State} {tx : HostTxn} {op : OpRecord} {d : Option Decision} {cut : Bool}

/-- R19: with a condition open the erase is held, and nothing is sent. -/
theorem State.acceptErase_of_open (h : d.any Decision.namesRecord = true ∨ s.guardAllows s.clock = false) :
    s.acceptErase tx op d cut = { s with
      tracker := .eraseHeld op
        { recordOpen := d.any Decision.namesRecord, guardOpen := !s.guardAllows s.clock, decision := d } } := by
  unfold State.acceptErase
  exact if_pos (by simpa using h)

/-- R3: with no condition open, an erase whose send is cut is held. -/
theorem State.acceptErase_of_cut (hd : d.any Decision.namesRecord = false) (hg : s.guardAllows s.clock = true) :
    s.acceptErase tx op d true =
      { s.send (eraseTxn tx (s.eraseAddress op d) true) with
        tracker := .eraseHeld op { recordOpen := false, guardOpen := false, decision := d } } := by
  unfold State.acceptErase
  simp [hd, hg, eraseTxn]

/-- R3, R20: with no condition open and no cut, an erase is forwarded. -/
theorem State.acceptErase_of_whole (hd : d.any Decision.namesRecord = false) (hg : s.guardAllows s.clock = true) :
    s.acceptErase tx op d false =
      s.forwardErase (eraseTxn tx (s.eraseAddress op d) false) op d := by
  unfold State.acceptErase
  simp [hd, hg, eraseTxn]

end

/-- R22: how many of the listed times lie in the window that ends at `now`. -/
def State.guardUsed (s : State) (now : Nat) : Nat :=
  (s.guard.filter fun x => decide (now < x + s.cfg.settings.egWindow) && decide (x ≤ now)).length

theorem State.guardAllows_eq (s : State) (now : Nat) :
    s.guardAllows now = decide (s.guardUsed now < s.cfg.settings.egMax) := rfl

/-- What becomes of an erase accepted in LIVE_OPEN. -/
theorem State.acceptErase_live (s : State) (tx : HostTxn) (op : OpRecord) (e : Nat) (cut : Bool) :
    (s.heard e).acceptErase tx op none cut =
      if s.guardUsed (s.clock + e) < s.cfg.settings.egMax then
        if cut then { s.heard e with
          memOut := [eraseTxn tx op.address true]
          tracker := .eraseHeld op { recordOpen := false, guardOpen := false, decision := none } }
        else { s.heard e with
          memOut := [eraseTxn tx op.address false]
          pendingWD := false, tracker := .eraseInFlight op, flash := s.flash.startOp (eraseRange op.cls op.address)
          guard := (if s.guard.length < s.cfg.settings.egMax then s.guard else s.guard.drop 1) ++ [s.clock + e] }
      else { s.heard e with
        tracker := .eraseHeld op { recordOpen := false, guardOpen := true, decision := none } } := by
  have hg : (s.heard e).guardAllows (s.heard e).clock = decide (s.guardUsed (s.clock + e) < s.cfg.settings.egMax) :=
    rfl
  by_cases hu : s.guardUsed (s.clock + e) < s.cfg.settings.egMax
  · rw [if_pos hu]
    rw [decide_eq_true hu] at hg
    cases cut with
    | true => exact State.acceptErase_of_cut rfl hg
    | false => exact State.acceptErase_of_whole rfl hg
  · rw [if_neg hu]
    rw [decide_eq_false hu] at hg
    rw [State.acceptErase_of_open (.inr hg), hg]
    rfl

/-- Settles O20, by the guard and the cut. -/
theorem liveErase : Obligations.LiveErase := by
  intro tx e s ht a now used op txn held outcome cutOutcome
  have hlive (c : TxClass) (cut : Bool) := s.acceptErase_live tx (op c) e cut
  refine ⟨fun h hk => ?_, fun h hl => ?_⟩
  · have hi (cut : Bool) : (s.heard e).idleEraseSector tx a cut = (s.heard e).acceptErase tx (op .eraseSector) none cut := by
      have hk' : (s.heard e).cfg.kindAt (a / 4096) = some .liveOpen := hk
      rw [State.idleEraseSector, hk']
    constructor
    · rw [exec_eraseSector_of_idle h ht, hi, hlive]
      exact congrArg _ (if_congr Iff.rfl rfl rfl)
    · rw [exec_eraseSector_of_idle h ht, hi, hlive]
      exact congrArg _ (if_congr Iff.rfl rfl rfl)
  · have hi (cut : Bool) : (s.heard e).idleEraseLarge tx a cut = (s.heard e).acceptErase tx (op .eraseLarge) none cut := by
      have hl' : (s.heard e).largeAccepted a = true := hl
      rw [State.idleEraseLarge, if_pos hl']
    constructor
    · rw [exec_eraseLarge_of_idle h ht, hi, hlive]
      exact congrArg _ (if_congr Iff.rfl rfl rfl)
    · rw [exec_eraseLarge_of_idle h ht, hi, hlive]
      exact congrArg _ (if_congr Iff.rfl rfl rfl)

end Sys2Proof.Machine
end

section
/-! The part's own steps on the memory side: the pending write-disable, the guard, polls, and the sending of a held erase
(1.4 to 1.8). -/

namespace Sys2Proof.Machine

open Sys2Proof

/-! ### The pending write-disable and the guard (R14, R22) -/

theorem State.disableReady_of {s : State} (hg : s.idleGap = true) (hp : s.pendingWD = true)
    (ht : s.tracker = .idle ∨ ∃ op h, s.tracker = .eraseHeld op h ∧ (h.recordOpen = true ∨ h.guardOpen = true)) :
    s.disableReady = true := by
  rcases ht with ht | ⟨op, h, ht, ho⟩
  · simp [State.disableReady, hg, hp, ht]
  · rcases ho with ho | ho <;> simp [State.disableReady, hg, hp, ht, Hold.ended, ho]

/-- Settles O43. -/
theorem pendingWriteDisable : Obligations.PendingWriteDisable := by
  intro s hg hp ht sent
  have hr := State.disableReady_of hg hp ht
  have ha := State.accepts_of_idleGap hg
  refine ⟨?_, fun hd => ?_, fun hd => ?_⟩
  · show execPendingWriteDisable false s = _
    rw [execPendingWriteDisable, if_pos hr]
    simp [State.setLatch, State.send, State.begin, sent]
  · show execPendingWriteDisable true s = _
    rw [execPendingWriteDisable, if_pos hr]
    simp [State.send, State.begin, sent, ha, hd]
  · show execPendingWriteDisable true s = execPendingWriteDisable false s
    simp [execPendingWriteDisable, ha, hd]

/-- R22: the guard condition stays open exactly where the window is full. -/
theorem State.releaseGuard_of_held {s : State} {op : OpRecord} {h : Hold} (ht : s.tracker = .eraseHeld op h)
    (hg : h.guardOpen = true) :
    s.releaseGuard = { s with
      tracker := .eraseHeld op { h with guardOpen := decide (s.cfg.settings.egMax ≤ s.guardUsed s.clock) } } := by
  rw [State.releaseGuard, ht, State.guardAllows_eq]
  by_cases hu : s.guardUsed s.clock < s.cfg.settings.egMax
  · simp [hg, hu]
  · simp only [hg, hu, decide_false, Bool.and_false, Bool.false_eq_true, if_false, decide_eq_true (Nat.not_lt.1 hu)]
    rw [← hg, ← ht]

/-- Settles O44. -/
theorem guardReleased : Obligations.GuardReleased := by
  intro e s op h hp ht hg now used
  show Host.Outcome.next (s.begin.tick e).releaseGuard = _
  rw [State.tick_of_running (s := s.begin) hp]
  exact congrArg _ (State.releaseGuard_of_held (s := { s.begin with clock := s.begin.clock + e }) ht hg)

/-! ### Polls (R17) -/

/-- While the flash runs an operation, a byte with busy 1 changes nothing. -/
theorem State.observe_busy {s : State} {fop : FlashOp} {b : Byte} (hf : s.flash.op = some fop)
    (hb : s.cfg.busy b = true) : s.observe b = s := by
  have ho : s.flashObserved b = s := by simp [State.flashObserved, hf, hb]
  unfold State.observe
  cases ht : s.tracker <;> simp [ho, hb]

/-- Bytes with busy 1 go by. -/
theorem State.pollBytes_busy {s : State} {fop : FlashOp} (hf : s.flash.op = some fop) (ht : s.tracker.inFlight = true)
    {waits : List Byte} (hw : ∀ b ∈ waits, s.cfg.busy b = true) (rest : List Byte) (n : Nat) :
    State.pollBytes (waits ++ rest) n s = State.pollBytes rest (n + waits.length) s := by
  induction waits generalizing n with
  | nil => rfl
  | cons b waits ih =>
    obtain ⟨hb, hw⟩ := List.forall_mem_cons.1 hw
    rw [List.cons_append, State.pollBytes, if_pos ht, State.flashAnswer_of_op hf, State.observe_busy hf hb, ih hw,
      List.length_cons]
    congr 1
    omega

section
variable (s : State) (r : Reason) (p l : Nat) (a : Option Nat)

@[simp] theorem State.markSuspect_memOut : (s.markSuspect r p l a).memOut = s.memOut := by rw [State.markSuspect_eq]
@[simp] theorem State.resettle_memOut : s.resettle.memOut = s.memOut := by rw [State.resettle_eq]

end

/-- The owners of a program hear of its end with nothing sent on the memory side, and the tracker is IDLE. -/
theorem State.programEnded_sends (s : State) (op : OpRecord) (failed : Bool) :
    (s.programEnded op failed).tracker = .idle ∧ (s.programEnded op failed).memOut = s.memOut := by
  have hsus (u : State) (p l : Nat) :
      (if failed then u.markSuspect .programFail p l (some op.address) else u).tracker = u.tracker ∧
      (if failed then u.markSuspect .programFail p l (some op.address) else u).memOut = u.memOut := by
    split <;> simp
  have hfail (u : State) (i k p : Nat) :
      (u.chunkProgramFailed i k p op.address).tracker = u.tracker ∧
      (u.chunkProgramFailed i k p op.address).memOut = u.memOut := by
    unfold State.chunkProgramFailed
    split <;> exact ⟨rfl, rfl⟩
  unfold State.programEnded
  extract_lets s0
  split
  · exact ⟨rfl, rfl⟩
  · next l p _ =>
    dsimp only
    split
    · exact hsus s0 p l
    · next i k _ =>
      split
      · rw [State.resettle_tracker, State.resettle_memOut, State.headerProgramEnded_eq]
        exact hsus s0 p l
      · split
        · rw [State.resettle_tracker, State.resettle_memOut]
          obtain ⟨htr, hmem⟩ := hfail s0 i k p
          exact ⟨(State.markSuspect_tracker ..).trans htr, (State.markSuspect_memOut ..).trans hmem⟩
        · rw [State.resettle_tracker, State.resettle_memOut, State.offerChunk_eq]
          exact ⟨rfl, rfl⟩

theorem State.eraseEnded_sends (s : State) (op : OpRecord) (failed : Bool) :
    (s.eraseEnded op failed).tracker = .idle ∧ (s.eraseEnded op failed).memOut = s.memOut := by
  unfold State.eraseEnded
  extract_lets s0
  split
  · exact ⟨rfl, rfl⟩
  · split
    · rw [State.eraseChunk_eq]
      exact ⟨State.markSuspect_tracker .., State.markSuspect_memOut ..⟩
    · exact ⟨rfl, rfl⟩

theorem State.flashObserved_memOut (s : State) (b : Byte) : (s.flashObserved b).memOut = s.memOut := by
  unfold State.flashObserved
  split
  · rfl
  · split <;> rfl

/-- R16: a byte with busy 0 leaves the tracker IDLE, with nothing sent on the memory side. -/
theorem State.observe_ends {s : State} {b : Byte} (ht : s.tracker.inFlight = true) (hb : s.cfg.busy b = false) :
    (s.observe b).tracker = .idle ∧ (s.observe b).memOut = s.memOut := by
  unfold State.observe
  cases hk : s.tracker with
  | idle => simp [hk, Tracker.inFlight] at ht
  | eraseHeld op h => simp [hk, Tracker.inFlight] at ht
  | programInFlight op =>
    simp only [hb, Bool.false_eq_true, if_false]
    exact ⟨(State.programEnded_sends ..).1, (State.programEnded_sends ..).2.trans (s.flashObserved_memOut b)⟩
  | eraseInFlight op =>
    simp only [hb, Bool.false_eq_true, if_false]
    exact ⟨(State.eraseEnded_sends ..).1, (State.eraseEnded_sends ..).2.trans (s.flashObserved_memOut b)⟩

/-- Settles O42: the bytes with busy 1 go by, and the last has the effect of the end command. -/
theorem statusPolled : Obligations.StatusPolled := by
  intro s waits last fop hg ht hf hw poll
  have hcond : (s.idleGap && s.tracker.inFlight) = true := by simp [hg, ht]
  have hpoll (rest : List Byte) := State.pollBytes_busy (s := s.begin) hf ht hw rest 0
  have hp : s.phase = .running := by
    simp only [State.idleGap, Bool.and_eq_true, beq_iff_eq] at hg
    exact hg.1
  refine ⟨?_, fun hb => ⟨s.begin.observe last, fun op hop => ?_, fun op hop => ?_, ?_⟩⟩
  · show execStatusPoll waits s = _
    have h := hpoll []
    rw [List.append_nil] at h
    rw [execStatusPoll, if_pos hcond, h]
    simp [State.pollBytes, State.send, State.begin, ht, State.accepts_of_idleGap hg, poll]
  · rw [exec_programEnd hp hop, State.observeEnd, State.flashAnswer_of_op (s := s.begin) hf,
      if_neg (by rw [State.begin_cfg, hb]; exact Bool.false_ne_true)]
  · rw [exec_eraseEnd hp hop, State.observeEnd, State.flashAnswer_of_op (s := s.begin) hf,
      if_neg (by rw [State.begin_cfg, hb]; exact Bool.false_ne_true)]
  · obtain ⟨hidle, hmem⟩ := State.observe_ends (s := s.begin) ht hb
    show execStatusPoll (waits ++ [last]) s = _
    rw [execStatusPoll, if_pos hcond, hpoll, State.pollBytes,
      if_pos (show s.begin.tracker.inFlight = true from ht), State.flashAnswer_of_op (s := s.begin) hf, State.pollBytes]
    simp [State.send, hidle, hmem, Tracker.inFlight, poll, State.begin_memOut]

/-! ### A held erase is sent (R20) -/

/-- R55, R57: what a decision's move leaves of the map and the pool. -/
theorem State.applyDecision_of_not_moves (s : State) {d : Decision} (h : d.moves = false) : s.applyDecision d = s := by
  unfold State.applyDecision
  cases hc : d.case <;> simp_all [Decision.moves]

theorem State.applyDecision_map_of_moves (s : State) {d : Decision} (h : d.moves = true) :
    (s.applyDecision d).map = mapStore d.logical d.target s.map := by
  unfold State.applyDecision
  cases hc : d.case <;> simp_all [Decision.moves]

/-- The retirement of its source is all that a decision does to the health table. -/
theorem State.applyDecision_healthOf (s : State) {d : Decision} {p : Nat} (h : p ≠ d.source ∨ d.moves = false) :
    (s.applyDecision d).healthOf p = s.healthOf p := by
  rcases h with h | h
  · unfold State.applyDecision
    cases d.case with
    | retire => exact healthLookup_healthStore_ne _ h _
    | _ => rfl
  · rw [s.applyDecision_of_not_moves h]

theorem State.applyDecision_health_wf (s : State) (d : Decision) (h : tableWf (fun _ => Health.blank) s.health = true) :
    tableWf (fun _ => Health.blank) (s.applyDecision d).health = true := by
  unfold State.applyDecision
  cases d.case with
  | retire => exact healthStore_wf h _ _
  | _ => exact h

/-- A decision changes the map, the pool and the health table, and nothing else. -/
theorem State.applyDecision_eq (s : State) (d : Decision) :
    s.applyDecision d = { s with
      map := (s.applyDecision d).map, pool := (s.applyDecision d).pool, health := (s.applyDecision d).health } := by
  unfold State.applyDecision
  cases d.case <;> rfl

/-- R53, R59, R99: what the forwarding of a staging erase does beyond the decision. -/
theorem State.stagingForwarded_eq (s : State) (d : Decision) :
    s.stagingForwarded d = { s with
      map := (s.applyDecision d).map, pool := (s.applyDecision d).pool
      health := ((s.applyDecision d).countWear d.target).health
      clean := insertNat d.logical s.clean, slots := (s.stagingForwarded d).slots } := by
  unfold State.stagingForwarded
  rw [State.eraseChunk_eq, State.applyDecision_eq]
  rfl

/-- R59: the target's wear rises, up to 65534. -/
theorem State.countWear_wear (s : State) (p : Nat) (h : tableWf (fun _ => Health.blank) s.health = true) :
    ((s.countWear p).healthOf p).wear = min ((s.healthOf p).wear + 1) 65534 :=
  congrArg Health.wear (healthLookup_healthStore_same h p _)

section
variable (s : State) {d : Decision} {l : Nat}

theorem State.stagingForwarded_isClean (d : Decision) : (s.stagingForwarded d).isClean d.logical = true := by
  rw [State.stagingForwarded_eq]
  simp [State.isClean, mem_insertNat]

theorem State.stagingForwarded_map (d : Decision) : (s.stagingForwarded d).map = (s.applyDecision d).map := by
  rw [State.stagingForwarded_eq]

theorem State.stagingForwarded_pool (d : Decision) : (s.stagingForwarded d).pool = (s.applyDecision d).pool := by
  rw [State.stagingForwarded_eq]

/-- R55: an erase whose decision moves its sector leaves it at the target. -/
theorem State.stagingForwarded_physical_same (hwf : tableWf (fun l => l) s.map = true) (h : d.moves = true) :
    (s.stagingForwarded d).physical d.logical = d.target := by
  rw [State.physical, State.stagingForwarded_map, State.applyDecision_map_of_moves s h]
  exact mapLookup_mapStore_same hwf ..

theorem State.stagingForwarded_physical_ne (d : Decision) (h : l ≠ d.logical) :
    (s.stagingForwarded d).physical l = s.physical l := by
  rw [State.physical, State.stagingForwarded_map]
  by_cases hm : d.moves = true
  · rw [State.applyDecision_map_of_moves s hm]
    exact mapLookup_mapStore_ne s.map h _
  · rw [State.applyDecision_of_not_moves s (Bool.not_eq_true _ ▸ hm)]
    rfl

/-- R59: the wear of the target, and of no retired source. -/
theorem State.stagingForwarded_wear (hwf : tableWf (fun _ => Health.blank) s.health = true)
    (h : d.target ≠ d.source ∨ d.moves = false) :
    ((s.stagingForwarded d).healthOf d.target).wear = min ((s.healthOf d.target).wear + 1) 65534 := by
  rw [← s.applyDecision_healthOf h, ← (s.applyDecision d).countWear_wear _ (s.applyDecision_health_wf d hwf),
    State.stagingForwarded_eq]
  rfl

end

/-- The state of a held erase's sending: the ports empty, the clock at the time of the sending. -/
def State.sending (e : Nat) (s : State) : State := { s with hostOut := [], memOut := [], clock := s.clock + e }

section
variable {s : State} {op : OpRecord} {h : Hold}

theorem exec_heldEraseForward (hg : s.idleGap = true) (ht : s.tracker = .eraseHeld op h) (he : h.ended = true) (e : Nat)
    (cut : SendCut) : exec (.heldEraseForward e cut) s = .next ((s.sending e).forwardHeld op h cut) := by
  have hp : s.phase = .running := by
    simp only [State.idleGap, Bool.and_eq_true, beq_iff_eq] at hg
    exact hg.1
  show execHeldEraseForward e cut s = _
  simp only [execHeldEraseForward, ht, hg, he, Bool.and_self, if_true, State.tick_of_running (s := s.begin) hp]
  rfl

/-- The WRITE_ENABLE that goes before a held erase (R20). -/
def State.enableTxn (s : State) (cut : Bool) : MemTxn := ownTxn (firstOfClass s.cfg.profile .writeEnable) none 0 cut

/-- The state in which a held erase has gone out: sent, listed by the guard, and started by the flash. -/
def State.heldSent (s : State) (e : Nat) (op : OpRecord) (h : Hold) : State := { s with
  hostOut := [], memOut := [s.enableTxn false, s.heldTxn op h false], clock := s.clock + e, pendingWD := false
  tracker := .eraseInFlight op
  guard := (if s.guard.length < s.cfg.settings.egMax then s.guard else s.guard.drop 1) ++ [s.clock + e]
  flash := { s.flash with latch := true }.startOp (eraseRange op.cls (s.eraseAddress op h.decision)) }

theorem State.forwardHeld_whole {cut : SendCut} (hc : s.accepts = true → cut = .whole) (e : Nat) :
    (s.sending e).forwardHeld op h cut = match h.decision with
      | none => s.heldSent e op h
      | some d => (s.heldSent e op h).stagingForwarded d := by
  have hc' : (if (s.sending e).accepts then cut else .whole) = SendCut.whole := by
    by_cases ha : s.accepts = true
    · rw [hc ha, ite_self]
    · exact if_neg ha
  rw [State.forwardHeld, hc']
  simp only [State.forwardErase, State.heldSent, State.setLatch, State.send, State.sending, State.pushGuard,
    State.eraseAddress, State.enableTxn, State.heldTxn, State.entryOf, List.nil_append, List.cons_append]
  rfl

end

/-- Settles O45, by the cut and the decision. -/
theorem heldEraseSent : Obligations.HeldEraseSent := by
  intro e s op h hg ht hr hgu hwf now enable
  have hx := exec_heldEraseForward hg ht (by simp [Hold.ended, hr, hgu]) e
  have ha : s.accepts = !s.hrstDriven := State.accepts_of_idleGap hg
  have hwhole := State.forwardHeld_whole (s := s) (op := op) (h := h) (cut := .whole) (fun _ => rfl) e
  refine ⟨fun hd => ?_, fun hd cut => ?_, fun hn => ?_, fun d hd => ?_⟩
  · have ha' : (s.sending e).accepts = true := by rw [show (s.sending e).accepts = s.accepts from rfl, ha, hd]; rfl
    constructor
    · rw [hx, State.forwardHeld, if_pos ha']
      simp only [State.send, State.sending, List.nil_append]
      rfl
    · rw [hx, State.forwardHeld, if_pos ha']
      simp only [State.setLatch, State.send, State.sending, List.nil_append, List.cons_append]
      rfl
  · rw [hx, hx, hwhole, State.forwardHeld_whole (fun hacc => by simp [ha, hd] at hacc)]
  · rw [hx, hwhole, hn]
    simp only [State.heldSent, State.eraseAddress, hn]
    rfl
  · obtain ⟨-, hmap, hhealth, -⟩ := hwf
    have hs : exec (.heldEraseForward e .whole) s = .next ((s.heldSent e op h).stagingForwarded d) := by
      rw [hx, hwhole, hd]
    have haddr : s.eraseAddress op h.decision = s.cfg.physicalAddr d.target (op.address % 4096) := by
      rw [hd]
      rfl
    refine ⟨_, hs, ?_⟩
    have hkept := State.stagingForwarded_eq (s.heldSent e op h) d
    refine ⟨?_, ?_, ?_, ?_, ?_, ?_, State.stagingForwarded_isClean _ d,
      State.stagingForwarded_physical_same (s.heldSent e op h) hmap, fun hm => ⟨?_, ?_⟩,
      State.stagingForwarded_wear (s.heldSent e op h) hhealth,
      fun l => State.stagingForwarded_physical_ne (s.heldSent e op h) d, ?_, ?_⟩
    · rw [hkept]; rfl
    · rw [hkept]; rfl
    · rw [hkept]; rfl
    · rw [hkept]; rfl
    · rw [hkept]; rfl
    · rw [hkept, ← haddr]; rfl
    · rw [State.stagingForwarded_map, State.applyDecision_of_not_moves _ hm]; rfl
    · rw [State.stagingForwarded_pool, State.applyDecision_of_not_moves _ hm]; rfl
    · rw [hkept]; rfl
    · rw [hkept]; rfl

end Sys2Proof.Machine
end

section
/-! Record writes: when the head of the append queue is written, and what the end of its write reports (9.4, 9.5). -/

namespace Sys2Proof.Machine

open Sys2Proof

/-! ### When a record is written (R146, R148) -/

section
variable {st : Store} {h : Half}

theorem Store.freeCount_pos (hc : st.current = some h) (hcl : st.closed = false) (hn : st.nextFree < 7680) :
    0 < st.freeCount := by
  simp only [Store.freeCount, hc, hcl, halfPositions, Option.isNone_some, Bool.or_self, Bool.false_eq_true, if_false]
  omega

/-- With the port free, no row waiting and room in the half, appending is a matter of the compaction alone. -/
theorem Store.mayAppend_eq (hc : st.current = some h) (hcl : st.closed = false) (hn : st.nextFree < 7680)
    (hp : st.port = none) (hr : st.rowWait = none) : st.mayAppend = st.appendsOpen := by
  simp [Store.mayAppend, hp, hr, Store.freeCount_pos hc hcl hn]

theorem Store.beginRecord_eq {o : Offer} {q : List Offer} (hq : st.queue = o :: q) (hc : st.current = some h) :
    st.beginRecord =
      if st.mayAppend then
        { st with port := some (.record h st.nextFree { seq := st.nextSeq, payload := o.payload }) }
      else st := by
  simp [Store.beginRecord, hq, hc]

theorem Store.receiving_of_current (hc : st.current = some h) : st.receiving = otherHalf h := by
  simp [Store.receiving, hc]

/-- No compaction is due, or one waits for a half that is not blank. -/
theorem Store.appendsOpen_of_waiting (hc : st.current = some h)
    (hx : st.compaction = .none ∨
      (st.compaction = .due ∧ st.startHold = false ∧ (st.half (otherHalf h)).cond ≠ .blank)) :
    st.appendsOpen = true := by
  rcases hx with hx | ⟨hx, hs, hb⟩
  · simp [Store.appendsOpen, hx]
  · simp [Store.appendsOpen, hx, hs, Store.receiving_of_current hc, hb]

/-- A compaction runs, may start at once, or is a start-up's that the start-up's records stand behind. -/
theorem Store.appendsOpen_of_first (hc : st.current = some h)
    (hx : (∃ i c n, st.compaction = .running i c n) ∨
      (st.compaction = .due ∧ (st.startHold = true ∨ (st.half (otherHalf h)).cond = .blank))) :
    st.appendsOpen = false := by
  rcases hx with ⟨i, c, n, hx⟩ | ⟨hx, hs | hb⟩
  · simp [Store.appendsOpen, hx]
  · simp [Store.appendsOpen, hx, hs]
  · simp [Store.appendsOpen, hx, Store.receiving_of_current hc, hb]

end

/-! ### The end of a record's write -/

section
variable (st : Store)

theorem Store.updHalf_half_cells (h : Half) {f : HalfState → HalfState} (hf : ∀ x, (f x).cells = x.cells) (h' : Half) :
    ((st.updHalf h f).half h').cells = (st.half h').cells := by
  cases h <;> cases h' <;> simp [Store.updHalf, Store.half, hf]

theorem Store.updHalf_half_same (h : Half) (f : HalfState → HalfState) : (st.updHalf h f).half h = f (st.half h) := by
  cases h <;> rfl

theorem HalfState.startErase_cells (x : HalfState) : x.startErase.cells = x.cells := by
  unfold HalfState.startErase
  split <;> rfl

/-- R148: what becoming due leaves of the store. -/
theorem Store.makeDue_leaves :
    st.makeDue.port = st.port ∧ st.makeDue.nextFree = st.nextFree ∧ st.makeDue.nextSeq = st.nextSeq ∧
    st.makeDue.offers = st.offers ∧ ∀ h, (st.makeDue.half h).cells = (st.half h).cells := by
  unfold Store.makeDue
  split
  · refine ⟨?_, ?_, ?_, ?_, st.updHalf_half_cells st.receiving HalfState.startErase_cells⟩
    all_goals cases st.receiving <;> rfl
  · exact ⟨rfl, rfl, rfl, rfl, fun _ => rfl⟩

/-- R145: the head leaves, and the first waiting offer stands at the tail. -/
theorem Store.popQueue_offers :
    st.popQueue.offers = match st.queue with | [] => st.waiting | _ :: q => q ++ st.waiting := by
  unfold Store.popQueue Store.offers
  cases st.queue <;> cases st.waiting <;> simp

theorem Store.popQueue_half (h : Half) : st.popQueue.half h = st.half h := by
  unfold Store.popQueue
  cases st.waiting <;> cases h <;> rfl

/-- R146: the record is in its place and leaves the queue; position and number advance. -/
theorem Store.endRecord_leaves (h : Half) (pos : Nat) (r : Record) :
    (st.endRecord h pos r).port = none ∧
    ((st.endRecord h pos r).half h).cells = putCell pos (.record r) (st.half h).cells ∧
    (st.endRecord h pos r).offers = (match st.queue with | [] => st.waiting | _ :: q => q ++ st.waiting) ∧
    (st.endRecord h pos r).nextFree = st.nextFree + 1 ∧ (st.endRecord h pos r).nextSeq = st.nextSeq + 1 := by
  have hcells : (((st.updHalf h fun x => { x with cells := putCell pos (.record r) x.cells }).popQueue).half h).cells =
      putCell pos (.record r) (st.half h).cells := by
    rw [Store.popQueue_half, Store.updHalf_half_same]
  have hoffers : ((st.updHalf h fun x => { x with cells := putCell pos (.record r) x.cells }).popQueue).offers =
      match st.queue with | [] => st.waiting | _ :: q => q ++ st.waiting := by
    rw [Store.popQueue_offers]
    cases h <;> rfl
  unfold Store.endRecord
  extract_lets _ st1
  have hhalf (h' : Half) : st1.half h' =
      (((st.updHalf h fun x => { x with cells := putCell pos (.record r) x.cells }).popQueue).half h') := by
    cases h' <;> rfl
  split
  · obtain ⟨hport, hfree, hseq, ho, hc⟩ := st1.makeDue_leaves
    exact ⟨hport, (hc h).trans ((congrArg HalfState.cells (hhalf h)).trans hcells), ho.trans hoffers, hfree, hseq⟩
  · exact ⟨rfl, (congrArg HalfState.cells (hhalf h)).trans hcells, hoffers, rfl, rfl⟩

end

section
variable {s : State}

/-- R19: a hold whose records are written has its record condition open no more. -/
theorem State.releaseHold_tracker {op : OpRecord} {h : Hold} (ht : s.tracker = .eraseHeld op h)
    (ho : h.recordOpen = true) (hm : s.store.owes .holdMap = false) (hw : s.store.owes .holdWear = false) :
    s.releaseHold.tracker = .eraseHeld op { h with recordOpen := false } := by
  simp [State.releaseHold, ht, ho, hm, hw]

/-- R172: a request that waits for nothing more is DONE. -/
theorem State.completeRequest_done (hp : s.lastOutcome = .pending) (ho : s.store.owes .request = false)
    (hr : s.store.rowBusy = false) : s.completeRequest.lastOutcome = .done := by
  simp [State.completeRequest, hp, ho, hr]

end

/-- Settles O58, by the beginning and the end of the write. -/
theorem recordWrites : Obligations.RecordWrites := by
  intro s hp
  constructor
  · intro o q h hq hc hcl hport hrow hn other
    have hbegin : exec .recordWriteBegin s = .next { s.begin with store := s.store.beginRecord } :=
      congrArg Host.Outcome.next (if_pos hp)
    have hmay := Store.mayAppend_eq hc hcl hn hport hrow
    refine ⟨fun hx => ?_, fun hx => ?_⟩
    · rw [hbegin, Store.beginRecord_eq hq hc, hmay, if_pos (Store.appendsOpen_of_waiting hc hx)]
      rfl
    · rw [hbegin, Store.beginRecord_eq hq hc, hmay, Store.appendsOpen_of_first hc hx]
      rfl
  · intro h pos r hport
    obtain ⟨hfree, hcells, hoffers, hpos, hseq⟩ := s.store.endRecord_leaves h pos r
    have hend : exec .recordWriteEnd s = .next
        (s.begin.updStore fun st => st.endRecord h pos r).releaseHold.completeRequest := by
      show Host.Outcome.next (s.storeStep State.recordWritten) = _
      rw [State.storeStep, if_pos hp, State.recordWritten, State.begin_store, hport]
    refine ⟨_, hend, ?_⟩
    generalize hu : (s.begin.updStore fun st => st.endRecord h pos r) = u
    have hstore : u.store = s.store.endRecord h pos r := by rw [← hu]; rfl
    have htracker : u.tracker = s.tracker := by rw [← hu]; rfl
    have hout : u.lastOutcome = s.lastOutcome := by rw [← hu]; rfl
    have hkeep : u.releaseHold.completeRequest = { u with
        tracker := u.releaseHold.tracker, lastOutcome := u.releaseHold.completeRequest.lastOutcome } := by
      rw [State.completeRequest_eq, State.releaseHold_eq]
    have hst : u.releaseHold.completeRequest.store = s.store.endRecord h pos r := by rw [hkeep]; exact hstore
    have hst' : u.releaseHold.store = s.store.endRecord h pos r := by rw [State.releaseHold_eq]; exact hstore
    rw [hst]
    refine ⟨hfree, hcells, hoffers, hpos, hseq, fun op hold ht ho hm hw => ?_, fun hpend ho hb => ?_, ?_⟩
    · rw [hkeep]
      exact State.releaseHold_tracker (htracker.trans ht) ho (hstore ▸ hm) (hstore ▸ hw)
    · refine State.completeRequest_done ?_ (hst' ▸ ho) (hst' ▸ hb)
      rw [State.releaseHold_eq]
      exact hout.trans hpend
    · rw [hkeep, ← hu]
      exact ⟨rfl, rfl, rfl, rfl, rfl⟩

end Sys2Proof.Machine
end

section
/-! The beginning of a boot event at a host reset: the discarded hold, and the trial's outcome (7.2, 8.5). -/

namespace Sys2Proof.Machine

open Sys2Proof

/-! ### A discarded hold (R61) -/

section
variable (s : State) {d : Decision}

/-- What a discarded staging erase changes. -/
theorem State.stagingDiscarded_eq (d : Decision) :
    s.stagingDiscarded d = { s with
      map := (s.applyDecision d).map, pool := (s.applyDecision d).pool
      health := ((s.applyDecision d).discardWear d).health
      clean := s.clean.filter (· != d.logical), slots := (s.stagingDiscarded d).slots } := by
  unfold State.stagingDiscarded State.discardWear
  rw [State.eraseChunk_eq, State.applyDecision_eq]
  cases d.wear <;> rfl

theorem State.discardHeld_eq :
    s.discardHeld = { s with
      tracker := s.discardHeld.tracker, store := s.discardHeld.store, map := s.discardHeld.map
      pool := s.discardHeld.pool, health := s.discardHeld.health, clean := s.discardHeld.clean
      slots := s.discardHeld.slots } := by
  by_cases ht : ∃ op h, s.tracker = .eraseHeld op h
  · obtain ⟨op, h, ht⟩ := ht
    rw [s.discardHeld_of_held ht]
    cases h.decision with
    | none => rfl
    | some d =>
      dsimp only
      rw [State.stagingDiscarded_eq]
      rfl
  · rw [s.discardHeld_of_not_held fun op h e => ht ⟨op, h, e⟩]

theorem SlotRec.updChunk_decayed (r : SlotRec) (c : Nat) (f : Chunk → Chunk) :
    (r.updChunk c f).decayed = r.decayed := by
  unfold SlotRec.updChunk
  split <;> rfl

/-- Every slot of `t` has the state and the DECAYED mark it has in `s`. -/
def State.SameStanding (s t : State) : Prop :=
  t.slots.length = s.slots.length ∧
  ∀ i, (t.slotAt i).state = (s.slotAt i).state ∧ (t.slotAt i).decayed = (s.slotAt i).decayed

theorem State.SameStanding.of_slots {s t : State} (h : t.slots = s.slots) : s.SameStanding t := by
  refine ⟨congrArg _ h, fun i => ?_⟩
  rw [State.slotAt, h]
  exact ⟨rfl, rfl⟩

/-- The erase of a sector changes a chunk of its slot at most. -/
theorem State.eraseChunk_standing (l : Nat) (f : Chunk → Chunk) : s.SameStanding (s.eraseChunk l f) := by
  unfold State.eraseChunk
  split
  · exact .of_slots rfl
  · next j k _ =>
    split
    · refine ⟨s.slots_length_updSlot _ _, fun i => ⟨s.slotAt_updChunk_state .., ?_⟩⟩
      rw [State.updChunk, State.slotAt_updSlot]
      split
      · exact SlotRec.updChunk_decayed ..
      · rfl
    · exact .of_slots rfl

theorem State.stagingDiscarded_standing (d : Decision) : s.SameStanding (s.stagingDiscarded d) := by
  unfold State.stagingDiscarded
  have hs : (((s.applyDecision d).discardWear d).clearClean d.logical).slots = s.slots := by
    unfold State.discardWear
    rw [State.applyDecision_eq]
    cases d.wear <;> rfl
  have h := State.eraseChunk_standing (((s.applyDecision d).discardWear d).clearClean d.logical) d.logical
    (fun c => { c with state := .stale })
  unfold State.SameStanding at h ⊢
  simp only [State.slotAt, hs] at h ⊢
  exact h

theorem State.discardHeld_standing : s.SameStanding s.discardHeld := by
  by_cases ht : ∃ op h, s.tracker = .eraseHeld op h
  · obtain ⟨op, h, ht⟩ := ht
    rw [s.discardHeld_of_held ht]
    cases h.decision with
    | none => exact .of_slots rfl
    | some d => exact s.unheld.stagingDiscarded_standing d
  · rw [s.discardHeld_of_not_held fun op h e => ht ⟨op, h, e⟩]
    exact .of_slots rfl

theorem State.discardHeld_tracker {op : OpRecord} {h : Hold} (ht : s.tracker = .eraseHeld op h) :
    s.discardHeld.tracker = .idle := by
  rw [s.discardHeld_of_held ht]
  cases h.decision with
  | none => rfl
  | some d =>
    dsimp only
    rw [State.stagingDiscarded_eq]
    rfl

/-- R53: the sector of a discarded erase is not clean. -/
theorem State.stagingDiscarded_isClean (d : Decision) : (s.stagingDiscarded d).isClean d.logical = false := by
  rw [State.stagingDiscarded_eq]
  simp [State.isClean]

/-- R55, R61: the decision's move is applied though the erase is not sent. -/
theorem State.stagingDiscarded_physical (hwf : tableWf (fun l => l) s.map = true) (h : d.moves = true) :
    (s.stagingDiscarded d).physical d.logical = d.target := by
  rw [State.stagingDiscarded_eq]
  show mapLookup (s.applyDecision d).map d.logical = d.target
  rw [State.applyDecision_map_of_moves s h]
  exact mapLookup_mapStore_same hwf ..

end

/-! ### What the candidates' judgement leaves of a failed trial (R134 to R137) -/

/-- From `s` to `t` every slot stays in its state, and every target keeps its trial and its boots left. -/
structure State.TrialsStay (s t : State) : Prop where
  state : ∀ i, (t.slotAt i).state = (s.slotAt i).state
  trial : ∀ b, (t.dynAt b).trial = (s.dynAt b).trial
  bootsLeft : ∀ b, (t.dynAt b).bootsLeft = (s.dynAt b).bootsLeft
  count : t.targets.length = s.targets.length

theorem State.TrialsStay.of_eq {s t : State} (h : t.slots = s.slots) (g : t.targets = s.targets) : s.TrialsStay t := by
  refine ⟨fun i => ?_, fun b => ?_, fun b => ?_, congrArg _ g⟩
  · rw [State.slotAt, h, State.slotAt]
  · rw [State.dynAt, g, State.dynAt]
  · rw [State.dynAt, g, State.dynAt]

theorem State.TrialsStay.refl (s : State) : s.TrialsStay s := .of_eq rfl rfl

theorem State.TrialsStay.trans {s t u : State} (h : s.TrialsStay t) (g : t.TrialsStay u) : s.TrialsStay u where
  state i := (g.state i).trans (h.state i)
  trial b := (g.trial b).trans (h.trial b)
  bootsLeft b := (g.bootsLeft b).trans (h.bootsLeft b)
  count := g.count.trans h.count

section
variable (s : State)

theorem State.updSlot_trialsStay (i : Nat) {f : SlotRec → SlotRec} (hf : ∀ r, (f r).state = r.state) :
    s.TrialsStay (s.updSlot i f) := by
  refine ⟨fun j => ?_, fun _ => rfl, fun _ => rfl, rfl⟩
  rw [State.slotAt_updSlot]
  split
  · exact hf _
  · rfl

theorem State.updDyn_trialsStay (b : Nat) {f : TargetDyn → TargetDyn} (ht : ∀ d, (f d).trial = d.trial)
    (hb : ∀ d, (f d).bootsLeft = d.bootsLeft) : s.TrialsStay (s.updDyn b f) := by
  refine ⟨fun _ => rfl, fun c => ?_, fun c => ?_, List.length_modify ..⟩
  all_goals rw [State.dynAt_updDyn]; split
  · exact ht _
  · rfl
  · exact hb _
  · rfl

theorem State.appendLog_trialsStay (e : LogEntry) : s.TrialsStay (s.appendLog e) := .of_eq rfl rfl

theorem State.dropSlotJobs_trialsStay (i : Nat) : s.TrialsStay (s.dropSlotJobs i) :=
  State.TrialsStay.trans (t := s.dropEntries fun a _ => a == i) (.of_eq rfl rfl)
    (State.updSlot_trialsStay _ i (f := fun r => { r with chunks := r.chunks.map fun c => { c with queued := false } })
      fun _ => rfl)

theorem State.offerSlot_trialsStay (o : Owner) (i : Nat) : s.TrialsStay (s.offerSlot o i) :=
  State.TrialsStay.trans (t := s.offer o (.slot i ((s.slotAt i).image (s.slotAt i).state))) (.of_eq rfl rfl)
    (State.updSlot_trialsStay _ i (f := fun r => { r with journaled := r.state }) fun _ => rfl)

theorem State.settleBoot_trialsStay (b : Nat) (c : Option Nat) : s.TrialsStay (s.settleBoot b c) := by
  unfold State.settleBoot
  extract_lets s1
  have h1 : s.TrialsStay s1 := s.updDyn_trialsStay b (fun _ => rfl) fun _ => rfl
  split
  · exact h1
  · next e _ =>
    extract_lets s2 s3
    have h2 : s1.TrialsStay s2 := by
      unfold s2
      split
      · exact .refl s1
      · exact s1.offerSlot_trialsStay _ _
    have h3 : s2.TrialsStay s3 := by
      unfold s3
      split
      · exact .refl s2
      · exact .of_eq rfl rfl
    have hfold : s3.TrialsStay (e.decayed.foldl (fun s i => s.offerSlot .boot i) s3) :=
      List.foldlRecOn e.decayed _ (.refl s3) fun u hu x _ => hu.trans (u.offerSlot_trialsStay _ x)
    exact (h1.trans h2).trans ((h3.trans hfold).trans (.of_eq rfl rfl))

theorem State.bootDecays_trialsStay (i : Nat) (r : Option Reason) (c : Option Nat) : s.TrialsStay (s.bootDecays i r c) := by
  unfold State.bootDecays State.markDecayed
  split
  · exact .refl s
  · exact ((s.dropSlotJobs_trialsStay i).trans (State.updSlot_trialsStay _ i
      (f := fun r => { r with decayed := true }) fun _ => rfl)).trans
        ((State.appendLog_trialsStay _ (s.slotEntry .imageDecayed i r c)).trans (.of_eq rfl rfl))

theorem State.fallbackScanned_trialsStay (b i : Nat) (pass : Bool) (r : Option Reason) (c : Option Nat) :
    s.TrialsStay (s.fallbackScanned b i pass r c) := by
  unfold State.fallbackScanned
  split
  · exact (s.updDyn_trialsStay b (f := fun d => { d with recovery := true }) (fun _ => rfl) fun _ => rfl).trans
      ((State.appendLog_trialsStay _ _).trans (State.settleBoot_trialsStay _ _ _))
  · exact (s.bootDecays_trialsStay i r c).trans (State.settleBoot_trialsStay _ _ _)

theorem State.openScan_trialsStay (r : Role) (i : Nat) : s.TrialsStay (s.openScan r i) := .of_eq rfl rfl

theorem State.askFallback_trialsStay (b : Nat) : s.TrialsStay (s.askFallback b) := by
  unfold State.askFallback
  split
  · exact s.settleBoot_trialsStay ..
  · split
    · exact s.settleBoot_trialsStay ..
    · split
      · exact s.fallbackScanned_trialsStay ..
      · exact s.openScan_trialsStay ..

theorem State.activeScanned_trialsStay (b i : Nat) (pass : Bool) (r : Option Reason) (c : Option Nat) :
    s.TrialsStay (s.activeScanned b i pass r c) := by
  unfold State.activeScanned
  split
  · exact s.settleBoot_trialsStay ..
  · exact (s.bootDecays_trialsStay i r c).trans (State.askFallback_trialsStay _ _)

theorem State.askActive_trialsStay (b : Nat) : s.TrialsStay (s.askActive b) := by
  unfold State.askActive
  split
  · exact s.settleBoot_trialsStay ..
  · split
    · exact s.activeScanned_trialsStay ..
    · exact s.openScan_trialsStay ..

theorem State.resettle_trialsStay : s.TrialsStay s.resettle := by
  have ht : s.resettle.targets = s.targets := by rw [State.resettle_eq]
  refine ⟨s.resettle_marksOnly.state_eq, fun b => ?_, fun b => ?_, congrArg _ ht⟩
  · rw [State.dynAt, ht, State.dynAt]
  · rw [State.dynAt, ht, State.dynAt]

/-- R134: a trial that has failed: its slot is FAILED, and the target has no trial and no boots left. -/
theorem State.bootTrialFails_trial {b i : Nat} {r : Option Reason} {c : Option Nat} (hi : i < s.slots.length)
    (hb : b < s.targets.length) :
    ((s.bootTrialFails b i r c).slotAt i).state = .failed ∧ ((s.bootTrialFails b i r c).dynAt b).trial = none ∧
    ((s.bootTrialFails b i r c).dynAt b).bootsLeft = 0 := by
  have hfail : ((s.failSlot i).slotAt i).state = .failed := by
    rw [State.failSlot, State.slotAt_updSlot, if_pos ⟨rfl, by simpa [State.dropSlotJobs, State.dropEntries] using hi⟩]
  have hlen : (s.failSlot i).targets.length = s.targets.length := (s.dropSlotJobs_trialsStay i).count
  have hstay : (s.failSlot i).TrialsStay (((s.failSlot i).dropManifest i).updSlot i SlotRec.reloadFailed) :=
    State.TrialsStay.trans (t := (s.failSlot i).dropManifest i) (.of_eq rfl rfl)
      (State.updSlot_trialsStay _ i (f := SlotRec.reloadFailed) fun _ => rfl)
  rw [State.bootTrialFails]
  generalize ((s.failSlot i).dropManifest i).updSlot i SlotRec.reloadFailed = u at hstay ⊢
  have hend : (u.updDyn b TargetDyn.endTrial).TrialsStay (((u.updDyn b TargetDyn.endTrial).appendLog
      (s.slotEntry .trialFailed i r c)).updBoot fun e => { e with failedTrial := some i }) := .of_eq rfl rfl
  have hdyn : (u.updDyn b TargetDyn.endTrial).dynAt b = (u.dynAt b).endTrial := by
    rw [State.dynAt_updDyn, if_pos ⟨rfl, by rw [hstay.count, hlen]; exact hb⟩]
  refine ⟨(hend.state i).trans ((hstay.state i).trans hfail), (hend.trial b).trans ?_, (hend.bootsLeft b).trans ?_⟩
  all_goals rw [hdyn]; rfl

end

/-! ### The beginning of the boot event -/

/-- A boot event has just begun for a boot-mapped target. -/
def State.bootOpened (startup : Bool) (b : Nat) (s : State) : State := { s with
  boot := some
    { startup := startup, target := some b, before := s.dynAt b, failedTrial := none, decayed := [], settled := false } }

/-- R134: one of the boots left is spent. -/
def TargetDyn.spendBoot (d : TargetDyn) : TargetDyn := { d with bootsLeft := d.bootsLeft - 1 }

section
variable {s : State} {b i : Nat} {startup : Bool}

theorem State.beginBoot_of_no_target (h : s.bootTarget = none) :
    (s.beginBoot startup).boot = some
      { startup := startup, target := none, before := TargetDyn.blank, failedTrial := none, decayed := [],
        settled := true } := by
  rw [State.beginBoot, h]

theorem State.askTrial_of_scanned (hd : (s.slotAt i).decayed = false) (hs : s.cfg.settings.scanScope ≠ .none) :
    s.askTrial b i = s.openScan .trial i := by
  simp [State.askTrial, State.scanAtOnce, hd, hs]

/-- R134, R119: with boots left, one is spent, and the trial slot is scanned where the scope asks for it. -/
theorem State.beginBoot_of_boots (h : s.bootTarget = some b) (ht : (s.dynAt b).trial = some i)
    (hl : 0 < (s.dynAt b).bootsLeft) (hd : (s.slotAt i).decayed = false) (hs : s.cfg.settings.scanScope ≠ .none) :
    s.beginBoot startup = ((s.bootOpened startup b).updDyn b TargetDyn.spendBoot).openScan .trial i := by
  rw [State.beginBoot, h]
  simp only [ht, hl, if_true]
  exact State.askTrial_of_scanned (s := (s.bootOpened startup b).updDyn b TargetDyn.spendBoot) hd hs

/-- R134: with no boots left, the trial fails. -/
theorem State.beginBoot_of_spent (h : s.bootTarget = some b) (ht : (s.dynAt b).trial = some i)
    (hl : (s.dynAt b).bootsLeft = 0) :
    s.beginBoot startup = ((s.bootOpened startup b).bootTrialFails b i (some .bootsSpent) none).askActive b := by
  rw [State.beginBoot, h]
  simp only [ht, hl, Nat.lt_irrefl, if_false]
  rfl

end

/-- The part as the host reset finds it: HRST_N driven, the port closed. -/
def State.hostResetTaken (s : State) : State := { s.begin with hrstDriven := true, portOpen := false }

/-- The part with any hold discarded, before the boot event begins. -/
def State.hostResetCleared (s : State) : State := s.hostResetTaken.discardHeld

section
variable {s : State}

theorem exec_hostResetSeen (hp : s.phase = .running) (hd : s.hrstDriven = false) (hs : s.hrstSeenHigh = true) :
    exec .hostResetSeen s = .next (s.hostResetCleared.beginBoot false).resettle :=
  congrArg Host.Outcome.next (if_pos (by simp [hp, hd, hs]))

/-- R61, R133: what the discard of a hold changes at a host reset. -/
theorem State.hostResetCleared_eq : s.hostResetCleared = { s with
    hostOut := [], memOut := [], hrstDriven := true, portOpen := false, tracker := s.hostResetCleared.tracker
    store := s.hostResetCleared.store, map := s.hostResetCleared.map, pool := s.hostResetCleared.pool
    health := s.hostResetCleared.health, clean := s.hostResetCleared.clean, slots := s.hostResetCleared.slots } :=
  State.discardHeld_eq _

/-- R119, R134: the spent boot, and the cursor on the trial slot. -/
theorem State.beginBoot_trialScan {b i : Nat} (h : s.bootTarget = some b) (hb : b < s.targets.length)
    (ht : (s.dynAt b).trial = some i) (hl : 0 < (s.dynAt b).bootsLeft) (hd : (s.slotAt i).decayed = false)
    (hs : s.cfg.settings.scanScope ≠ .none) :
    ((s.beginBoot false).resettle.dynAt b).bootsLeft = (s.dynAt b).bootsLeft - 1 ∧
    (s.beginBoot false).resettle.scan =
      some { slot := i, role := .trial, chunk := 0, full := s.cfg.settings.scanScope == .bootFull } := by
  rw [State.beginBoot_of_boots h ht hl hd hs]
  constructor
  · rw [(State.resettle_trialsStay _).bootsLeft, (State.openScan_trialsStay _ _ _).bootsLeft, State.dynAt_updDyn,
      if_pos ⟨rfl, hb⟩]
    rfl
  · rw [State.resettle_eq]
    rfl

/-- R134: the trial that has no boot left is FAILED, whichever candidate follows. -/
theorem State.beginBoot_trialSpent {b i : Nat} (h : s.bootTarget = some b) (hb : b < s.targets.length)
    (ht : (s.dynAt b).trial = some i) (hl : (s.dynAt b).bootsLeft = 0) (hi : i < s.slots.length) :
    ((s.beginBoot false).resettle.slotAt i).state = .failed ∧ ((s.beginBoot false).resettle.dynAt b).trial = none ∧
    ((s.beginBoot false).resettle.dynAt b).bootsLeft = 0 := by
  obtain ⟨hst, htr, hbl⟩ := (s.bootOpened false b).bootTrialFails_trial (r := some .bootsSpent) (c := none) hi hb
  have hstay := ((s.bootOpened false b).bootTrialFails b i (some .bootsSpent) none).askActive_trialsStay b
  rw [State.beginBoot_of_spent h ht hl]
  have hstay' := hstay.trans (State.resettle_trialsStay _)
  exact ⟨(hstay'.state i).trans hst, (hstay'.trial b).trans htr, (hstay'.bootsLeft b).trans hbl⟩

end

/-- Settles O54. -/
theorem hostResetBegins : Obligations.HostResetBegins := by
  intro s hp hd hsh hwf
  obtain ⟨-, hmap, -⟩ := hwf
  refine ⟨_, exec_hostResetSeen hp hd hsh, ?_⟩
  have hstand : s.SameStanding s.hostResetCleared := s.hostResetTaken.discardHeld_standing
  have hkeep := State.hostResetCleared_eq (s := s)
  have hidle {op : OpRecord} {h : Hold} (ht : s.tracker = .eraseHeld op h) : s.hostResetCleared.tracker = .idle :=
    s.hostResetTaken.discardHeld_tracker ht
  have hmoved {op : OpRecord} {h : Hold} {d : Decision} (ht : s.tracker = .eraseHeld op h) (hdec : h.decision = some d) :
      s.hostResetCleared = s.hostResetTaken.unheld.stagingDiscarded d := by
    rw [State.hostResetCleared, s.hostResetTaken.discardHeld_of_held ht, hdec]
  have hfree (ht : ∀ op h, s.tracker ≠ .eraseHeld op h) : s.hostResetCleared = s.hostResetTaken :=
    s.hostResetTaken.discardHeld_of_not_held ht
  generalize s.hostResetCleared = v at hkeep hstand hidle hmoved hfree ⊢
  obtain ⟨hlen, hslot⟩ := hstand
  have hbooks := (v.beginBoot_books (startup := false)).trans (State.resettle_books _)
  have hboot : (v.beginBoot false).resettle.boot = (v.beginBoot false).boot := by rw [State.resettle_eq]
  have hdyn (b : Nat) : v.dynAt b = s.dynAt b := by rw [hkeep]; rfl
  have htargets : v.targets = s.targets := by rw [hkeep]
  have hbt : v.bootTarget = s.bootTarget := by rw [hkeep]; rfl
  have hcfg : v.cfg = s.cfg := by rw [hkeep]
  refine ⟨hbooks.hrstDriven.trans ?_, hbooks.portOpen.trans ?_, (State.resettle_books _).boot (v.beginBoot_boot _),
    hbooks.phase.trans ?_, hbooks.echo.trans ?_, hbooks.pendingWD.trans ?_, hbooks.guard.trans ?_, hbooks.flash.trans ?_,
    hbooks.lastOutcome.trans ?_, hbooks.keys.trans ?_, hbooks.cfg.trans hcfg, fun ht => ?_, fun op h ht => ?_,
    fun b i hb hlt ht hl hde hsc => ?_, fun b i hb hlt ht hl hi => ?_, fun hb => ?_⟩
  case refine_10 =>
    rw [hbooks.tracker, hbooks.map, hbooks.clean, hfree ht]
    exact ⟨rfl, rfl, rfl⟩
  case refine_11 =>
    refine ⟨hbooks.tracker.trans (hidle ht), fun d hdec => ?_⟩
    rw [State.isClean, State.physical, hbooks.clean, hbooks.map, hmoved ht hdec]
    exact ⟨State.stagingDiscarded_isClean _ d, State.stagingDiscarded_physical _ hmap⟩
  case refine_12 =>
    rw [← hdyn, ← hcfg]
    exact State.beginBoot_trialScan (hbt.trans hb) (htargets ▸ hlt) (hdyn b ▸ ht) (hdyn b ▸ hl) ((hslot i).2.trans hde)
      (hcfg ▸ hsc)
  case refine_13 =>
    exact State.beginBoot_trialSpent (hbt.trans hb) (htargets ▸ hlt) (hdyn b ▸ ht) (hdyn b ▸ hl) (hlen ▸ hi)
  case refine_14 =>
    rw [hboot, State.beginBoot_of_no_target (hbt.trans hb)]
  all_goals rw [hkeep]
  exact hp

end Sys2Proof.Machine
end

section
/-! Start-up, steps 1 and 2: what the stored rows put in force (R5, R26, R142, R183). -/

namespace Sys2Proof.Machine

open Sys2Proof

/-! ### One row (R142) -/

section
variable {α : Type} {row : Row α}

/-- R90: a row is garbled when it is not blank and holds no content with its check word. -/
theorem Row.isGarbled_iff : row.isGarbled = true ↔ row ≠ .blank ∧ ∀ c, row ≠ .stored c := by
  rcases row.cases_content with ⟨rfl, -, hg⟩ | ⟨hc, hg⟩ | ⟨c, rfl, -, hg⟩
  · simp [hg]
  · refine iff_of_true hg ⟨?_, ?_⟩
    · rintro rfl
      cases hg
    · rintro c rfl
      simp [Row.content?] at hc
  · simp [hg]

theorem Row.content?_of_not_stored (h : ∀ c, row ≠ .stored c) : row.content? = none := by
  rcases row.cases_content with ⟨-, hc, -⟩ | ⟨hc, -⟩ | ⟨c, hr, -, -⟩
  · exact hc
  · exact hc
  · exact absurd hr (h c)

variable {valid : α → Bool} {good : α → Prop} {defaults : α}

/-- A row that holds its check word and meets its conditions is in force. -/
theorem loadRow_of_good (hv : ∀ c, valid c = true ↔ good c) {c : α} (hr : row = .stored c) (hg : good c) :
    (loadRow valid defaults row).1 = c := by
  simp [loadRow, hr, Row.content?_stored, (hv c).2 hg]

/-- Any other row gives its defaults. -/
theorem loadRow_of_not_good (hv : ∀ c, valid c = true ↔ good c) (hr : ∀ c, row = .stored c → ¬ good c) :
    (loadRow valid defaults row).1 = defaults := by
  unfold loadRow
  rcases row.cases_content with ⟨-, hc, -⟩ | ⟨hc, -⟩ | ⟨c, hs, hc, -⟩
  · rw [hc]
  · rw [hc]
  · rw [hc]
    exact congrArg Prod.fst (if_neg fun h => hr c hs ((hv c).1 h))

/-- CONFIG_DEFAULTED is set for a row that is not blank and was replaced. -/
theorem loadRow_defaulted (hv : ∀ c, valid c = true ↔ good c) :
    (loadRow valid defaults row).2 = true ↔ row ≠ .blank ∧ ∀ c, row = .stored c → ¬ good c := by
  unfold loadRow
  rcases row.cases_content with ⟨rfl, hc, hg⟩ | ⟨hc, hg⟩ | ⟨c, rfl, hc, -⟩
  · simp [hc, hg]
  · rw [hc]
    obtain ⟨hb, hn⟩ := Row.isGarbled_iff.1 hg
    exact iff_of_true hg ⟨hb, fun c h => absurd h (hn c)⟩
  · rw [hc]
    by_cases hval : valid c = true
    · have hgood : good c := (hv c).1 hval
      simp [hval, hgood]
    · have hgood : ¬ good c := fun h => hval ((hv c).2 h)
      simp [hval, hgood]

end

/-! ### The conditions of the rows (R5, R26) -/

theorem geometryValid_iff (g : Geometry) :
    geometryValid g = true ↔ ¬ (16 < g.capacity ∧ g.addrBytes = 3) ∧ g.busyBit ≠ g.failBit := by
  simp only [geometryValid, Bool.and_eq_true, Bool.not_eq_true', Bool.and_eq_false_iff, decide_eq_false_iff_not,
    beq_eq_false_iff_ne, bne_iff_ne, not_and_or]

/-- R5, entry by entry. -/
theorem ProfileEntry.validFor_iff (g : Geometry) (e : ProfileEntry) :
    e.validFor g = true ↔
      (e.cls = .read ∨ e.cls = .program ∨ e.cls = .eraseSector ∨ e.cls = .eraseLarge → e.addrLen = 3 ∨ e.addrLen = 4) ∧
      (e.cls = .statusRead ∨ e.cls = .writeEnable ∨ e.cls = .writeDisable ∨ e.cls = .eraseChip →
        e.addrLen = 0 ∧ e.dummyLen = 0) ∧
      (e.cls ≠ .block → e.addrLen = 4 → g.addrBytes ≠ 3) := by
  unfold ProfileEntry.validFor
  cases e.cls <;> simp <;> grind

theorem profileValid_iff (g : Geometry) (p : List ProfileEntry) :
    profileValid g p = true ↔
      (∃ e ∈ p, e.cls = .read) ∧ (∃ e ∈ p, e.cls = .statusRead) ∧ (∃ e ∈ p, e.cls = .writeEnable) ∧
      (∃ e ∈ p, e.cls = .writeDisable) ∧
      (∀ e ∈ p, e.cls = .read ∨ e.cls = .program ∨ e.cls = .eraseSector ∨ e.cls = .eraseLarge →
        e.addrLen = 3 ∨ e.addrLen = 4) ∧
      (∀ e ∈ p, e.cls = .statusRead ∨ e.cls = .writeEnable ∨ e.cls = .writeDisable ∨ e.cls = .eraseChip →
        e.addrLen = 0 ∧ e.dummyLen = 0) ∧
      (∀ e ∈ p, e.cls ≠ .block → e.addrLen = 4 → g.addrBytes ≠ 3) := by
  simp only [profileValid, Bool.and_eq_true, List.all_eq_true, ProfileEntry.validFor_iff, forall_and, List.mem_cons,
    List.not_mem_nil, or_false, forall_eq_or_imp, forall_eq, List.any_eq_true, beq_iff_eq, and_assoc]

theorem regionsDisjoint_iff (p : List Region) :
    regionsDisjoint p = true ↔
      p.Pairwise fun a b => a.start + a.length ≤ b.start ∨ b.start + b.length ≤ a.start := by
  induction p with
  | nil => simp [regionsDisjoint]
  | cons r rs ih => simp [regionsDisjoint, ih, Region.disjoint]

/-- The one entry of a kind, with a condition on its length. -/
theorem singleton_all_iff {α : Type} (l : List α) (f : α → Bool) :
    (l.length == 1 && l.all f) = true ↔ ∃ r, l = [r] ∧ f r = true := by
  rw [Bool.and_eq_true, beq_iff_eq, List.length_eq_one_iff]
  constructor
  · rintro ⟨⟨r, rfl⟩, h⟩
    exact ⟨r, rfl, by simpa using h⟩
  · rintro ⟨r, rfl, h⟩
    exact ⟨⟨r, rfl⟩, by simpa using h⟩

theorem partitionValid_iff (c : Nat) (p : List Region) :
    partitionValid c p = true ↔
      (∃ r, (p.filter fun r => r.length != 0).filter (fun x => x.kind == .staging) = [r] ∧
        64 ≤ r.length ∧ r.length ≤ 8192) ∧
      (∃ r, (p.filter fun r => r.length != 0).filter (fun x => x.kind == .control) = [r] ∧ r.length = 8) ∧
      ((p.filter fun r => r.length != 0).filter fun x => x.kind == .bootWindow).length ≤ 1 ∧
      (∀ r ∈ p.filter fun r => r.length != 0, r.start + r.length ≤ c) ∧
      (p.filter fun r => r.length != 0).Pairwise fun a b =>
        a.start + a.length ≤ b.start ∨ b.start + b.length ≤ a.start := by
  unfold partitionValid
  dsimp only
  rw [Bool.and_eq_true, Bool.and_eq_true, Bool.and_eq_true, Bool.and_eq_true, singleton_all_iff, singleton_all_iff,
    regionsDisjoint_iff]
  simp only [Bool.and_eq_true, decide_eq_true_eq, beq_iff_eq, List.all_eq_true, and_assoc]
  rfl

theorem defaultProfile_eq (g : Geometry) :
    defaultProfile g = factoryProfile.take 13 ++ (factoryProfile.drop 13).map fun e =>
      { e with cls := if g.addrBytes = 3 then .block else e.cls } := by
  unfold defaultProfile
  split
  · rfl
  · rfl

/-- Where one used entry alone has a kind, it is the part's entry of that kind. -/
theorem regionOf_of_unique {p : List Region} {k : RegionKind} {r : Region} (hr : r ∈ p) (hk : r.kind = k)
    (hl : r.length ≠ 0) (hu : ∀ x ∈ p, x.kind = k → x.length ≠ 0 → x = r) : regionOf p k = some r := by
  cases hf : regionOf p k with
  | none =>
    have := List.find?_eq_none.1 hf r hr
    simp [Region.used, hk, hl] at this
  | some x =>
    have hx := List.find?_some hf
    have hm := List.mem_of_find?_eq_some hf
    simp only [Region.used, Bool.and_eq_true, bne_iff_ne, beq_iff_eq] at hx
    rw [hu x hm hx.2 hx.1]

/-! ### The target rows (R142) -/

theorem keepFirstMapped_getD (seen : Bool) (l : List TargetStatic) (u : Nat) :
    (keepFirstMapped seen l).getD u TargetStatic.blank =
      { l.getD u TargetStatic.blank with
        bootMapped := (l.getD u TargetStatic.blank).bootMapped && !seen &&
          (List.range u).all fun v => !(l.getD v TargetStatic.blank).bootMapped } := by
  induction l generalizing seen u with
  | nil => simp [keepFirstMapped, TargetStatic.blank]
  | cons t ts ih =>
    cases u with
    | zero => simp [keepFirstMapped]
    | succ u =>
      rw [keepFirstMapped, List.getD_cons_succ, ih, List.range_succ_eq_map]
      simp only [List.getD_cons_succ, List.all_cons, List.getD_cons_zero, List.all_map, Function.comp_def]
      cases seen <;> cases t.bootMapped <;> simp

/-- More than one entry of a list has a mark. -/
theorem one_lt_filter_length_iff {α : Type} (d : α) (f : α → Bool) (l : List α) :
    1 < (l.filter f).length ↔ ∃ u v, u < v ∧ v < l.length ∧ f (l.getD u d) = true ∧ f (l.getD v d) = true := by
  induction l with
  | nil => simp
  | cons x xs ih =>
    constructor
    · intro h
      by_cases hx : f x = true
      · rw [List.filter_cons_of_pos hx, List.length_cons, Nat.lt_add_left_iff_pos, List.length_pos_iff_exists_mem] at h
        obtain ⟨y, hy⟩ := h
        obtain ⟨hy, hfy⟩ := List.mem_filter.1 hy
        obtain ⟨v, hv, rfl⟩ := List.getElem_of_mem hy
        exact ⟨0, v + 1, Nat.succ_pos v, Nat.succ_lt_succ hv, hx, by simpa [hv] using hfy⟩
      · rw [List.filter_cons_of_neg hx] at h
        obtain ⟨u, v, huv, hv, hfu, hfv⟩ := ih.1 h
        exact ⟨u + 1, v + 1, Nat.succ_lt_succ huv, Nat.succ_lt_succ hv, hfu, hfv⟩
    · rintro ⟨u, v, huv, hv, hfu, hfv⟩
      obtain ⟨v, rfl⟩ := Nat.exists_eq_succ_of_ne_zero (Nat.ne_zero_of_lt huv)
      rw [List.getD_cons_succ] at hfv
      have hv' : v < xs.length := Nat.lt_of_succ_lt_succ hv
      cases u with
      | zero =>
        rw [List.filter_cons_of_pos (show f x = true from hfu), List.length_cons, Nat.lt_add_left_iff_pos,
          List.length_pos_iff_exists_mem]
        rw [List.getD_eq_getElem _ _ hv'] at hfv
        exact ⟨_, List.mem_filter.2 ⟨List.getElem_mem hv', hfv⟩⟩
      | succ u =>
        have h := ih.2 ⟨u, v, Nat.lt_of_succ_lt_succ huv, hv', hfu, hfv⟩
        exact h.trans_le ((List.sublist_cons_self x xs).filter f).length_le

/-! ### What STARTUP puts in force -/

/-- A target row's content, or the blank record. -/
def Store.targetRow (st : Store) (u : Nat) : TargetStatic := (st.targetRows.getD u .blank).content?.getD TargetStatic.blank

section
variable (st : Store)

theorem Store.targetRow_eq (u : Nat) :
    (st.targetRows.map fun r => r.content?.getD TargetStatic.blank).getD u TargetStatic.blank = st.targetRow u :=
  List.getD_map st.targetRows Row.blank fun r : Row TargetStatic => r.content?.getD TargetStatic.blank

theorem Store.loadStatics_getD (u : Nat) :
    st.loadStatics.1.getD u TargetStatic.blank = { st.targetRow u with
      bootMapped := (st.targetRow u).bootMapped && (List.range u).all fun v => !(st.targetRow v).bootMapped } := by
  rw [Store.loadStatics, keepFirstMapped_getD]
  simp only [Store.targetRow_eq, Bool.not_false, Bool.and_true]

theorem Row.any_isGarbled_iff {α : Type} (rows : List (Row α)) :
    rows.any Row.isGarbled = true ↔ ∃ r ∈ rows, r ≠ .blank ∧ ∀ c, r ≠ .stored c := by
  simp only [List.any_eq_true, Row.isGarbled_iff]

/-- R142: two targets give boot-mapped. -/
theorem Store.two_mapped_iff :
    1 < ((st.targetRows.map fun r => r.content?.getD TargetStatic.blank).filter TargetStatic.bootMapped).length ↔
      ∃ u v, u < v ∧ v < st.targetRows.length ∧ (st.targetRow u).bootMapped = true ∧
        (st.targetRow v).bootMapped = true := by
  simp only [one_lt_filter_length_iff TargetStatic.blank, Store.targetRow_eq, List.length_map]

/-- R142: the parts of CONFIG_DEFAULTED. -/
theorem State.loadRows_configDefaulted (s : State) :
    s.loadRows.configDefaulted = true ↔
      (loadRow geometryValid defaultGeometry s.store.geometryRow).2 = true ∨
      (loadRow (profileValid s.loadRows.cfg.geometry) (defaultProfile s.loadRows.cfg.geometry)
        s.store.profileRow).2 = true ∨
      (loadRow (partitionValid s.loadRows.cfg.geometry.sectors) (defaultPartition s.loadRows.cfg.geometry.sectors)
        s.store.partitionRow).2 = true ∨
      (loadRow (fun _ => true) defaultSettings s.store.settingsRow).2 = true ∨
      s.store.keyRow.isGarbled = true ∨ s.store.identityRow.isGarbled = true ∨
      s.store.targetRows.any Row.isGarbled = true ∨ s.loadRows.cfg.sPhys / 4 < s.loadRows.cfg.settings.spareCount ∨
      1 < ((s.store.targetRows.map fun r => r.content?.getD TargetStatic.blank).filter TargetStatic.bootMapped).length := by
  simp only [State.loadRows, Store.loadConfig, Store.loadStatics, Bool.or_eq_true, decide_eq_true_eq]
  tauto

end

/-- Settles O56, row by row. -/
theorem startupLoads : Obligations.StartupLoads := by
  intro s hp st geometryGood profileGood partitionGood row
  have hexec : exec .startup s = .next { s.begin.loadRows with clock := 0, phase := .idleWait } :=
    congrArg Host.Outcome.next (if_pos hp)
  refine ⟨_, hexec, rfl, fun g hr hg => ?_, fun hr => ?_, fun p hr hg => ?_, fun hr => ?_, fun p hr hg => ?_, fun hr => ?_,
    fun c hr => ?_, fun hr => ?_, fun r hr hk hl hu => ?_, rfl, fun k hr => ?_, fun hr => ?_, fun u => ?_, fun x hr => ?_,
    fun hr => ?_, ?_⟩
  · exact loadRow_of_good geometryValid_iff hr hg
  · exact loadRow_of_not_good geometryValid_iff hr
  · exact loadRow_of_good (profileValid_iff _) hr hg
  · exact (loadRow_of_not_good (profileValid_iff _) hr).trans (defaultProfile_eq _)
  · exact loadRow_of_good (partitionValid_iff _) hr hg
  · exact loadRow_of_not_good (partitionValid_iff _) hr
  · exact loadRow_of_good (good := fun _ => True) (fun _ => iff_of_true rfl trivial) hr trivial
  · exact loadRow_of_not_good (good := fun _ => True) (fun _ => iff_of_true rfl trivial) fun c h => absurd h (hr c)
  · exact congrArg (fun o : Option Region => (o.map Region.length).getD 0) (regionOf_of_unique hr hk hl hu)
  · have hk : st.keyContent = k := by rw [Store.keyContent, hr, Row.content?_stored]; rfl
    exact ⟨congrArg KeyRow.keys hk, congrArg KeyRow.locked hk⟩
  · have hk : st.keyContent = { keys := List.replicate 8 .empty, locked := false } := by
      rw [Store.keyContent, Row.content?_of_not_stored hr]
      rfl
    exact ⟨congrArg KeyRow.keys hk, congrArg KeyRow.locked hk⟩
  · exact st.loadStatics_getD u
  · have hx : st.serial = x := by rw [Store.serial, hr, Row.content?_stored]; rfl
    exact congrArg (identityPage · _) hx
  · have hx : st.serial = List.replicate 16 0xFF#8 := by rw [Store.serial, Row.content?_of_not_stored hr]; rfl
    exact congrArg (identityPage · _) hx
  · refine (State.loadRows_configDefaulted s.begin).trans ?_
    have hsettings := loadRow_defaulted (row := st.settingsRow) (defaults := defaultSettings) (good := fun _ => True)
      (valid := fun _ => true) fun _ => iff_of_true rfl trivial
    simp only [not_true_eq_false, imp_false] at hsettings
    exact or_congr (loadRow_defaulted geometryValid_iff) <| or_congr (loadRow_defaulted (profileValid_iff _)) <|
      or_congr (loadRow_defaulted (partitionValid_iff _)) <| or_congr hsettings <| or_congr Row.isGarbled_iff <|
      or_congr Row.isGarbled_iff <| or_congr (Row.any_isGarbled_iff _) <| or_congr Iff.rfl st.two_mapped_iff

end Sys2Proof.Machine
end

section
/-! The erase of a staging sector (2.4, 3.6, 3.7, 6.3): the decision taken, what becomes of the erase, and what the owners of
the sector do. -/

namespace Sys2Proof.Machine

open Sys2Proof

/-! ### The decision (R54) -/

section
variable {s t : State} {l : Nat}

/-- R54: a decision looks at the map, the pool, the health table and the settings. -/
theorem State.eraseDecision_congr (hm : t.map = s.map) (hp : t.pool = s.pool) (hh : t.health = s.health)
    (hc : t.cfg = s.cfg) (l : Nat) : t.eraseDecision l = s.eraseDecision l := by
  simp only [State.eraseDecision, State.wearRecord, State.physical, State.healthOf, hm, hp, hh, hc]
  rfl

theorem State.eraseDecision_logical (s : State) (l : Nat) : (s.eraseDecision l).logical = l := by
  unfold State.eraseDecision
  dsimp only
  split
  · split <;> rfl
  · split
    · rfl
    · split <;> rfl

theorem State.eraseDecision_source (s : State) (l : Nat) : (s.eraseDecision l).source = s.physical l := by
  unfold State.eraseDecision
  dsimp only
  split
  · split <;> rfl
  · split
    · rfl
    · split <;> rfl

/-- R54: a decision that moves nothing erases the sector in its place. -/
theorem State.eraseDecision_target (h : (s.eraseDecision l).moves = false) :
    (s.eraseDecision l).target = s.physical l := by
  revert h
  unfold State.eraseDecision
  dsimp only
  split
  · split <;> exact fun _ => rfl
  · split
    · exact fun h => absurd h (by decide : ¬ (DecisionCase.retire == .retire || DecisionCase.retire == .swap) = false)
    · split
      · exact fun h => absurd h (by decide : ¬ (DecisionCase.swap == .retire || DecisionCase.swap == .swap) = false)
      · exact fun _ => rfl

theorem Decision.namesRecord_eq_false {d : Decision} : d.namesRecord = false ↔ d.moves = false ∧ d.wear = none := by
  simp [Decision.namesRecord, Bool.or_eq_false_iff]

end

/-- R55, R60: the records that a decision names, in the order in which they are offered. -/
def Decision.records (d : Decision) (s : State) : List Offer :=
  (match d.case with
    | .retire =>
      [{ payload := .map d.logical d.target, owner := .holdMap },
        { payload := .health d.source { s.healthOf d.source with retired := true }, owner := .nobody }]
    | .swap => [{ payload := .map d.logical d.target, owner := .holdMap }]
    | .degrade => []
    | .inPlace => []) ++
  (match d.wear with
    | none => []
    | some w => [{ payload := .health d.target { s.healthOf d.target with wear := w }, owner := .holdWear }])

/-- The log entry of a decision (R55, R56). -/
def State.decisionEntry (s : State) (d : Decision) (a : Nat) (k : LogKind) : LogEntry :=
  s.atSector d.logical { LogEntry.of k with value := some d.source, address := some a }

section
variable (s : State) (d : Decision) (a : Nat)

theorem State.takeDecision_offers : (s.takeDecision d a).store.offers = s.store.offers ++ d.records s := by
  unfold State.takeDecision Decision.records
  dsimp only
  cases d.case <;> cases d.wear <;> simp [State.offer_offers]

/-- The entry that the decision's case logs, if it logs one. -/
theorem State.takeDecision_log :
    (s.takeDecision d a).log = match d.case with
      | .retire => (s.appendLog (s.decisionEntry d a .sectorRetired)).log
      | .degrade => (s.appendLog (s.decisionEntry d a .poolEmpty)).log
      | .swap => s.log
      | .inPlace => s.log := by
  unfold State.takeDecision
  cases d.case <;> cases d.wear <;> rfl

theorem State.takeDecision_log_last {k : LogKind}
    (h : (d.case = .retire ∧ k = .sectorRetired) ∨ (d.case = .degrade ∧ k = .poolEmpty)) :
    (s.takeDecision d a).log.getLast? = some { s.decisionEntry d a k with seq := s.nextLogSeq } := by
  rw [State.takeDecision_log]
  rcases h with ⟨h, rfl⟩ | ⟨h, rfl⟩ <;> rw [h]
  · exact s.appendLog_getLast (s.decisionEntry d a .sectorRetired)
  · exact s.appendLog_getLast (s.decisionEntry d a .poolEmpty)

end

/-! ### What the owners of a sector keep -/

/-- `t` is `s` but for what the owners of its sectors keep: the slots, the engine's lists and jobs, the log, and the offers
to the journal. -/
def State.OwnersOnly (s t : State) : Prop :=
  t = { s with
    log := t.log, overrun := t.overrun, nextLogSeq := t.nextLogSeq, alertPending := t.alertPending, store := t.store
    slots := t.slots, verifyQueue := t.verifyQueue, job := t.job, aside := t.aside, manifestJobs := t.manifestJobs }

theorem State.OwnersOnly.refl (s : State) : s.OwnersOnly s := rfl

theorem State.OwnersOnly.trans {s t u : State} (h : s.OwnersOnly t) (g : t.OwnersOnly u) : s.OwnersOnly u :=
  Eq.trans (show u = _ from g) (by rw [show t = _ from h])

section
variable (s : State)

theorem State.updSlot_ownersOnly (i : Nat) (f : SlotRec → SlotRec) : s.OwnersOnly (s.updSlot i f) := rfl

theorem State.appendLog_ownersOnly (e : LogEntry) : s.OwnersOnly (s.appendLog e) := rfl

theorem State.offer_ownersOnly (o : Owner) (p : Payload) : s.OwnersOnly (s.offer o p) := rfl

theorem State.dropManifest_ownersOnly (i : Nat) : s.OwnersOnly (s.dropManifest i) := rfl

theorem State.dropChunkJob_ownersOnly (i k : Nat) : s.OwnersOnly (s.dropChunkJob i k) :=
  .trans (t := s.dropEntries fun a b => a == i && b == k) rfl (State.updSlot_ownersOnly ..)

theorem State.resettle_ownersOnly : s.OwnersOnly s.resettle := by
  rw [State.resettle_eq]
  rfl

theorem State.takeDecision_ownersOnly (d : Decision) (a : Nat) : s.OwnersOnly (s.takeDecision d a) := by
  have hwear (u : State) : u.OwnersOnly (match d.wear with
      | none => u
      | some w => u.offer .holdWear (.health d.target { s.healthOf d.target with wear := w })) := by
    split
    · exact .refl u
    · exact u.offer_ownersOnly ..
  unfold State.takeDecision
  refine .trans ?_ (hwear _)
  split
  · exact ((s.appendLog_ownersOnly _).trans (State.offer_ownersOnly ..)).trans (State.offer_ownersOnly ..)
  · exact s.appendLog_ownersOnly _
  · exact s.offer_ownersOnly ..
  · exact .refl s

/-- R70, R98: what the erase of sector `k` of slot `i` does at the take. -/
def State.takeSector (i k : Nat) (s : State) : State := if k = 0 then s.takeHeaderErase i else s.takeBodyErase i k

theorem State.takeHeaderErase_ownersOnly (i : Nat) : s.OwnersOnly (s.takeHeaderErase i) := by
  unfold State.takeHeaderErase
  dsimp only
  split
  · exact (s.dropManifest_ownersOnly i).trans (State.updSlot_ownersOnly ..)
  · split
    · exact s.updSlot_ownersOnly ..
    · exact (s.updSlot_ownersOnly ..).trans ((State.offer_ownersOnly ..).trans (State.updSlot_ownersOnly ..))
  · exact .refl s

theorem State.takeSector_ownersOnly (i k : Nat) : s.OwnersOnly (s.takeSector i k) := by
  unfold State.takeSector
  split
  · exact s.takeHeaderErase_ownersOnly i
  · unfold State.takeBodyErase
    split
    · exact (s.dropChunkJob_ownersOnly i k).trans (State.updSlot_ownersOnly ..)
    · exact .refl s

end

/-- `t` has the slots of `s`, and the lists and the job of its engine. -/
structure State.SameEngine (s t : State) : Prop where
  slots : t.slots = s.slots
  queue : t.verifyQueue = s.verifyQueue
  aside : t.aside = s.aside
  job : t.job = s.job
  manifests : t.manifestJobs = s.manifestJobs

theorem State.SameEngine.refl (s : State) : s.SameEngine s := ⟨rfl, rfl, rfl, rfl, rfl⟩

theorem State.SameEngine.trans {s t u : State} (h : s.SameEngine t) (g : t.SameEngine u) : s.SameEngine u :=
  ⟨g.slots.trans h.slots, g.queue.trans h.queue, g.aside.trans h.aside, g.job.trans h.job,
    g.manifests.trans h.manifests⟩

theorem State.takeDecision_sameEngine (s : State) (d : Decision) (a : Nat) : s.SameEngine (s.takeDecision d a) := by
  have hlog (u : State) (x : LogEntry) : u.SameEngine (u.appendLog x) := ⟨rfl, rfl, rfl, rfl, rfl⟩
  have hoffer (u : State) (o : Owner) (p : Payload) : u.SameEngine (u.offer o p) := ⟨rfl, rfl, rfl, rfl, rfl⟩
  have hwear (u : State) : u.SameEngine (match d.wear with
      | none => u
      | some w => u.offer .holdWear (.health d.target { s.healthOf d.target with wear := w })) := by
    split
    · exact .refl u
    · exact hoffer ..
  unfold State.takeDecision
  refine .trans ?_ (hwear _)
  split
  · exact ((hlog s _).trans (hoffer ..)).trans (hoffer ..)
  · exact hlog s _
  · exact hoffer s ..
  · exact .refl s

/-! ### The sweep and the engine, past a chunk that is not complete (R104, R106) -/

/-- Nothing is queued, put aside or in flight for chunk `k` of slot `i`. -/
structure State.ChunkFree (i k : Nat) (s : State) : Prop where
  queue : ∀ e ∈ s.verifyQueue, ¬ (e.slot = i ∧ e.chunk = k)
  aside : ∀ e, s.aside = some e → ¬ (e.slot = i ∧ e.chunk = k)
  job : ∀ j, s.job = some j → j.kind = .chunk ∨ j.kind = .patrol → ¬ (j.slot = i ∧ j.chunk = k)

section
variable {s : State} {i k : Nat} {c : Chunk}

/-- The sweep takes COMPLETE chunks alone. -/
theorem State.complete_of_eligible {p : Nat × Nat} (h : p ∈ s.eligibleChunks) :
    ∃ c, s.chunkAt p.1 p.2 = some c ∧ c.state = .complete := by
  obtain ⟨⟨r, i⟩, hr, hp⟩ := List.mem_flatMap.1 h
  have hi : s.slots[i]? = some r := List.mem_zipIdx_iff_getElem?.1 hr
  dsimp only at hp
  split at hp
  · obtain ⟨⟨c, k⟩, hc, hk⟩ := List.mem_filterMap.1 hp
    obtain ⟨⟨hst, -⟩, hk⟩ := Option.ite_none_right_eq_some.1 hk
    obtain rfl := Option.some.inj hk
    have hck : r.chunks[k]? = some c := List.mem_zipIdx_iff_getElem?.1 hc
    exact ⟨c, by simp [State.chunkAt, State.slotAt, SlotRec.chunkAt, hi, hck], hst⟩
  · cases hp

theorem State.sweep_chunkFree (hf : s.ChunkFree i k) (hc : s.chunkAt i k = some c) (hst : c.state ≠ .complete) :
    s.sweep.ChunkFree i k ∧ s.sweep.chunkAt i k = some c := by
  have h : (∀ e ∈ s.sweep.verifyQueue, ¬ (e.slot = i ∧ e.chunk = k)) ∧ s.sweep.chunkAt i k = some c := by
    refine State.sweep_induction
      (P := fun u => (∀ e ∈ u.verifyQueue, ¬ (e.slot = i ∧ e.chunk = k)) ∧ u.chunkAt i k = some c)
      ⟨hf.queue, hc⟩ fun u p hp ⟨hq, hu⟩ => ?_
    have hne : ¬ (p.1 = i ∧ p.2 = k) := by
      rintro ⟨rfl, rfl⟩
      obtain ⟨c', hc', hst'⟩ := State.complete_of_eligible hp
      rw [hc] at hc'
      obtain rfl := Option.some.inj hc'
      exact hst hst'
    refine ⟨fun e he => ?_, ?_⟩
    · rcases List.mem_append.1 he with he | he
      · exact hq e he
      · obtain rfl := List.mem_singleton.1 he
        exact hne
    · exact (u.chunkAt_updChunk p.1 p.2 i k _).trans ((if_neg hne).trans hu)
  exact ⟨⟨h.1, by simpa using hf.aside, by simpa using hf.job⟩, h.2⟩

theorem State.startJob_chunkFree (hf : s.ChunkFree i k) (hc : s.chunkAt i k = some c) (hst : c.state ≠ .complete) :
    s.startJob.ChunkFree i k ∧ s.startJob.chunkAt i k = some c := by
  unfold State.startJob
  split
  · exact ⟨hf, hc⟩
  · split
    · next v _ =>
      refine ⟨⟨hf.queue, hf.aside, fun j hj hk => ?_⟩, hc⟩
      obtain rfl := Option.some.inj hj
      unfold State.scanStart at hk
      split at hk <;> rcases hk with hk | hk <;> cases hk
    · split
      · next e ha =>
        refine ⟨⟨hf.queue, nofun, fun j hj _ => ?_⟩, hc⟩
        obtain rfl := Option.some.inj hj
        exact hf.aside e ha
      · split
        · next m ms _ =>
          refine ⟨⟨hf.queue, hf.aside, fun j hj hk => ?_⟩, hc⟩
          obtain rfl := Option.some.inj hj
          have hk' : (if m.reload then JobKind.reload else .admission) = .chunk ∨
            (if m.reload then JobKind.reload else .admission) = .patrol := hk
          split at hk' <;> rcases hk' with hk' | hk' <;> cases hk'
        · split
          · next e q hq =>
            have hmem := hf.queue
            rw [hq] at hmem
            obtain ⟨he, hmem⟩ := List.forall_mem_cons.1 hmem
            refine State.sweep_chunkFree ⟨hmem, hf.aside, fun j hj _ => ?_⟩ hc hst
            obtain rfl := Option.some.inj hj
            exact he
          · exact ⟨hf, hc⟩

theorem State.resettle_chunkFree (hf : s.ChunkFree i k) (hc : s.chunkAt i k = some c) (hst : c.state ≠ .complete) :
    s.resettle.ChunkFree i k ∧ s.resettle.chunkAt i k = some c := by
  obtain ⟨hf', hc'⟩ := State.sweep_chunkFree hf hc hst
  exact State.startJob_chunkFree hf' hc' hst

/-- R98: a chunk's entry and job go. -/
theorem State.dropChunkJob_chunkFree (s : State) (i k : Nat) : (s.dropChunkJob i k).ChunkFree i k := by
  refine ⟨fun e he => ?_, fun e he => ?_, fun j hj hk => ?_⟩
  · have he' : e ∈ s.verifyQueue.filter fun e => !(e.slot == i && e.chunk == k) := he
    rintro ⟨hi, hk⟩
    simpa [hi, hk] using (List.mem_filter.1 he').2
  · have he' : (s.aside.filter fun e => !(e.slot == i && e.chunk == k)) = some e := he
    rintro ⟨hi, hk⟩
    simpa [hi, hk] using (Option.filter_eq_some_iff.1 he').2
  · have hj' : (if s.chunkJobIs (fun a b => a == i && b == k) then none else s.job) = some j := hj
    obtain ⟨hn, hs⟩ := Option.ite_none_left_eq_some.1 hj'
    intro hjk
    refine hn ?_
    rcases hk with hk | hk <;> simp [State.chunkJobIs, hs, hk, hjk]

end

/-- No manifest job of slot `i` is listed or in flight. -/
structure State.ManifestFree (i : Nat) (s : State) : Prop where
  listed : ∀ m ∈ s.manifestJobs, m.slot ≠ i
  job : ∀ j, s.job = some j → j.kind = .admission ∨ j.kind = .reload → j.slot ≠ i

section
variable {s : State} {i : Nat}

theorem State.sweep_manifestFree (h : s.ManifestFree i) : s.sweep.ManifestFree i :=
  ⟨by simpa using h.listed, by simpa using h.job⟩

theorem State.startJob_manifestFree (h : s.ManifestFree i) : s.startJob.ManifestFree i := by
  have hentry (e : Entry) : ¬ ((s.entryStart e).kind = .admission ∨ (s.entryStart e).kind = .reload) := by
    show ¬ (e.kind.jobKind = .admission ∨ e.kind.jobKind = .reload)
    cases e.kind <;> simp [EntryKind.jobKind]
  unfold State.startJob
  split
  · exact h
  · split
    · next v _ =>
      refine ⟨h.listed, fun j hj hk => ?_⟩
      obtain rfl := Option.some.inj hj
      unfold State.scanStart at hk
      split at hk <;> rcases hk with hk | hk <;> cases hk
    · split
      · next e _ =>
        refine ⟨h.listed, fun j hj hk => ?_⟩
        obtain rfl := Option.some.inj hj
        exact absurd hk (hentry e)
      · split
        · next m ms hm =>
          refine ⟨h.listed, fun j hj _ => ?_⟩
          obtain rfl := Option.some.inj hj
          exact h.listed m (hm ▸ List.mem_cons_self)
        · split
          · next e q _ =>
            refine State.sweep_manifestFree ⟨h.listed, fun j hj hk => ?_⟩
            obtain rfl := Option.some.inj hj
            exact absurd hk (hentry e)
          · exact h

theorem State.resettle_manifestFree (h : s.ManifestFree i) : s.resettle.ManifestFree i :=
  State.startJob_manifestFree (State.sweep_manifestFree h)

/-- R70, R72: a slot's manifest job is dropped. -/
theorem State.dropManifest_manifestFree (s : State) (i : Nat) : (s.dropManifest i).ManifestFree i := by
  refine ⟨fun m hm => ?_, fun j hj hk => ?_⟩
  · have hm' : m ∈ s.manifestJobs.filter fun m => m.slot != i := hm
    simpa using (List.mem_filter.1 hm').2
  · unfold State.dropManifest at hj
    cases hs : s.job with
    | none => simp [hs] at hj
    | some j' =>
      simp only [hs] at hj
      obtain ⟨hn, hs⟩ := Option.ite_none_left_eq_some.1 hj
      obtain rfl := Option.some.inj hs
      exact fun hi => hn ⟨hk, hi⟩

end

end Sys2Proof.Machine
end

section
/-! What becomes of an accepted erase of a staging sector, and the settlement of O24. -/

namespace Sys2Proof.Machine

open Sys2Proof

/-! ### Sent or held (R3, R19, R20, R59) -/

/-- The operation record of an erase of a staging sector. -/
def stagingOp (tx : HostTxn) (l : Nat) (d : Decision) : OpRecord :=
  { cls := .eraseSector, opcode := tx.opcode, address := txnAddress tx, region := .staging, sectors := some (l, d.target) }

/-- The hold that an erase of a staging sector takes where it is not sent whole. -/
def State.stagingHold (s : State) (d : Decision) : Hold :=
  { recordOpen := d.namesRecord, guardOpen := decide (s.cfg.settings.egMax ≤ s.guardUsed s.clock), decision := some d }

/-- The part when the erase has been sent to the decision's target, but for the owner of the sector. -/
def State.stagingSent (s : State) (txn : MemTxn) (op : OpRecord) (d : Decision) : State := { s with
  memOut := s.memOut ++ [txn], pendingWD := false, tracker := .eraseInFlight op
  guard := (if s.guard.length < s.cfg.settings.egMax then s.guard else s.guard.drop 1) ++ [s.clock]
  flash := s.flash.startOp (eraseRange op.cls (s.cfg.physicalAddr d.target (op.address % 4096)))
  health := healthStore d.target { s.healthOf d.target with wear := min ((s.healthOf d.target).wear + 1) 65534 } s.health
  clean := insertNat d.logical s.clean }

section
variable {s t : State} {tx : HostTxn} {txn : MemTxn} {op : OpRecord} {d : Decision} {cut : Bool}

theorem State.not_guardAllows (h : s.cfg.settings.egMax ≤ s.guardUsed s.clock) : s.guardAllows s.clock = false :=
  decide_eq_false (Nat.not_lt.2 h)

theorem State.guardAllows_of_lt (h : s.guardUsed s.clock < s.cfg.settings.egMax) : s.guardAllows s.clock = true :=
  decide_eq_true h

theorem State.not_guardAllows_eq : (!s.guardAllows s.clock) = decide (s.cfg.settings.egMax ≤ s.guardUsed s.clock) := by
  rw [State.guardAllows_eq, ← decide_not, Bool.decide_congr Nat.not_lt]

/-- R19: an erase that names a record or that the guard stops is held, and nothing is sent. -/
theorem State.acceptErase_held (h : ¬ (d.namesRecord = false ∧ s.guardUsed s.clock < s.cfg.settings.egMax)) :
    s.acceptErase tx op (some d) cut = { s with tracker := .eraseHeld op (s.stagingHold d) } := by
  have ho : (some d).any Decision.namesRecord = true ∨ s.guardAllows s.clock = false := by
    by_cases hn : d.namesRecord = true
    · exact .inl hn
    · exact .inr (State.not_guardAllows (Nat.not_lt.1 fun hu => h ⟨Bool.not_eq_true _ ▸ hn, hu⟩))
  rw [State.acceptErase_of_open ho, State.not_guardAllows_eq]
  rfl

theorem State.eraseChunk_slots (s : State) (l : Nat) (f : Chunk → Chunk) :
    (s.eraseChunk l f).slots = match s.slotOf l with
      | none => s.slots
      | some (i, k) =>
        if (s.slots.getD i SlotRec.blank).state = .filling then s.slots.modify i (SlotRec.updChunk k f) else s.slots := by
  unfold State.eraseChunk
  cases s.slotOf l with
  | none => rfl
  | some p => exact apply_ite State.slots ..

theorem State.eraseChunk_slots_congr (hs : t.slots = s.slots) (hc : t.cfg = s.cfg) (hk : t.code = s.code) (l : Nat)
    (f : Chunk → Chunk) : (t.eraseChunk l f).slots = (s.eraseChunk l f).slots := by
  have hso : t.slotOf l = s.slotOf l := by
    unfold State.slotOf State.slotCount State.slotSize
    rw [hc, hk]
  rw [State.eraseChunk_slots, State.eraseChunk_slots, hso, hs]

/-- R59, R99: what the owners do when an erase that moves nothing goes out. -/
theorem State.stagingForwarded_of_not_moves (h : d.moves = false) :
    s.stagingForwarded d = { s with
      health :=
        healthStore d.target { s.healthOf d.target with wear := min ((s.healthOf d.target).wear + 1) 65534 } s.health
      clean := insertNat d.logical s.clean, slots := (s.eraseChunk d.logical Chunk.erased).slots } := by
  rw [State.stagingForwarded, State.applyDecision_of_not_moves _ h, State.eraseChunk_eq,
    State.eraseChunk_slots_congr (t := (s.countWear d.target).setClean d.logical) (s := s) rfl rfl rfl]
  rfl

/-- R20, R59, R99: an erase sent as it is decided. -/
theorem State.forwardErase_staging (h : d.moves = false) :
    s.forwardErase txn op (some d) =
      { s.stagingSent txn op d with slots := (s.eraseChunk d.logical Chunk.erased).slots } := by
  rw [State.forwardErase]
  dsimp only
  rw [State.stagingForwarded_of_not_moves h]
  simp only [State.send, State.pushGuard, State.eraseChunk_slots]
  rfl

theorem State.acceptErase_sent (hn : d.namesRecord = false) (hu : s.guardUsed s.clock < s.cfg.settings.egMax) :
    s.acceptErase tx op (some d) false =
      { s.stagingSent (eraseTxn tx (s.cfg.physicalAddr d.target (op.address % 4096)) false) op d with
        slots := (s.eraseChunk d.logical Chunk.erased).slots } := by
  rw [State.acceptErase_of_whole (d := some d) hn (State.guardAllows_of_lt hu),
    State.forwardErase_staging (Decision.namesRecord_eq_false.1 hn).1]
  rfl

/-- R3: an erase cut in its send is held, with no condition open. -/
theorem State.acceptErase_cut (hn : d.namesRecord = false) (hu : s.guardUsed s.clock < s.cfg.settings.egMax) :
    s.acceptErase tx op (some d) true = { s with
      memOut := s.memOut ++ [eraseTxn tx (s.cfg.physicalAddr d.target (op.address % 4096)) true]
      tracker := .eraseHeld op (s.stagingHold d) } := by
  rw [State.acceptErase_of_cut (d := some d) hn (State.guardAllows_of_lt hu), State.stagingHold, hn,
    decide_eq_false (Nat.not_le.2 hu)]
  rfl

/-! ### The same on the part as the take leaves it -/

theorem State.OwnersOnly.held (h : s.OwnersOnly t) :
    State.OwnersOnly { s with tracker := .eraseHeld op (s.stagingHold d) }
      { t with tracker := .eraseHeld op (t.stagingHold d) } := by
  unfold State.OwnersOnly
  rw [show t = _ from h]
  rfl

theorem State.OwnersOnly.sent (h : s.OwnersOnly t) (l : List SlotRec) :
    (s.stagingSent txn op d).OwnersOnly { t.stagingSent txn op d with slots := l } := by
  unfold State.OwnersOnly
  rw [show t = _ from h]
  rfl

end

section
variable {s : State} {tx : HostTxn} {i k l e : Nat} {cut : Bool}

/-- The part when the erase of sector `k` of slot `i` has been taken with the decision `d`, and not yet sent or held. -/
def State.eraseTaken (e i k : Nat) (tx : HostTxn) (d : Decision) (s : State) : State :=
  ((s.heard e).takeSector i k).takeDecision d (txnAddress tx)

theorem State.eraseTaken_ownersOnly (d : Decision) : (s.heard e).OwnersOnly (s.eraseTaken e i k tx d) :=
  ((s.heard e).takeSector_ownersOnly i k).trans (State.takeDecision_ownersOnly ..)

/-- R35, R54: an erase of a staging sector that its slot's state allows. -/
theorem exec_stagingErase (h : s.takes .eraseSector tx = true) (ht : s.tracker = .idle)
    (hk : s.cfg.kindAt (txnAddress tx / 4096) = some .staging) (hl : s.cfg.logicalOf (txnAddress tx) = l)
    (hs : s.slotOf l = some (i, k)) (hj : s.judgeErase i k = none) (e : Nat) (cut : Bool) :
    exec (.eraseSector tx e cut) s = .next
      ((s.eraseTaken e i k tx (s.eraseDecision l)).acceptErase tx (stagingOp tx l (s.eraseDecision l))
        (some (s.eraseDecision l)) cut).resettle := by
  have hs' : (s.heard e).slotOf ((s.heard e).cfg.logicalOf (txnAddress tx)) = some (i, k) := hl ▸ hs
  have hj' : (s.heard e).judgeErase i k = none := hj
  have hd : ((s.heard e).takeSector i k).eraseDecision l = s.eraseDecision l := by
    rw [show (s.heard e).takeSector i k = _ from (s.heard e).takeSector_ownersOnly i k]
    exact State.eraseDecision_congr rfl rfl rfl rfl l
  rw [exec_eraseSector_of_idle h ht, State.idleEraseSector_of_staging (s := s.heard e) hk, State.stagingErase]
  simp only [hs', hj']
  rw [← hd]
  subst hl
  rfl

end

section
variable {s t : State} {tx : HostTxn} {i k l e : Nat} {d : Decision} {op : OpRecord} {cut : Bool}

/-- Whether the erase is sent at its take: no record to wait for, and the guard allows it. -/
def State.eraseGoes (s : State) (e : Nat) (d : Decision) : Prop :=
  d.namesRecord = false ∧ s.guardUsed (s.clock + e) < s.cfg.settings.egMax

/-- R19: held at its take. -/
theorem State.eraseTaken_held (h : ¬ s.eraseGoes e d) :
    (s.eraseTaken e i k tx d).acceptErase tx op (some d) cut = { s.eraseTaken e i k tx d with
      tracker := .eraseHeld op ((s.heard e).stagingHold d) } := by
  have ho := State.eraseTaken_ownersOnly (s := s) (tx := tx) (i := i) (k := k) (e := e) d
  have h' : ¬ (d.namesRecord = false ∧ (s.eraseTaken e i k tx d).guardUsed (s.eraseTaken e i k tx d).clock <
      (s.eraseTaken e i k tx d).cfg.settings.egMax) := by
    rw [show s.eraseTaken e i k tx d = _ from ho]
    exact h
  have hh : (s.eraseTaken e i k tx d).stagingHold d = (s.heard e).stagingHold d := by
    rw [show s.eraseTaken e i k tx d = _ from ho]
    rfl
  rw [State.acceptErase_held h', hh]

/-- R3, R20, R59: sent at its take. -/
theorem State.eraseTaken_sent (h : s.eraseGoes e d) :
    (s.eraseTaken e i k tx d).acceptErase tx op (some d) false =
      { (s.eraseTaken e i k tx d).stagingSent
          (eraseTxn tx (s.cfg.physicalAddr d.target (op.address % 4096)) false) op d with
        slots := ((s.eraseTaken e i k tx d).eraseChunk d.logical Chunk.erased).slots } := by
  have ho := State.eraseTaken_ownersOnly (s := s) (tx := tx) (i := i) (k := k) (e := e) d
  have hu : (s.eraseTaken e i k tx d).guardUsed (s.eraseTaken e i k tx d).clock <
      (s.eraseTaken e i k tx d).cfg.settings.egMax := by
    rw [show s.eraseTaken e i k tx d = _ from ho]
    exact h.2
  have hc : (s.eraseTaken e i k tx d).cfg = s.cfg := by
    rw [show s.eraseTaken e i k tx d = _ from ho]
    rfl
  rw [State.acceptErase_sent h.1 hu, hc]

end

end Sys2Proof.Machine
end

section
/-! The erase of a staging sector by the state of its slot, and the settlement of O24. -/

namespace Sys2Proof.Machine

open Sys2Proof

/-! ### What a sent and what a held erase leave (R3, R19, R20) -/

section
variable {s : State} {tx : HostTxn} {i k e : Nat} {d : Decision} {op : OpRecord} {cut : Bool}

/-- The offers at the take: what the slot's owner offers, then the decision's records (log entries 29 and 42). -/
theorem State.eraseTaken_offers :
    (s.eraseTaken e i k tx d).store.offers = ((s.heard e).takeSector i k).store.offers ++ d.records s := by
  rw [State.eraseTaken, State.takeDecision_offers]
  have hr : d.records ((s.heard e).takeSector i k) = d.records s := by
    rw [show (s.heard e).takeSector i k = _ from (s.heard e).takeSector_ownersOnly i k]
    rfl
  rw [hr]

theorem State.held_leaves (h : ¬ s.eraseGoes e d) {t : State}
    (ht : t = ((s.eraseTaken e i k tx d).acceptErase tx op (some d) cut).resettle) :
    t.tracker = .eraseHeld op ((s.heard e).stagingHold d) ∧ t.memOut = [] ∧ t.flash = s.flash ∧ t.guard = s.guard ∧
    t.clean = s.clean ∧ t.health = s.health ∧ t.map = s.map ∧ t.pool = s.pool ∧ t.targets = s.targets ∧
    t.pendingWD = s.pendingWD ∧ t.echo = false := by
  have ho : State.OwnersOnly { s.heard e with tracker := .eraseHeld op ((s.heard e).stagingHold d) } t := by
    rw [ht, State.eraseTaken_held h]
    refine .trans ?_ (State.resettle_ownersOnly _)
    unfold State.OwnersOnly
    rw [show s.eraseTaken e i k tx d = _ from State.eraseTaken_ownersOnly d]
  rw [show t = _ from ho]
  exact ⟨rfl, rfl, rfl, rfl, rfl, rfl, rfl, rfl, rfl, rfl, rfl⟩

theorem State.sent_leaves (h : s.eraseGoes e d) {t : State}
    (ht : t = ((s.eraseTaken e i k tx d).acceptErase tx op (some d) false).resettle) :
    t.tracker = .eraseInFlight op ∧
    t.memOut = [eraseTxn tx (s.cfg.physicalAddr d.target (op.address % 4096)) false] ∧
    t.flash = s.flash.startOp (eraseRange op.cls (s.cfg.physicalAddr d.target (op.address % 4096))) ∧
    t.guard = (if s.guard.length < s.cfg.settings.egMax then s.guard else s.guard.drop 1) ++ [s.clock + e] ∧
    t.isClean d.logical = true ∧ t.map = s.map ∧ t.pool = s.pool ∧ t.targets = s.targets := by
  have ho : ((s.heard e).stagingSent (eraseTxn tx (s.cfg.physicalAddr d.target (op.address % 4096)) false) op d).OwnersOnly
      t := by
    rw [ht, State.eraseTaken_sent h]
    exact ((State.eraseTaken_ownersOnly d).sent _).trans (State.resettle_ownersOnly _)
  rw [show t = _ from ho]
  refine ⟨rfl, rfl, rfl, rfl, ?_, rfl, rfl, rfl⟩
  simp [State.isClean, State.stagingSent, mem_insertNat]

/-- Sent or held, the map, the pool and the targets stay: a decision that moves its sector is held for its records. -/
theorem State.accepted_map {t : State}
    (ht : t = ((s.eraseTaken e i k tx d).acceptErase tx op (some d) false).resettle) :
    t.map = s.map ∧ t.pool = s.pool ∧ t.targets = s.targets := by
  by_cases hg : s.eraseGoes e d
  · obtain ⟨-, -, -, -, -, hma, hpo, hta⟩ := State.sent_leaves hg ht
    exact ⟨hma, hpo, hta⟩
  · obtain ⟨-, -, -, -, -, -, hma, hpo, hta, -⟩ := State.held_leaves hg ht
    exact ⟨hma, hpo, hta⟩

/-- Sent or held, the log and the journal stand as the take leaves them. -/
theorem State.accepted_store (hc : cut = false ∨ ¬ s.eraseGoes e d) {t : State}
    (ht : t = ((s.eraseTaken e i k tx d).acceptErase tx op (some d) cut).resettle) :
    t.store = (s.eraseTaken e i k tx d).store ∧ t.log = (s.eraseTaken e i k tx d).log := by
  rw [ht, State.resettle_store, State.resettle_log]
  by_cases h : s.eraseGoes e d
  · obtain rfl := hc.resolve_right (not_not_intro h)
    rw [State.eraseTaken_sent h]
    exact ⟨rfl, rfl⟩
  · rw [State.eraseTaken_held h]
    exact ⟨rfl, rfl⟩

end

/-! ### By the state of the slot -/

section
variable {s : State} {i k : Nat}

theorem State.judgeErase_empty (h : (s.slotAt i).state = .empty) : s.judgeErase i k = none := by
  simp [State.judgeErase, h]

theorem State.judgeErase_filling (h : (s.slotAt i).state = .filling) (hk : k ≠ 0) : s.judgeErase i k = none := by
  simp [State.judgeErase, h, hk]

theorem State.judgeErase_header (h : (s.slotAt i).state = .header ∨ (s.slotAt i).state = .rejected) :
    s.judgeErase i k = none := by
  rcases h with h | h <;> simp [State.judgeErase, h]

/-- The erase of a sector of an EMPTY slot changes nothing of the slot at the take. -/
theorem State.takeSector_empty (h : (s.slotAt i).state = .empty) : s.takeSector i k = s := by
  unfold State.takeSector State.takeHeaderErase State.takeBodyErase
  split
  · rw [h]
  · simp [h]

theorem State.chunkAt_ne_zero {c : Chunk} (h : s.chunkAt i k = some c) : k ≠ 0 := by
  rintro rfl
  simp [State.chunkAt, SlotRec.chunkAt] at h

end

section
variable {s : State} {tx : HostTxn} {i k l e : Nat} {cut : Bool}

/-- R19, R55, R56: an erase of a sector of an EMPTY slot whose decision names a record. -/
theorem stagingErase_of_empty_record (htake : s.takes .eraseSector tx = true) (hidle : s.tracker = .idle)
    (hkind : s.cfg.kindAt (txnAddress tx / 4096) = some .staging) (hl : s.cfg.logicalOf (txnAddress tx) = l)
    (hslot : s.slotOf l = some (i, k)) (hst : (s.slotAt i).state = .empty) {d : Decision} (hd : s.eraseDecision l = d)
    (hn : d.namesRecord = true) :
    ∃ t, exec (.eraseSector tx e cut) s = .next t ∧
      t.tracker = .eraseHeld (stagingOp tx l d) ((s.heard e).stagingHold d) ∧
      t.store.offers = s.store.offers ++ d.records s ∧
      (d.case = .swap ∨ d.case = .inPlace → t.log = s.log) ∧
      (d.case = .retire → t.log.getLast? =
        some { s.decisionEntry d (txnAddress tx) .sectorRetired with seq := s.nextLogSeq }) ∧
      (d.case = .degrade → t.log.getLast? =
        some { s.decisionEntry d (txnAddress tx) .poolEmpty with seq := s.nextLogSeq }) ∧
      t.memOut = [] ∧ t.flash = s.flash ∧ t.map = s.map ∧ t.pool = s.pool ∧ t.health = s.health ∧ t.clean = s.clean ∧
      t.guard = s.guard ∧ t.targets = s.targets ∧ t.pendingWD = s.pendingWD ∧ t.echo = false := by
  subst hd
  have hno : ¬ s.eraseGoes e (s.eraseDecision l) := fun h => by
    rw [h.1] at hn
    cases hn
  refine ⟨_, exec_stagingErase htake hidle hkind hl hslot (State.judgeErase_empty hst) e cut, ?_⟩
  obtain ⟨htr, hmem, hfl, hgu, hcl, hhe, hma, hpo, hta, hpw, hec⟩ := State.held_leaves (i := i) (k := k) (tx := tx)
    (op := stagingOp tx l (s.eraseDecision l)) (cut := cut) hno rfl
  obtain ⟨hstore, hlog⟩ := State.accepted_store (i := i) (k := k) (tx := tx)
    (op := stagingOp tx l (s.eraseDecision l)) (cut := cut) (.inr hno) rfl
  have hsame : (s.heard e).takeSector i k = s.heard e := State.takeSector_empty hst
  have hlog' : (s.eraseTaken e i k tx (s.eraseDecision l)).log =
      ((s.heard e).takeDecision (s.eraseDecision l) (txnAddress tx)).log := by
    rw [State.eraseTaken, hsame]
  refine ⟨htr, ?_, fun hc => ?_, fun hc => ?_, fun hc => ?_, hmem, hfl, hma, hpo, hhe, hcl, hgu, hta, hpw, hec⟩
  · rw [hstore, State.eraseTaken_offers, hsame]
    rfl
  · rw [hlog, hlog', State.takeDecision_log]
    rcases hc with hc | hc <;> rw [hc] <;> rfl
  · rw [hlog, hlog']
    exact State.takeDecision_log_last (s.heard e) _ _ (.inl ⟨hc, rfl⟩)
  · rw [hlog, hlog']
    exact State.takeDecision_log_last (s.heard e) _ _ (.inr ⟨hc, rfl⟩)

/-! ### A chunk of a FILLING slot (R98, R99) -/

theorem State.chunkAt_of_slots {s t : State} (h : t.slots = s.slots) (i k : Nat) : t.chunkAt i k = s.chunkAt i k := by
  rw [State.chunkAt, State.slotAt, h, State.chunkAt, State.slotAt]

theorem State.SameEngine.chunkFree {s t : State} {i k : Nat} (h : s.SameEngine t) (hf : s.ChunkFree i k) :
    t.ChunkFree i k :=
  ⟨h.queue ▸ hf.queue, h.aside ▸ hf.aside, h.job ▸ hf.job⟩

/-- R98: the chunk's entry and job go, and the chunk is STALE. -/
theorem State.takeSector_filling {c : Chunk} (hst : (s.slotAt i).state = .filling) (hc : s.chunkAt i k = some c) :
    (s.takeSector i k).ChunkFree i k ∧
    (s.takeSector i k).chunkAt i k = some { c with state := .stale, mask := 0, queued := false, hostErased := true } ∧
    ((s.takeSector i k).slotAt i).state = .filling ∧ (s.takeSector i k).store = s.store := by
  have htake : s.takeSector i k =
      (s.dropChunkJob i k).updChunk i k fun c => { c with state := .stale, mask := 0, hostErased := true } := by
    rw [State.takeSector, if_neg (State.chunkAt_ne_zero hc), State.takeBodyErase, if_pos ⟨hst, by simp [hc]⟩]
  rw [htake]
  have hfree := s.dropChunkJob_chunkFree i k
  refine ⟨⟨hfree.queue, hfree.aside, hfree.job⟩, ?_, ?_, rfl⟩
  · rw [State.chunkAt_updChunk, if_pos ⟨rfl, rfl⟩, State.dropChunkJob, State.chunkAt_updChunk, if_pos ⟨rfl, rfl⟩,
      State.chunkAt_of_slots (s := s) (t := s.dropEntries fun a b => a == i && b == k) rfl, hc]
    rfl
  · rw [State.slotAt_updChunk_state, State.dropChunkJob, State.slotAt_updChunk_state]
    exact hst

/-- R99: the erase that goes out makes the chunk EMPTY. -/
theorem State.eraseChunk_erased {c : Chunk} (hslot : s.slotOf l = some (i, k)) (hst : (s.slotAt i).state = .filling)
    (hc : s.chunkAt i k = some c) :
    (s.eraseChunk l Chunk.erased).chunkAt i k = some c.erased ∧
    ((s.eraseChunk l Chunk.erased).slotAt i).state = .filling := by
  have he : s.eraseChunk l Chunk.erased = s.updChunk i k Chunk.erased := by
    rw [State.eraseChunk, hslot]
    exact if_pos hst
  rw [he, State.chunkAt_updChunk, if_pos ⟨rfl, rfl⟩, hc, State.slotAt_updChunk_state]
  exact ⟨rfl, hst⟩

/-- R99: an erase changes no chunk of a slot that is not FILLING. -/
theorem State.eraseChunk_of_not_filling (hslot : s.slotOf l = some (i, k)) (hst : (s.slotAt i).state ≠ .filling)
    (f : Chunk → Chunk) : s.eraseChunk l f = s := by
  rw [State.eraseChunk, hslot]
  exact if_neg hst

theorem stagingErase_of_filling (htake : s.takes .eraseSector tx = true) (hidle : s.tracker = .idle)
    (hkind : s.cfg.kindAt (txnAddress tx / 4096) = some .staging) (hl : s.cfg.logicalOf (txnAddress tx) = l)
    (hslot : s.slotOf l = some (i, k)) (hst : (s.slotAt i).state = .filling) {c : Chunk} (hc : s.chunkAt i k = some c)
    {d : Decision} (hd : s.eraseDecision l = d) :
    ∃ t, t = ((s.eraseTaken e i k tx d).acceptErase tx (stagingOp tx l d) (some d) false).resettle ∧
      exec (.eraseSector tx e false) s = .next t ∧ (t.slotAt i).state = .filling ∧ t.ChunkFree i k ∧
      t.store.offers = s.store.offers ++ d.records s ∧
      (s.eraseGoes e d →
        t.chunkAt i k = some { state := .empty, mask := 0, origin := .written, queued := false, hostErased := true }) ∧
      (¬ s.eraseGoes e d →
        t.chunkAt i k = some { c with state := .stale, mask := 0, queued := false, hostErased := true }) := by
  have hlog : d.logical = l := hd ▸ s.eraseDecision_logical l
  have hx := exec_stagingErase htake hidle hkind hl hslot (State.judgeErase_filling hst (State.chunkAt_ne_zero hc)) e false
  rw [hd] at hx
  obtain ⟨hfree, hchunk, hfill, hstore⟩ := State.takeSector_filling (s := s.heard e) hst hc
  have heng : ((s.heard e).takeSector i k).SameEngine (s.eraseTaken e i k tx d) := State.takeDecision_sameEngine ..
  have hfree' := heng.chunkFree hfree
  have hchunk' := (State.chunkAt_of_slots heng.slots i k).trans hchunk
  have hfill' : ((s.eraseTaken e i k tx d).slotAt i).state = .filling := by
    rw [State.slotAt, heng.slots]
    exact hfill
  have hslot' : (s.eraseTaken e i k tx d).slotOf d.logical = some (i, k) := by
    rw [show s.eraseTaken e i k tx d = _ from State.eraseTaken_ownersOnly d, hlog]
    exact hslot
  refine ⟨_, rfl, hx, ?_⟩
  have hoff : ((s.eraseTaken e i k tx d).acceptErase tx (stagingOp tx l d) (some d) false).resettle.store.offers =
      s.store.offers ++ d.records s := by
    rw [(State.accepted_store (.inl rfl) rfl).1, State.eraseTaken_offers, hstore]
    rfl
  by_cases hg : s.eraseGoes e d
  · obtain ⟨hce, hfe⟩ := State.eraseChunk_erased hslot' hfill' hchunk'
    rw [State.eraseTaken_sent hg] at hoff ⊢
    generalize hv : ({ (s.eraseTaken e i k tx d).stagingSent _ _ d with slots := _ } : State) = v at hoff ⊢
    have hslots : v.slots = ((s.eraseTaken e i k tx d).eraseChunk d.logical Chunk.erased).slots := by rw [← hv]
    have hsettled := State.resettle_chunkFree (s := v) (i := i) (k := k)
      (hv ▸ ⟨hfree'.queue, hfree'.aside, hfree'.job⟩) ((State.chunkAt_of_slots hslots i k).trans hce) nofun
    refine ⟨(v.resettle_marksOnly.state_eq i).trans ?_, hsettled.1, hoff, fun _ => hsettled.2, fun h => absurd hg h⟩
    rw [State.slotAt, hslots]
    exact hfe
  · rw [State.eraseTaken_held hg] at hoff ⊢
    generalize hv : ({ s.eraseTaken e i k tx d with tracker := _ } : State) = v at hoff ⊢
    have hslots : v.slots = (s.eraseTaken e i k tx d).slots := by rw [← hv]
    have hsettled := State.resettle_chunkFree (s := v) (i := i) (k := k)
      (hv ▸ ⟨hfree'.queue, hfree'.aside, hfree'.job⟩) ((State.chunkAt_of_slots hslots i k).trans hchunk') nofun
    refine ⟨(v.resettle_marksOnly.state_eq i).trans ?_, hsettled.1, hoff, fun h => absurd h hg, fun _ => hsettled.2⟩
    rw [State.slotAt, hslots]
    exact hfill'

/-! ### The header of a HEADER or REJECTED slot (R70) -/

/-- R70, R130: whether the journal holds a REJECTED slot as anything but EMPTY. -/
def SlotRec.carried (r : SlotRec) : Bool := r.state == .rejected && r.journaled != .empty

/-- What an emptied slot offers to the journal. -/
def SlotRec.emptyOffers (r : SlotRec) (i : Nat) : List Offer :=
  if r.carried then [{ payload := .slot i { state := .empty, decayed := false, summary := none }, owner := .nobody }]
  else []

theorem State.lt_length_of_state (h : (s.slotAt i).state ≠ .empty) : i < s.slots.length := by
  by_contra hi
  rw [State.slotAt_of_length_le (Nat.le_of_not_lt hi)] at h
  exact h rfl

/-- R145: an offered slot's state is what the journal will hold. -/
theorem State.offerSlot_slotAt (o : Owner) (hi : i < s.slots.length) :
    (s.offerSlot o i).slotAt i = { s.slotAt i with journaled := (s.slotAt i).state } := by
  rw [State.offerSlot, State.slotAt_updSlot, if_pos ⟨rfl, hi⟩]
  rfl

theorem State.offerSlot_offers (o : Owner) :
    (s.offerSlot o i).store.offers =
      s.store.offers ++ [{ payload := .slot i ((s.slotAt i).image (s.slotAt i).state), owner := o }] :=
  s.offer_offers o _

/-- R70: the slot is emptied at the take; a HEADER slot's manifest job is dropped, and a REJECTED slot that the journal
carries offers its SLOT record. -/
theorem State.takeSector_header (hst : (s.slotAt i).state = .header ∨ (s.slotAt i).state = .rejected) :
    (s.takeSector i 0).slotAt i =
      { SlotRec.blank with journaled := if (s.slotAt i).carried then .empty else (s.slotAt i).journaled } ∧
    ((s.slotAt i).state = .header → (s.takeSector i 0).ManifestFree i) ∧
    (s.takeSector i 0).store.offers = s.store.offers ++ (s.slotAt i).emptyOffers i := by
  have hi : i < s.slots.length := State.lt_length_of_state (by rcases hst with h | h <;> rw [h] <;> decide)
  have hemptied (u : State) (hu : u.slots = s.slots) (f : SlotRec → SlotRec) :
      (u.updSlot i f).slotAt i = f (s.slotAt i) := by
    rw [State.slotAt_updSlot, if_pos ⟨rfl, hu ▸ hi⟩, State.slotAt, hu, State.slotAt]
  rw [State.takeSector, if_pos rfl, State.takeHeaderErase]
  rcases hst with h | h
  · have hc : (s.slotAt i).carried = false := by simp [SlotRec.carried, h]
    have hfree := s.dropManifest_manifestFree i
    simp only [h, SlotRec.emptyOffers, hc, Bool.false_eq_true, if_false, List.append_nil]
    exact ⟨hemptied (s.dropManifest i) rfl _, fun _ => ⟨hfree.listed, hfree.job⟩, rfl⟩
  · simp only [h]
    refine ⟨?_, nofun, ?_⟩
    · split
      · next hj => simp [hemptied, SlotRec.carried, h, hj]
      · next hj =>
        rw [State.offerSlot_slotAt _ ((s.slots_length_updSlot ..).symm ▸ hi), hemptied s rfl]
        simp [SlotRec.carried, h, hj, SlotRec.blank]
    · split
      · next hj => simp [SlotRec.emptyOffers, SlotRec.carried, h, hj]
      · next hj =>
        rw [State.offerSlot_offers, hemptied s rfl]
        simp [SlotRec.emptyOffers, SlotRec.carried, h, hj, SlotRec.image, SlotRec.blank]

theorem stagingErase_of_header (htake : s.takes .eraseSector tx = true) (hidle : s.tracker = .idle)
    (hkind : s.cfg.kindAt (txnAddress tx / 4096) = some .staging) (hl : s.cfg.logicalOf (txnAddress tx) = l)
    (hslot : s.slotOf l = some (i, 0)) (hst : (s.slotAt i).state = .header ∨ (s.slotAt i).state = .rejected)
    {d : Decision} (hd : s.eraseDecision l = d) :
    ∃ t, t = ((s.eraseTaken e i 0 tx d).acceptErase tx (stagingOp tx l d) (some d) false).resettle ∧
      exec (.eraseSector tx e false) s = .next t ∧
      t.slotAt i =
        { SlotRec.blank with journaled := if (s.slotAt i).carried then .empty else (s.slotAt i).journaled } ∧
      ((s.slotAt i).state = .header → t.ManifestFree i) ∧
      t.store.offers = s.store.offers ++ (s.slotAt i).emptyOffers i ++ d.records s := by
  have hlog : d.logical = l := hd ▸ s.eraseDecision_logical l
  have hx := exec_stagingErase htake hidle hkind hl hslot (State.judgeErase_header hst) e false
  rw [hd] at hx
  obtain ⟨hempty, hfree, hstore⟩ := State.takeSector_header (s := s.heard e) hst
  have heng : ((s.heard e).takeSector i 0).SameEngine (s.eraseTaken e i 0 tx d) := State.takeDecision_sameEngine ..
  have hempty' : (s.eraseTaken e i 0 tx d).slotAt i =
      { SlotRec.blank with journaled := if (s.slotAt i).carried then .empty else (s.slotAt i).journaled } := by
    rw [State.slotAt, heng.slots]
    exact hempty
  refine ⟨_, rfl, hx, ?_⟩
  have hoff : ((s.eraseTaken e i 0 tx d).acceptErase tx (stagingOp tx l d) (some d) false).resettle.store.offers =
      s.store.offers ++ (s.slotAt i).emptyOffers i ++ d.records s := by
    rw [(State.accepted_store (.inl rfl) rfl).1, State.eraseTaken_offers, hstore]
    rfl
  have hsame : (s.eraseTaken e i 0 tx d).SameEngine
      ((s.eraseTaken e i 0 tx d).acceptErase tx (stagingOp tx l d) (some d) false) := by
    by_cases hg : s.eraseGoes e d
    · have hslot' : (s.eraseTaken e i 0 tx d).slotOf d.logical = some (i, 0) := by
        rw [show s.eraseTaken e i 0 tx d = _ from State.eraseTaken_ownersOnly d, hlog]
        exact hslot
      rw [State.eraseTaken_sent hg, State.eraseChunk_of_not_filling hslot' (by rw [hempty']; exact nofun)]
      exact ⟨rfl, rfl, rfl, rfl, rfl⟩
    · rw [State.eraseTaken_held hg]
      exact ⟨rfl, rfl, rfl, rfl, rfl⟩
  generalize (s.eraseTaken e i 0 tx d).acceptErase tx (stagingOp tx l d) (some d) false = v at hoff hsame ⊢
  have hv : v.slotAt i = (s.eraseTaken e i 0 tx d).slotAt i := by rw [State.slotAt, hsame.slots, State.slotAt]
  refine ⟨?_, fun hh => State.resettle_manifestFree ?_, hoff⟩
  · rw [v.resettle_marksOnly.slotAt_eq i (by rw [hv, hempty']; exact nofun), hv, hempty']
  · have hf := hfree hh
    have hall := heng.trans hsame
    exact ⟨hall.manifests ▸ hf.listed, hall.job ▸ hf.job⟩

/-! ### An EMPTY slot and a decision that names no record (R54, R56) -/

/-- R104: eligibility looks at the slots and at a program in flight. -/
theorem State.eligibleChunks_congr {t : State} (h : t.slots = s.slots) (hs : ∀ i c, s.programming i c = false)
    (ht : ∀ i c, t.programming i c = false) : t.eligibleChunks = s.eligibleChunks := by
  simp only [State.eligibleChunks, h, hs, ht]

theorem State.programming_of_not_program (h : ∀ op, s.tracker ≠ .programInFlight op) (i c : Nat) :
    s.programming i c = false := by
  unfold State.programming
  split
  · next op ht => exact absurd ht (h op)
  · rfl

/-- The part at the take of an erase of an EMPTY slot's sector that names no record: an empty pool is logged. -/
def State.emptyTaken (s : State) (e : Nat) (d : Decision) (entry : LogEntry) : State :=
  { (if d.case = .degrade then s.appendLog entry else s) with
    hostOut := [], memOut := [], clock := s.clock + e, echo := false }

theorem State.eraseTaken_empty (hst : (s.slotAt i).state = .empty) {d : Decision} (hn : d.namesRecord = false)
    {entry : LogEntry} (he : entry = { s.decisionEntry d (txnAddress tx) .poolEmpty with seq := s.nextLogSeq }) :
    s.eraseTaken e i k tx d = s.emptyTaken e d entry := by
  obtain ⟨hm, hw⟩ := Decision.namesRecord_eq_false.1 hn
  have hsame : (s.heard e).takeSector i k = s.heard e := State.takeSector_empty hst
  rw [State.eraseTaken, hsame, State.takeDecision, hw, State.emptyTaken, he]
  cases hc : d.case with
  | retire => simp [Decision.moves, hc] at hm
  | swap => simp [Decision.moves, hc] at hm
  | degrade => rfl
  | inPlace => rfl

theorem State.emptyTaken_sent (txn : MemTxn) (op : OpRecord) (d : Decision) (entry : LogEntry) :
    (s.emptyTaken e d entry).stagingSent txn op d = { s.emptyTaken e d entry with
      memOut := [txn], pendingWD := false, tracker := .eraseInFlight op
      flash := s.flash.startOp (eraseRange op.cls (s.cfg.physicalAddr d.target (op.address % 4096)))
      guard := (if s.guard.length < s.cfg.settings.egMax then s.guard else s.guard.drop 1) ++ [s.clock + e]
      health :=
        healthStore d.target { s.healthOf d.target with wear := min ((s.healthOf d.target).wear + 1) 65534 } s.health
      clean := insertNat d.logical s.clean } := by
  unfold State.emptyTaken
  split <;> rfl

theorem State.emptyTaken_leaves (d : Decision) (entry : LogEntry) :
    (s.emptyTaken e d entry).cfg = s.cfg ∧ (s.emptyTaken e d entry).slots = s.slots ∧
    (s.emptyTaken e d entry).job = s.job ∧
    (s.emptyTaken e d entry).guardUsed (s.emptyTaken e d entry).clock = s.guardUsed (s.clock + e) ∧
    (s.emptyTaken e d entry).stagingHold d = (s.heard e).stagingHold d ∧
    (∀ l, (s.emptyTaken e d entry).slotOf l = s.slotOf l) := by
  unfold State.emptyTaken
  split <;> exact ⟨rfl, rfl, rfl, rfl, rfl, fun _ => rfl⟩

/-- With a busy engine and nothing to sweep, the end of a take changes nothing. -/
theorem State.resettle_quiet {v : State} (hidle : s.tracker = .idle) (hjob : s.job.isSome = true)
    (hel : s.eligibleChunks = []) (hs : v.slots = s.slots) (hj : v.job = s.job)
    (ht : ∀ op, v.tracker ≠ .programInFlight op) : v.resettle = v := by
  refine v.resettle_busy (hj ▸ hjob) ?_
  rw [State.eligibleChunks_congr hs (State.programming_of_not_program fun op => hidle ▸ nofun)
    (State.programming_of_not_program ht)]
  exact hel

theorem stagingErase_of_empty_plain (htake : s.takes .eraseSector tx = true) (hidle : s.tracker = .idle)
    (hkind : s.cfg.kindAt (txnAddress tx / 4096) = some .staging) (hl : s.cfg.logicalOf (txnAddress tx) = l)
    (hslot : s.slotOf l = some (i, k)) (hst : (s.slotAt i).state = .empty) {d : Decision} (hd : s.eraseDecision l = d)
    (hn : d.namesRecord = false) (hjob : s.job.isSome = true) (hel : s.eligibleChunks = []) {entry : LogEntry}
    (he : entry = { s.decisionEntry d (txnAddress tx) .poolEmpty with seq := s.nextLogSeq }) :
    (s.guardUsed (s.clock + e) < s.cfg.settings.egMax →
      exec (.eraseSector tx e false) s = .next ((s.emptyTaken e d entry).stagingSent
        (eraseTxn tx (s.cfg.physicalAddr d.target (txnAddress tx % 4096)) false) (stagingOp tx l d) d) ∧
      exec (.eraseSector tx e true) s = .next { s.emptyTaken e d entry with
        memOut := [eraseTxn tx (s.cfg.physicalAddr d.target (txnAddress tx % 4096)) true]
        tracker := .eraseHeld (stagingOp tx l d) ((s.heard e).stagingHold d) }) ∧
    (s.cfg.settings.egMax ≤ s.guardUsed (s.clock + e) → ∀ cut,
      exec (.eraseSector tx e cut) s = .next { s.emptyTaken e d entry with
        tracker := .eraseHeld (stagingOp tx l d) ((s.heard e).stagingHold d) }) := by
  have hlog : d.logical = l := hd ▸ s.eraseDecision_logical l
  have hx (cut : Bool) := exec_stagingErase htake hidle hkind hl hslot (State.judgeErase_empty hst) e cut
  simp only [hd, State.eraseTaken_empty hst hn he] at hx
  obtain ⟨hcfg, hslots, hjob', hused, hhold, hslotOf⟩ := State.emptyTaken_leaves (s := s) (e := e) d entry
  have hmem : (s.emptyTaken e d entry).memOut = [] := rfl
  generalize s.emptyTaken e d entry = u at hx hcfg hslots hjob' hused hhold hslotOf hmem ⊢
  have hstate : (u.slotAt i).state ≠ .filling := by
    rw [State.slotAt, hslots, ← State.slotAt, hst]
    exact nofun
  refine ⟨fun hu => ?_, fun hu cut => ?_⟩
  · have hu' : u.guardUsed u.clock < u.cfg.settings.egMax := by rw [hused, hcfg]; exact hu
    have hsent : u.acceptErase tx (stagingOp tx l d) (some d) false =
        u.stagingSent (eraseTxn tx (s.cfg.physicalAddr d.target (txnAddress tx % 4096)) false) (stagingOp tx l d) d := by
      rw [State.acceptErase_sent hn hu', State.eraseChunk_of_not_filling (hslotOf _ ▸ hlog ▸ hslot) hstate, hcfg]
      rfl
    have hcut : u.acceptErase tx (stagingOp tx l d) (some d) true = { u with
        memOut := [eraseTxn tx (s.cfg.physicalAddr d.target (txnAddress tx % 4096)) true]
        tracker := .eraseHeld (stagingOp tx l d) ((s.heard e).stagingHold d) } := by
      rw [State.acceptErase_cut hn hu', hhold, hmem, hcfg]
      rfl
    rw [hx, hx, hsent, hcut]
    exact ⟨congrArg _ (State.resettle_quiet hidle hjob hel hslots hjob' nofun),
      congrArg _ (State.resettle_quiet hidle hjob hel hslots hjob' nofun)⟩
  · have hno : ¬ (d.namesRecord = false ∧ u.guardUsed u.clock < u.cfg.settings.egMax) := by
      rw [hused, hcfg]
      exact fun h => absurd h.2 (Nat.not_lt.2 hu)
    rw [hx, State.acceptErase_held hno, hhold]
    exact congrArg _ (State.resettle_quiet hidle hjob hel hslots hjob' nofun)

end

/-- Settles O24, by the state of the slot. -/
theorem stagingErase : Obligations.StagingErase := by
  intro tx e s i k htake hidle hkind hslot a l p d now op used guard txn started goes hold logged records
  have hd : s.eraseDecision l = d := rfl
  have hlog : d.logical = l := s.eraseDecision_logical l
  have hsrc : d.source = p := s.eraseDecision_source l
  have htarget (hn : d.namesRecord = false) : d.target = p :=
    State.eraseDecision_target (Decision.namesRecord_eq_false.1 hn).1
  have hrec : d.records s = records :=
    calc
      d.records s = { d with logical := l, source := p }.records s := by rw [← hlog, ← hsrc]
      _ = records := rfl
  have hentry (kind : LogKind) : logged kind = { s.decisionEntry d a kind with seq := s.nextLogSeq } := by
    rw [State.decisionEntry, hlog, hsrc, State.atSector, hslot]
    rfl
  refine ⟨?_, fun hst hn cut => ?_, fun c hst hc => ?_, fun hk0 hst => ?_⟩
  · intro hst hn hjob hel taken
    obtain ⟨hsent, hheld⟩ := stagingErase_of_empty_plain (e := e) htake hidle hkind rfl hslot hst hd hn hjob hel
      (hentry .poolEmpty)
    refine ⟨fun hu => ?_, fun hu cut => hheld hu cut⟩
    obtain ⟨h1, h2⟩ := hsent hu
    rw [h1, h2, State.emptyTaken_sent, hlog, htarget hn]
    exact ⟨rfl, rfl⟩
  · rw [hentry, hentry, ← hrec]
    exact stagingErase_of_empty_record htake hidle hkind rfl hslot hst hd hn
  · obtain ⟨t, ht, hx, hfill, hfree, hoff, hgo, hstop⟩ :=
      stagingErase_of_filling (e := e) htake hidle hkind rfl hslot hst hc hd
    obtain ⟨hma, hpo, hta⟩ := State.accepted_map ht
    refine ⟨t, hx, hfill, hfree.queue, hfree.job, hma, hpo, hta, hrec ▸ hoff, fun hg => ?_, fun hg => ?_⟩
    · obtain ⟨htr, hmem, hfl, hgu, hcl, -⟩ := State.sent_leaves hg ht
      rw [htarget hg.1] at hmem hfl
      exact ⟨htr, hmem, hfl, hgu, hlog ▸ hcl, hgo hg⟩
    · obtain ⟨htr, hmem, hfl, hgu, hcl, hhe, -⟩ := State.held_leaves hg ht
      exact ⟨htr, hmem, hfl, hgu, hcl, hhe, hstop hg⟩
  · subst hk0
    obtain ⟨t, ht, hx, hempty, hfree, hoff⟩ := stagingErase_of_header (e := e) htake hidle hkind rfl hslot hst hd
    obtain ⟨hma, hpo, hta⟩ := State.accepted_map ht
    refine ⟨t, hx, hempty, fun hh => ⟨(hfree hh).listed, (hfree hh).job⟩, hrec ▸ hoff, hma, hpo, hta, fun hg => ?_,
      fun hg => ?_⟩
    · obtain ⟨htr, hmem, hfl, hgu, hcl, -⟩ := State.sent_leaves hg ht
      rw [htarget hg.1] at hmem hfl
      exact ⟨htr, hmem, hfl, hgu, hlog ▸ hcl⟩
    · obtain ⟨htr, hmem, hfl, hgu, hcl, hhe, -⟩ := State.held_leaves hg ht
      exact ⟨htr, hmem, hfl, hgu, hcl, hhe⟩

end Sys2Proof.Machine
end

section
/-! Bytes of a page image (R168, R170): the words of a page, and the image that a program of a whole page leaves. -/

namespace Sys2Proof.Machine

open Sys2Proof

/-! ### Words and their bytes -/

@[simp] theorem bytesOfWord_length (w : Word) : (bytesOfWord w).length = 4 := rfl

theorem wordOfBytes_bytesOfWord (w : Word) :
    wordOfBytes (w.extractLsb' 0 8) (w.extractLsb' 8 8) (w.extractLsb' 16 8) (w.extractLsb' 24 8) = w := by
  refine BitVec.eq_of_getLsbD_eq fun i hi => ?_
  simp only [wordOfBytes, BitVec.getLsbD_append, BitVec.getLsbD_extractLsb']
  grind

/-- Entry `m` of block `n` of a list made of blocks of one length. -/
theorem getElem?_flatMap_block {α β : Type} {f : α → List β} {c : Nat} (hf : ∀ x, (f x).length = c) (l : List α)
    (n : Nat) {m : Nat} (hm : m < c) : (l.flatMap f)[c * n + m]? = l[n]?.bind fun x => (f x)[m]? := by
  induction l generalizing n with
  | nil => rfl
  | cons x l ih =>
    rw [List.flatMap_cons]
    cases n with
    | zero => rw [List.getElem?_append_left (by rw [hf]; omega)]; simp
    | succ n =>
      rw [List.getElem?_append_right (by rw [hf, Nat.mul_succ]; omega), hf,
        show c * (n + 1) + m - c = c * n + m by rw [Nat.mul_succ]; omega, ih]
      rfl

/-! ### Pages -/

theorem getElem?_padPage (bs : List Byte) {o : Nat} (h : o < 256) : (padPage bs)[o]? = some (bs.getD o 0xFF#8) := by
  unfold padPage
  by_cases hb : o < bs.length
  · rw [List.getElem?_append_left hb]
    simp [hb]
  · rw [List.getElem?_append_right (by omega), List.getElem?_replicate, if_pos (by omega)]
    simp [Nat.le_of_not_lt hb]

theorem padPage_length {bs : List Byte} (h : bs.length ≤ 256) : (padPage bs).length = 256 := by
  simp [padPage, h]

/-- Past its bytes a page reads FFh. -/
theorem getD_padPage (bs : List Byte) (o : Nat) : (padPage bs).getD o 0xFF#8 = bs.getD o 0xFF#8 := by
  unfold padPage
  by_cases hb : o < bs.length
  · simp [hb, List.getElem?_append_left hb]
  · simp [Nat.le_of_not_lt hb, List.getElem?_append_right (Nat.le_of_not_lt hb), List.getElem?_replicate]
    split <;> rfl

/-- Word `n` of a page is word `n` of the words it is made of. -/
theorem wordAt_pageOfWords {ws : List Word} {n : Nat} {w : Word} (h : ws[n]? = some w) :
    wordAt (pageOfWords ws) (4 * n) = w := by
  have hbyte (m : Nat) (hm : m < 4) : (pageOfWords ws).getD (4 * n + m) 0xFF#8 = (bytesOfWord w).getD m 0xFF#8 := by
    rw [pageOfWords, getD_padPage, List.getD_eq_getElem?_getD, getElem?_flatMap_block bytesOfWord_length ws n hm, h]
    rfl
  have h0 := hbyte 0 (by decide)
  rw [wordAt, ← Nat.add_zero (4 * n)]
  simp only [Nat.add_zero] at h0 ⊢
  rw [h0, hbyte 1 (by decide), hbyte 2 (by decide), hbyte 3 (by decide)]
  exact wordOfBytes_bytesOfWord w

/-! ### A program of a whole page (R1, R170) -/

/-- What programming a list of bytes from offset `k` of page 0 leaves at offset `o`. -/
theorem lookupAt_program_from (l : List Byte) (k : Nat) (m : List (Nat × Byte)) (h : k + l.length ≤ 256) (o : Nat) :
    lookupAt o ((l.zipIdx k).foldl (fun m d => putAt (0 / 256 * 256 + (0 + d.2) % 256) (some d.1) m) m) =
      if k ≤ o ∧ o < k + l.length then l[o - k]? else lookupAt o m := by
  induction l generalizing k m with
  | nil => simp
  | cons x l ih =>
    rw [List.length_cons] at h ⊢
    rw [List.zipIdx_cons, List.foldl_cons, ih _ _ (by omega)]
    have hk : 0 / 256 * 256 + (0 + k) % 256 = k := by omega
    simp only [hk]
    by_cases ho : o = k
    · subst ho
      rw [if_neg (by omega), if_pos (by omega), lookupAt_putAt_some]
      simp
    · rw [lookupAt_putAt_ne ho]
      refine if_ctx_congr (by omega) (fun hlt => ?_) fun _ => rfl
      rw [show o - k = (o - (k + 1)) + 1 by omega, List.getElem?_cons_succ]

/-- R170: a program of 256 bytes from the first byte of a page leaves them as the page image. -/
theorem requestImage_of_page {a : Nat} {data : List Byte} (ha : a % 256 = 0) (hd : data.length = 256) :
    requestImage a data = data := by
  have hsent (o : Nat) : lookupAt o (programBytes 0 data) = data[o]? := by
    refine (lookupAt_program_from data 0 [] (by omega) o).trans ?_
    split
    · rfl
    · next h => exact (List.getElem?_eq_none (by omega)).symm
  refine List.ext_getElem? fun o => ?_
  simp only [requestImage, ha, hsent, List.getElem?_map]
  by_cases ho : o < 256
  · simp [ho, hd]
  · rw [List.getElem?_eq_none (l := data) (by omega)]
    simp [Nat.le_of_not_lt ho]

/-! ### The image of a request record (R89, R171, 11.7) -/

section
variable (n code a1 a2 a3 a4 : Word)

theorem recordImage_length : (recordImage n code a1 a2 a3 a4).length = 256 :=
  padPage_length (by simp)

/-- The words of a record's image are the record's, and its check. -/
theorem wordAt_recordImage {k : Nat} {w : Word}
    (h : [requestMagic, n, code, a1, a2, a3, a4, checkWord [requestMagic, n, code, a1, a2, a3, a4]][k]? = some w) :
    wordAt (recordImage n code a1 a2 a3 a4) (4 * k) = w := wordAt_pageOfWords h

theorem recordGood_recordImage : recordGood (recordImage n code a1 a2 a3 a4) = true := by
  have hw (k : Nat) (w : Word) := wordAt_recordImage n code a1 a2 a3 a4 (k := k) (w := w)
  have hwords : ((List.range 7).map fun k => wordAt (recordImage n code a1 a2 a3 a4) (4 * k)) =
      [requestMagic, n, code, a1, a2, a3, a4] := by
    simp only [List.range, List.range.loop, List.map_cons, List.map_nil]
    rw [hw 0 _ rfl, hw 1 _ rfl, hw 2 _ rfl, hw 3 _ rfl, hw 4 _ rfl, hw 5 _ rfl, hw 6 _ rfl]
  rw [recordGood, hwords, show wordAt (recordImage n code a1 a2 a3 a4) 0 = _ from hw 0 _ rfl,
    show wordAt (recordImage n code a1 a2 a3 a4) 28 = _ from hw 7 _ rfl]
  simp

theorem imageRule_recordImage :
    imageRule (recordImage n code a1 a2 a3 a4) = requestRule code a1 a2 a3 a4 := by
  have hw (k : Nat) (w : Word) := wordAt_recordImage n code a1 a2 a3 a4 (k := k) (w := w)
  rw [imageRule, show wordAt (recordImage n code a1 a2 a3 a4) 8 = _ from hw 2 _ rfl,
    show wordAt (recordImage n code a1 a2 a3 a4) 12 = _ from hw 3 _ rfl,
    show wordAt (recordImage n code a1 a2 a3 a4) 16 = _ from hw 4 _ rfl,
    show wordAt (recordImage n code a1 a2 a3 a4) 20 = _ from hw 5 _ rfl,
    show wordAt (recordImage n code a1 a2 a3 a4) 24 = _ from hw 6 _ rfl]

variable {n code a1 a2 a3 a4}

/-- R171, case 4: a good record of a code is judged by the code's rule. -/
theorem State.judgeRecord_recordImage {act : State → State} (s : State)
    (h : requestRule code a1 a2 a3 a4 = some act) :
    s.judgeRecord (recordImage n code a1 a2 a3 a4) =
      s.takeRequest (recordImage n code a1 a2 a3 a4) n code act := by
  have hw (k : Nat) (w : Word) := wordAt_recordImage n code a1 a2 a3 a4 (k := k) (w := w)
  rw [State.judgeRecord, show wordAt (recordImage n code a1 a2 a3 a4) 4 = _ from hw 1 _ rfl,
    show wordAt (recordImage n code a1 a2 a3 a4) 8 = _ from hw 2 _ rfl, if_pos (recordGood_recordImage ..),
    imageRule_recordImage, h]

end

end Sys2Proof.Machine
end

section
/-! A PROGRAM to the request page (R39, R170, R171): its record has the effect of its code's row (O40), and nothing of it
reaches the flash. -/

namespace Sys2Proof.Machine

open Sys2Proof

/-! ### Steps that send nothing to the flash -/

/-- From `s` to `t` nothing goes out on the memory side, and the flash stays. -/
structure State.Silent (s t : State) : Prop where
  memOut : s.memOut = [] → t.memOut = []
  flash : t.flash = s.flash

theorem State.Silent.of_eq {s t : State} (h : t.memOut = s.memOut) (g : t.flash = s.flash) : s.Silent t := ⟨h.trans, g⟩

theorem State.Silent.refl (s : State) : s.Silent s := .of_eq rfl rfl

theorem State.Silent.trans {s t u : State} (h : s.Silent t) (g : t.Silent u) : s.Silent u :=
  ⟨g.memOut ∘ h.memOut, g.flash.trans h.flash⟩

theorem State.Silent.foldl {α : Type} {f : State → α → State} (hf : ∀ (u : State) (x : α), u.Silent (f u x)) (l : List α)
    (s : State) : s.Silent (l.foldl f s) :=
  List.foldlRecOn l f (.refl s) fun u hu x _ => hu.trans (hf u x)

/-- A step that sends nothing in either branch of a test sends nothing. -/
theorem State.Silent.ite {s t u : State} {c : Prop} [Decidable c] (h : s.Silent t) (g : s.Silent u) :
    s.Silent (if c then t else u) := by
  split
  · exact h
  · exact g

section
variable (s : State)

/-! ### The basic updates -/

theorem State.updSlot_silent (i : Nat) (f : SlotRec → SlotRec) : s.Silent (s.updSlot i f) := .of_eq rfl rfl
theorem State.updDyn_silent (t : Nat) (f : TargetDyn → TargetDyn) : s.Silent (s.updDyn t f) := .of_eq rfl rfl
theorem State.appendLog_silent (e : LogEntry) : s.Silent (s.appendLog e) := .of_eq rfl rfl
theorem State.offer_silent (o : Owner) (p : Payload) : s.Silent (s.offer o p) := .of_eq rfl rfl
theorem State.dropManifest_silent (i : Nat) : s.Silent (s.dropManifest i) := .of_eq rfl rfl
theorem State.dropSlotJobs_silent (i : Nat) : s.Silent (s.dropSlotJobs i) := .of_eq rfl rfl
theorem State.resettle_silent : s.Silent s.resettle := .of_eq s.resettle_memOut s.resettle_flash
theorem State.writeRow_silent (w : RowWrite) : s.Silent (s.writeRow w) := .of_eq rfl rfl
theorem State.refuseRequest_silent (r : ReqReason) : s.Silent (s.refuseRequest r) := .of_eq rfl rfl
theorem State.requestDone_silent : s.Silent s.requestDone := .of_eq rfl rfl
theorem State.requestPending_silent : s.Silent s.requestPending := .of_eq rfl rfl

theorem State.requestAwaits_silent : s.Silent s.requestAwaits := .ite s.requestPending_silent s.requestDone_silent

theorem State.offerSlot_silent (o : Owner) (i : Nat) : s.Silent (s.offerSlot o i) :=
  .trans (s.offer_silent ..) (State.updSlot_silent ..)

theorem State.offerTarget_silent (o : Owner) (t : Nat) : s.Silent (s.offerTarget o t) := s.offer_silent ..

theorem State.offerInOrder_silent (o : Owner) (slots targets : List Nat) : s.Silent (s.offerInOrder o slots targets) :=
  ((State.Silent.foldl (fun u i => u.offerSlot_silent o i) _ _).trans
    (.foldl (fun u t => u.offerTarget_silent o t) _ _)).trans (.foldl (fun u i => u.offerSlot_silent o i) _ _)

theorem State.restartSecondPass_silent (f : Nat → Bool) : s.Silent (s.restartSecondPass f) := by
  unfold State.restartSecondPass
  split
  · exact .ite (.of_eq rfl rfl) (.refl s)
  · exact .refl s

theorem State.putKeyRow_silent (r : KeyRow) : s.Silent (s.putKeyRow r) := .of_eq rfl rfl

/-! ### The rules of the codes (11.7) -/

theorem State.reqActivate_silent (a : Word) : s.Silent (s.reqActivate a) := by
  unfold State.reqActivate
  extract_lets i r t
  refine .ite (s.refuseRequest_silent _) (.ite (s.refuseRequest_silent _) (.ite (s.refuseRequest_silent _) ?_))
  split
  · exact ((((s.updSlot_silent ..).trans (State.updDyn_silent ..)).trans (State.appendLog_silent ..)).trans
      ((State.offerTarget_silent ..).trans (State.offerSlot_silent ..))).trans (State.requestPending_silent _)
  · exact s.refuseRequest_silent _

theorem State.confirmDrops_silent (i : Nat) : s.Silent (s.confirmDrops i) :=
  ((s.dropSlotJobs_silent i).trans (State.dropManifest_silent ..)).trans (State.updSlot_silent ..)

theorem State.confirmRoles_silent (i t floor : Nat) : s.Silent (s.confirmRoles i t floor) := by
  unfold State.confirmRoles
  extract_lets d s1 s2
  have h1 : s.Silent s1 := by
    unfold s1
    split
    · exact .refl s
    · exact .ite (s.updSlot_silent ..) ((s.updSlot_silent ..).trans (State.confirmDrops_silent ..))
  have h2 : s1.Silent s2 := by
    unfold s2
    split
    · exact .refl s1
    · exact s1.updSlot_silent ..
  exact (h1.trans h2).trans ((State.updSlot_silent ..).trans (State.updDyn_silent ..))

theorem State.confirmLog_silent (before : State) (i : Nat) : s.Silent (s.confirmLog before i) := by
  unfold State.confirmLog
  split
  · exact s.appendLog_silent _
  · exact s.appendLog_silent _
  · exact .refl s

theorem State.outdate_silent (floor j : Nat) : s.Silent (s.outdate floor j) :=
  (s.confirmDrops_silent j).trans (State.updSlot_silent ..)

theorem State.reqConfirm_silent (a : Word) : s.Silent (s.reqConfirm a) := by
  unfold State.reqConfirm
  extract_lets i r t floor below s1 changed _ s2 s3
  refine .ite (s.refuseRequest_silent _) (.ite (s.refuseRequest_silent _) (.ite (s.refuseRequest_silent _) ?_))
  have h1 : s.Silent s1 := (s.confirmRoles_silent ..).trans (.foldl (fun u j => u.outdate_silent floor j) _ _)
  have h3 : s1.Silent s3 := (s1.appendLog_silent _).trans (.foldl (fun u j => u.confirmLog_silent s j) changed s2)
  exact ((h1.trans h3).trans (s3.offerInOrder_silent ..)).trans
    ((State.requestPending_silent _).trans (State.resettle_silent _))

theorem State.reqAbandon_silent (a : Word) : s.Silent (s.reqAbandon a) := by
  unfold State.reqAbandon
  extract_lets i r t
  exact .ite (s.refuseRequest_silent _) (.ite (s.refuseRequest_silent _)
    (((((s.updSlot_silent ..).trans (State.updDyn_silent ..)).trans (State.appendLog_silent ..)).trans
      ((State.offerTarget_silent ..).trans (State.offerSlot_silent ..))).trans (State.requestPending_silent _)))

theorem State.emptySlot_silent (i : Nat) : s.Silent (s.emptySlot i) := by
  have h : s.Silent (((s.dropManifest i).dropSlotJobs i).updSlot i
      fun r => { SlotRec.blank with journaled := r.journaled }) :=
    ((s.dropManifest_silent i).trans (State.dropSlotJobs_silent ..)).trans (State.updSlot_silent ..)
  exact .ite (h.trans (State.updDyn_silent ..)) h

theorem State.reqDiscard_silent (a : Word) : s.Silent (s.reqDiscard a) := by
  unfold State.reqDiscard
  extract_lets i r s1 s2 s3
  refine .ite (s.refuseRequest_silent _) (.ite (s.refuseRequest_silent _) (.ite s.requestDone_silent ?_))
  have h1 : s.Silent s1 := s.emptySlot_silent i
  have h2 : s1.Silent s2 := .ite (.refl s1) (s1.offerSlot_silent ..)
  have h3 : s2.Silent s3 := .ite (s2.offerTarget_silent ..) (.refl s2)
  exact ((h1.trans h2).trans h3).trans (s3.requestAwaits_silent.trans (State.resettle_silent _))

theorem State.reqClearStaging_silent : s.Silent s.reqClearStaging := by
  unfold State.reqClearStaging
  extract_lets ids targets s1
  have h1 : s.Silent s1 := .foldl (fun u i => u.emptySlot_silent i) _ _
  exact (h1.trans (s1.offerInOrder_silent ..)).trans
    ((State.requestAwaits_silent _).trans (State.resettle_silent _))

theorem State.reqSetSlotCode_silent (a : Word) : s.Silent (s.reqSetSlotCode a) := by
  have hcode : s.Silent (s.changeSlotCode a.toNat) := .of_eq rfl rfl
  exact .ite (s.refuseRequest_silent _) (.ite (s.refuseRequest_silent _) (.ite (s.refuseRequest_silent _)
    ((hcode.trans (State.offer_silent ..)).trans (State.requestPending_silent _))))

theorem State.reqLogFree_silent (a : Word) : s.Silent (s.reqLogFree a) :=
  .ite (s.refuseRequest_silent _) (.ite (s.refuseRequest_silent _) (.of_eq rfl rfl))

theorem State.reqAckAlert_silent : s.Silent s.reqAckAlert := by
  have h : s.Silent (if s.cfg.settings.alertMode = .onAck then { s with alertPending := false } else s) :=
    .ite (.of_eq rfl rfl) (.refl s)
  exact h.trans (State.requestDone_silent _)

/-- R182: a part reset starts with nothing sent, and does not reach the flash. -/
theorem State.reqReload_silent : s.Silent s.reqReload := ⟨fun _ => rfl, rfl⟩

theorem State.reqKeyWrite_silent (a v : Word) : s.Silent (s.reqKeyWrite a v) :=
  .ite (s.refuseRequest_silent _) (.ite (s.refuseRequest_silent _) (.ite (s.refuseRequest_silent _)
    ((s.putKeyRow_silent _).trans (State.restartSecondPass_silent _ _))))

theorem State.reqKeyRevoke_silent (a : Word) : s.Silent (s.reqKeyRevoke a) := by
  unfold State.reqKeyRevoke
  extract_lets k
  refine .ite (s.refuseRequest_silent _) ?_
  split
  · exact (s.putKeyRow_silent _).trans (State.restartSecondPass_silent _ _)
  · exact s.refuseRequest_silent _

theorem State.reqTargetWrite_silent (target c f : Word) : s.Silent (s.reqTargetWrite target c f) := by
  unfold State.reqTargetWrite
  extract_lets t old new
  have h : s.Silent { s with statics := s.statics.set t new } := .of_eq rfl rfl
  exact .ite (s.refuseRequest_silent _) (.ite (s.refuseRequest_silent _) (.ite (s.refuseRequest_silent _)
    (.ite (s.refuseRequest_silent _) ((h.trans (State.writeRow_silent ..)).trans (State.requestPending_silent _)))))

theorem State.reqConfigWrite_silent (i n v : Word) : s.Silent (s.reqConfigWrite i n v) := by
  unfold State.reqConfigWrite
  split
  · exact s.refuseRequest_silent _
  · have h : s.Silent { s with configChanged := true } := .of_eq rfl rfl
    exact .ite (s.refuseRequest_silent _) ((h.trans (State.writeRow_silent ..)).trans (State.requestPending_silent _))

theorem State.reqLock_silent : s.Silent s.reqLock := .ite s.requestDone_silent (s.putKeyRow_silent _)

theorem State.reqFactoryClear_silent : s.Silent s.reqFactoryClear := by
  unfold State.reqFactoryClear
  extract_lets s1 s2
  have h1 : s.Silent s1 := .of_eq rfl rfl
  exact (h1.trans (s1.putKeyRow_silent _)).trans
    ((State.Silent.foldl (fun u t => u.offerTarget_silent .request t) _ s2).trans (State.restartSecondPass_silent _ _))

theorem requestRule_silent {code a1 a2 a3 a4 : Word} {act : State → State}
    (h : requestRule code a1 a2 a3 a4 = some act) : s.Silent (act s) := by
  unfold requestRule at h
  split at h <;> cases h
  · exact s.reqActivate_silent a1
  · exact s.reqConfirm_silent a1
  · exact s.reqAbandon_silent a1
  · exact s.reqDiscard_silent a1
  · exact s.reqClearStaging_silent
  · exact s.reqSetSlotCode_silent a1
  · exact s.reqLogFree_silent a1
  · exact s.reqAckAlert_silent
  · exact s.reqReload_silent
  · exact s.reqKeyWrite_silent a1 a2
  · exact s.reqKeyRevoke_silent a1
  · exact s.reqTargetWrite_silent a1 a2 a4
  · exact s.reqConfigWrite_silent a1 a2 a3
  · exact s.reqLock_silent
  · exact s.reqFactoryClear_silent

theorem State.takeRequest_silent {image : List Byte} {serial code : Word} {act : State → State}
    (h : ∀ u : State, u.Silent (act u)) : s.Silent (s.takeRequest image serial code act) :=
  .ite (.of_eq rfl rfl)
    (.trans (t := { s with reqPage := image, lastSerial := some serial, lastCode := some code }) (.of_eq rfl rfl) (h _))

/-- R39: whatever its record, a request sends nothing to the flash. -/
theorem State.judgeRecord_silent (image : List Byte) : s.Silent (s.judgeRecord image) := by
  refine s.takeRequest_silent fun u => ?_
  split
  · cases h : imageRule image with
    | none => exact u.refuseRequest_silent _
    | some act => exact requestRule_silent u h
  · exact u.refuseRequest_silent _

end

/-! ### The program (R39, R170) -/

section
variable {s : State} {tx : HostTxn}

theorem exec_program_of_request (htake : s.takes .program tx = true) (hd : tx.data ≠ []) (hidle : s.tracker = .idle)
    (ha : txnAddress tx = s.cfg.startOf .control * 4096 + 512)
    (hkind : s.cfg.kindAt (txnAddress tx / 4096) = some .control) :
    exec (.program tx) s = .next ((s.heard 0).judgeRecord (requestImage (txnAddress tx) tx.data)) := by
  have hkind' : (s.heard 0).cfg.kindAt (txnAddress tx / 4096) = some .control := hkind
  have hpage : (s.heard 0).inRequestPage (txnAddress tx) = true := by
    have : (txnAddress tx - s.cfg.startOf .control * 4096) / 256 = 2 := by omega
    exact decide_eq_true this
  rw [exec_program_of_idle htake hd hidle, State.idleProgram, hkind']
  exact congrArg _ (if_pos hpage)

/-- A program of a record's image is the row of its code, taken (log entry 12). -/
theorem exec_program_of_record {n code a1 a2 a3 a4 : Word} {act : State → State} (htake : s.takes .program tx = true)
    (hidle : s.tracker = .idle) (ha : txnAddress tx = s.cfg.startOf .control * 4096 + 512)
    (hkind : s.cfg.kindAt (txnAddress tx / 4096) = some .control) (hd : tx.data = recordImage n code a1 a2 a3 a4)
    (hact : requestRule code a1 a2 a3 a4 = some act) :
    exec (.program tx) s = .next (s.begin.request n code a1 a2 a3 a4 act) := by
  have hlen : tx.data.length = 256 := hd ▸ recordImage_length ..
  have hmay : s.begin.mayRequest = true := by
    obtain ⟨hphase, hopen, hdriven, -⟩ := (s.takes_iff .program tx 0).1 htake
    simp [State.mayRequest, State.accepts, hphase, hopen, hdriven, hidle]
  rw [exec_program_of_request htake (List.ne_nil_of_length_pos (by omega)) hidle ha hkind,
    requestImage_of_page (by omega) hlen, hd, State.judgeRecord_recordImage _ hact, State.request, if_pos hmay]
  rfl

end

/-- Settles O40: the program is the taking of the record, which for a record of a code is the code's row. -/
theorem programIsRequest : Obligations.ProgramIsRequest := by
  intro tx n a b c s htake hidle ha hkind sent
  have hrow {code a1 a2 a3 a4 : Word} {act : State → State} (hact : requestRule code a1 a2 a3 a4 = some act)
      (hd : tx.data = recordImage n code a1 a2 a3 a4) :=
    exec_program_of_record htake hidle ha hkind hd hact
  refine ⟨?_, hrow rfl, hrow rfl, hrow rfl, hrow rfl, hrow rfl, hrow rfl, hrow rfl, hrow rfl, hrow rfl, hrow rfl,
    hrow rfl, hrow rfl, hrow rfl, hrow rfl, hrow rfl⟩
  by_cases hd : tx.data = []
  · exact ⟨s.begin, by simp [exec, execProgram, hd], rfl, rfl⟩
  · have h := (s.heard 0).judgeRecord_silent (requestImage (txnAddress tx) tx.data)
    exact ⟨_, exec_program_of_request htake hd hidle ha hkind, h.memOut rfl, h.flash⟩

end Sys2Proof.Machine
end

section
/-! READs (2.2 to 2.6): where each byte comes from, and what a READ at the host's own addresses and of one byte of the control
window returns. -/

namespace Sys2Proof.Machine

open Sys2Proof

/-! ### The take of a READ (R7, R28) -/

section
variable {s : State} {tx : HostTxn} {len a : Nat}

theorem exec_read (h : s.takes .read tx len = true) : exec (.read tx len []) s = .next (s.begin.readRuns tx len) := by
  show execRead tx len [] s = _
  rw [execRead, if_pos h]
  rfl

/-- R28: a READ from beyond the capacity. -/
theorem State.readRuns_beyond (h : s.cfg.bytes ≤ txnAddress tx) :
    s.readRuns tx len = { s with hostOut := List.replicate len 0xFF#8 } := if_pos h

theorem State.readRuns_host (h : txnAddress tx < s.cfg.bytes) (hs : s.sourceAt (txnAddress tx) = .host) :
    s.readRuns tx len =
      { (s.send (forwardTxn tx (some (txnAddress tx)) 0)).serve tx len 0 (txnAddress tx) (some 0) with
        freeCount := s.freeCount + 1 } := by
  refine (if_neg (Nat.not_le.2 h)).trans ?_
  rw [hs]
  rfl

theorem State.readRuns_part (h : txnAddress tx < s.cfg.bytes) (hs : s.sourceAt (txnAddress tx) = .part) :
    s.readRuns tx len = { s.serve tx len 0 (txnAddress tx) none with freeCount := s.freeCount + 1 } := by
  refine (if_neg (Nat.not_le.2 h)).trans ?_
  rw [hs]
  rfl

/-- R28: a sector that an entry covers lies within the capacity. -/
theorem State.lt_bytes_of_kindAt {k : RegionKind} (h : s.cfg.kindAt (a / 4096) = some k) : a < s.cfg.bytes := by
  unfold InForce.kindAt at h
  split at h
  · next hlt => unfold InForce.bytes; omega
  · cases h

end

/-! ### A run at the host's own addresses (R29 to R31) -/

theorem bumpLast_append (l : List MemTxn) (t : MemTxn) :
    bumpLast (l ++ [t]) = l ++ [{ t with readLen := t.readLen + 1 }] := by
  induction l with
  | nil => rfl
  | cons x l ih =>
    cases l with
    | nil => rfl
    | cons y l => exact congrArg (x :: ·) ih

/-- A run goes on while its bytes, followed over the end of the flash, have the host's own address as their source. -/
theorem State.serve_host (tx : HostTxn) (n i a : Nat) {s : State} {m : List MemTxn} {t : MemTxn}
    (hf : s.flash.op = none) (hm : s.memOut = m ++ [t]) (hs : ∀ k, k < n → s.sourceAt (s.nextAddr^[k] a) = .host) :
    s.serve tx n i a (some 0) = { s with
      hostOut := s.hostOut ++ (List.range n).map fun k => cellAt s.flash.cells (s.nextAddr^[k] a)
      memOut := m ++ [{ t with readLen := t.readLen + n }] } := by
  induction n generalizing i a s t with
  | zero => simp [State.serve, ← hm]
  | succ n ih =>
    have hsrc : s.sourceAt a = .host := hs 0 n.succ_pos
    have hbyte : s.flashByte i a = cellAt s.flash.cells a := by simp [State.flashByte, hf]
    have hone : s.serve tx (n + 1) i a (some 0) = State.serve tx n (i + 1) (s.nextAddr a) (some 0)
        { s with hostOut := s.hostOut ++ [cellAt s.flash.cells a], memOut := bumpLast s.memOut } := by
      rw [State.serve, hsrc, ← hbyte]
      rfl
    rw [hone, hm, bumpLast_append]
    refine (ih (i + 1) (s.nextAddr a)
      (s := { s with hostOut := s.hostOut ++ [cellAt s.flash.cells a], memOut := _ }) hf rfl
      fun k hk => hs (k + 1) (Nat.succ_lt_succ hk)).trans ?_
    rw [List.range_succ_eq_map, List.map_cons, List.map_map, Nat.add_right_comm, Nat.add_assoc t.readLen n 1]
    simp only [List.append_assoc]
    rfl

/-- A READ whose bytes all come from the host's own addresses is one run. -/
theorem exec_read_host {s : State} {tx : HostTxn} {len : Nat} (h : s.takes .read tx len = true) (hf : s.flash.op = none)
    (ha : txnAddress tx < s.cfg.bytes) (hpos : 0 < len)
    (hs : ∀ k, k < len → s.sourceAt (s.nextAddr^[k] (txnAddress tx)) = .host) :
    exec (.read tx len []) s = .next { s with
      hostOut := (List.range len).map fun k => cellAt s.flash.cells (s.nextAddr^[k] (txnAddress tx))
      memOut := [forwardTxn tx (some (txnAddress tx)) len]
      freeCount := s.freeCount + 1 } := by
  have hserve := State.serve_host tx len 0 (txnAddress tx)
    (s := s.begin.send (forwardTxn tx (some (txnAddress tx)) 0)) (m := []) hf rfl hs
  rw [exec_read h, State.readRuns_host (s := s.begin) ha (hs 0 hpos), hserve]
  simp only [forwardTxn, Nat.zero_add]
  rfl

/-- Addresses below the end of the flash go up by one (R28). -/
theorem State.nextAddr_iterate (s : State) {a k : Nat} (h : a + k < s.cfg.bytes) : s.nextAddr^[k] a = a + k := by
  induction k with
  | zero => rfl
  | succ k ih =>
    rw [Function.iterate_succ_apply', ih (by omega), State.nextAddr, if_neg (by omega), Nat.add_assoc]

/-- Settles O13: the bytes follow one another below the end of the flash, so the READ is one run. -/
theorem readOwnAddress : Obligations.ReadOwnAddress := by
  intro tx len s h hf hpos hend hs
  have haddr (k : Nat) (hk : k < len) : s.nextAddr^[k] (txnAddress tx) = txnAddress tx + k :=
    s.nextAddr_iterate (by omega)
  have hbytes : ((List.range len).map fun k => cellAt s.flash.cells (s.nextAddr^[k] (txnAddress tx))) =
      (List.range len).map fun k => cellAt s.flash.cells (txnAddress tx + k) :=
    List.map_congr_left fun k hk => by rw [haddr k (List.mem_range.1 hk)]
  rw [exec_read_host h hf (by omega) hpos fun k hk => (congrArg s.sourceAt (haddr k hk)).trans (hs k hk), hbytes]

/-! ### The source of a byte (R30 to R38) -/

section
variable {s : State} {a : Nat}

theorem SlotState.readable_iff (st : SlotState) :
    st.readable = true ↔ st = .sealed ∨ st = .trial ∨ st = .active ∨ st = .fallback := by
  cases st <;> decide

theorem SlotState.bootable_iff (st : SlotState) :
    st.bootable = true ↔ st ≠ .empty ∧ st ≠ .header ∧ st ≠ .filling ∧ st ≠ .rejected := by
  cases st <;> decide

theorem State.sourceAt_of_host (h : s.cfg.kindAt (a / 4096) = none ∨ s.cfg.kindAt (a / 4096) = some .liveOpen ∨
    s.cfg.kindAt (a / 4096) = some .liveProtected) : s.sourceAt a = .host := by
  rcases h with h | h | h <;> simp only [State.sourceAt, h]

theorem State.sourceAt_of_control (h : s.cfg.kindAt (a / 4096) = some .control) : s.sourceAt a = .part := by
  simp only [State.sourceAt, h]

theorem State.sourceAt_of_staging (h : s.cfg.kindAt (a / 4096) = some .staging) :
    s.sourceAt a = s.stagingSource a := by
  simp only [State.sourceAt, h]

theorem State.sourceAt_of_bootWindow (h : s.cfg.kindAt (a / 4096) = some .bootWindow) :
    s.sourceAt a = s.bootSource a := by
  simp only [State.sourceAt, h]

/-- R34: a header sector, and the body of a readable slot, come from the flash at the translated address. -/
theorem State.stagingSource_eq (s : State) (a : Nat) {l : Nat} (hl : s.cfg.logicalOf a = l) :
    s.stagingSource a =
      if s.slotCount * s.slotSize ≤ l then .part
      else if l % s.slotSize = 0 ∨ (s.slotAt (l / s.slotSize)).state.readable = true then
        .translated (s.translate l (a % 4096))
      else .part := by
  rw [State.stagingSource, hl]
  by_cases h : l < s.slotCount * s.slotSize
  · rw [State.slotOf, if_pos h, if_neg (Nat.not_le.2 h)]
  · rw [State.slotOf, if_neg h, if_pos (Nat.le_of_not_lt h)]

/-- R36: the image of the booted slot, and the part where there is none. -/
theorem State.bootSource_of_booted {b : Nat} (hb : s.bootedSlot = some b) {o : Nat}
    (ho : a - s.cfg.startOf .bootWindow * 4096 = o) :
    s.bootSource a =
      if b < s.slotCount ∧ (s.slotAt b).state.bootable = true ∧ ∃ m, (s.slotAt b).summary = some m ∧ o < m.imageLen then
        .translated (s.translate (b * s.slotSize + 1 + o / 4096) (o % 4096))
      else .part := by
  have himage : o < ((s.slotAt b).summary.map Summary.imageLen).getD 0 ↔
      ∃ m, (s.slotAt b).summary = some m ∧ o < m.imageLen := by
    cases (s.slotAt b).summary <;> simp
  rw [State.bootSource, ho, hb]
  simp only [himage, State.logicalSector, Nat.add_assoc]

end

/-- Settles O14: the source by the kind of the entry, and the two ends of the capacity. -/
theorem sourceOfByte : Obligations.SourceOfByte := by
  refine ⟨fun s a _ => ⟨State.sourceAt_of_host, State.sourceAt_of_control, fun hk => ?_, fun hk => ⟨fun hn => ?_, fun b hb => ?_⟩⟩,
    fun tx len s h hb => ?_, fun tx s h hf hend hs h0 => ?_⟩
  · rw [State.sourceAt_of_staging hk, s.stagingSource_eq a rfl]
    simp only [SlotState.readable_iff]
    rfl
  · rw [State.sourceAt_of_bootWindow hk, State.bootSource, hn]
  · intro r served l
    rw [State.sourceAt_of_bootWindow hk, State.bootSource_of_booted hb rfl]
    simp only [SlotState.bootable_iff, and_assoc]
    exact ⟨fun h => if_pos h, fun h => if_neg h⟩
  · rw [exec_read h, State.readRuns_beyond (s := s.begin) hb]
    rfl
  · have hnext : s.nextAddr (txnAddress tx) = 0 := if_pos hend
    have hall (k : Nat) (hk : k < 2) : s.sourceAt (s.nextAddr^[k] (txnAddress tx)) = .host := by
      obtain rfl | rfl : k = 0 ∨ k = 1 := by omega
      · exact hs
      · exact (congrArg s.sourceAt hnext).trans h0
    rw [exec_read_host h hf (by omega) (by decide) hall]
    simp [List.range, List.range.loop, hnext]

end Sys2Proof.Machine
end

section
/-! The control window (2.6, 11.2 to 11.7): a byte of the request page and of a report page, and the words of the report
pages. -/

namespace Sys2Proof.Machine

open Sys2Proof

/-! ### One byte of the window (R38, R168, R169) -/

section
variable {s : State} {o p : Nat}

theorem State.windowByte_request (h : o / 256 = 2) : s.windowByte o = (s.requestByte (o % 256), s) := if_pos h

theorem State.windowByte_report {page : List Byte} (hp : o / 256 = p) (h2 : p ≠ 2) (hpage : s.reportPage p = some page) :
    s.windowByte o =
      ((((lookupAt p (s.touchPage p (o % 256) page).snapshots).getD []).getD (o % 256) 0xFF#8),
        s.touchPage p (o % 256) page) := by
  subst hp
  refine (if_neg h2).trans ?_
  rw [hpage]

/-- R157: the bytes that tell a key value are not read back. -/
theorem State.requestByte_of_hidden (h : s.lastCode = some 10 ∧ (s.lastOutcome = .pending ∨ s.lastOutcome = .done))
    (ho : (16 ≤ o ∧ o < 20) ∨ (28 ≤ o ∧ o < 32)) : s.requestByte o = 0xFF#8 := by
  have hk : s.keyInPage = true := by simpa [State.keyInPage] using h
  have ht : tellsKey o = true := by simpa [tellsKey] using ho
  simp [State.requestByte, hk, ht]

theorem State.requestByte_of_shown (h : ¬ ((s.lastCode = some 10 ∧ (s.lastOutcome = .pending ∨ s.lastOutcome = .done)) ∧
    ((16 ≤ o ∧ o < 20) ∨ (28 ≤ o ∧ o < 32)))) : s.requestByte o = s.reqPage.getD o 0xFF#8 := by
  refine if_neg fun hk => h ?_
  simpa [State.keyInPage, tellsKey] using hk

/-- R169: past its byte 0 a page with a snapshot is served from it. -/
theorem State.touchPage_old {page old : List Byte} (ho : o ≠ 0) (h : lookupAt p s.snapshots = some old) :
    s.touchPage p o page = s := by
  simp [State.touchPage, ho, h]

/-- R169, R177: a fresh snapshot, and the alert's release at byte 0 of log page 0. -/
theorem State.touchPage_fresh {page : List Byte} (h : o = 0 ∨ lookupAt p s.snapshots = none) :
    s.touchPage p o page = { s with
      snapshots := putAt p (some page) s.snapshots
      alertPending := s.alertPending && !decide (p = 3 ∧ o = 0 ∧ s.cfg.settings.alertMode = .onRead) } := by
  have hs : o = 0 ∨ (lookupAt p s.snapshots).isNone = true := by simpa using h
  rw [State.touchPage, if_pos hs]
  by_cases ha : p = logPage0No ∧ o = 0 ∧ s.cfg.settings.alertMode = .onRead
  · have ha' : p = 3 ∧ o = 0 ∧ s.cfg.settings.alertMode = .onRead := ha
    rw [if_pos ha, decide_eq_true ha', Bool.not_true, Bool.and_false]
  · have ha' : ¬ (p = 3 ∧ o = 0 ∧ s.cfg.settings.alertMode = .onRead) := ha
    rw [if_neg ha, decide_eq_false ha', Bool.not_false, Bool.and_true]

end

/-- A READ of one byte of the window is served that byte, and sends nothing to the flash (R38). -/
theorem exec_read_window {s t : State} {tx : HostTxn} {b : Byte} (h : s.takes .read tx 1 = true)
    (hk : s.cfg.kindAt (txnAddress tx / 4096) = some .control)
    (hb : s.begin.windowByte (txnAddress tx - s.cfg.startOf .control * 4096) = (b, t)) :
    exec (.read tx 1 []) s = .next { t with hostOut := t.hostOut ++ [b], freeCount := s.freeCount + 1 } := by
  have hsrc : s.begin.sourceAt (txnAddress tx) = .part := State.sourceAt_of_control (s := s.begin) hk
  have hpart : s.begin.partByte (txnAddress tx) = (b, t) := (if_pos hk).trans hb
  have hserve : s.begin.serve tx 1 0 (txnAddress tx) none = { t with hostOut := t.hostOut ++ [b] } := by
    rw [State.serve, hsrc, State.serve]
    simp only [hpart]
  rw [exec_read h, State.readRuns_part (s := s.begin) (State.lt_bytes_of_kindAt hk) hsrc, hserve]
  rfl

/-! ### What lies at a window page (R168) -/

section
variable (s : State)

theorem State.reportPage_log {j : Nat} (h : j < 4) : s.reportPage (3 + j) = some (s.logPage j) := by
  rw [State.reportPage, if_neg (by omega), if_neg (by omega), if_pos (by omega), Nat.add_sub_cancel_left]

theorem State.reportPage_slot {i : Nat} (hi : i < s.slotCount) (h : i < 16) :
    s.reportPage (16 + i) = some (slotPage i (s.slotAt i)) := by
  rw [State.reportPage, if_neg (by omega), if_neg (by omega), if_neg (by omega), if_pos (by omega),
    Nat.add_sub_cancel_left, if_pos hi]

theorem State.reportPage_target {u : Nat} (h : u < 16) :
    s.reportPage (32 + u) = some (targetPage u (s.staticAt u) (s.dynAt u)) := by
  rw [State.reportPage, if_neg (by omega), if_neg (by omega), if_neg (by omega), if_neg (by omega), if_pos (by omega),
    Nat.add_sub_cancel_left]

theorem State.reportPage_chunks {i k : Nat} (hi : i < s.slotCount) (h : i < 16) (hk : k < 4) :
    s.reportPage (48 + 4 * i + k) = some (chunkStatePage k (s.slotAt i)) := by
  have hslot : (48 + 4 * i + k - 48) / 4 = i := by omega
  have hpage : (48 + 4 * i + k - 48) % 4 = k := by omega
  rw [State.reportPage, if_neg (by omega), if_neg (by omega), if_neg (by omega), if_neg (by omega), if_neg (by omega),
    if_pos (by omega), hslot, hpage, if_pos hi]

end

/-! ### What the pages show (R174, R178 to R180, 11.7) -/

/-- A page made of words shows them. -/
theorem wordAt_of_words {page : List Byte} {ws : List Word} (h : page = pageOfWords ws) (n : Nat) (hn : n < ws.length) :
    wordAt page (4 * n) = ws.getD n 0 := by
  rw [h, wordAt_pageOfWords (List.getElem?_eq_getElem hn)]
  simp [hn]

/-- R168, R179: byte `b` of chunk-state page `k` is the code of chunk 256 k + b + 1, and FFh where there is none. -/
theorem getD_chunkStatePage (r : SlotRec) (k : Nat) {b : Nat} (hb : b < 256) (d : Byte) :
    (chunkStatePage k r).getD b d =
      ((r.chunkAt (256 * k + b + 1)).map fun c => BitVec.ofNat 8 c.state.code).getD 0xFF#8 := by
  rw [chunkStatePage, List.getD_eq_getElem?_getD, getElem?_padPage _ hb, List.getD_eq_getElem?_getD, List.getElem?_map,
    List.getElem?_take_of_lt hb, List.getElem?_drop, SlotRec.chunkAt, if_neg (by omega), Nat.add_sub_cancel]
  rfl

theorem LogEntry.words_length (e : LogEntry) : e.words.length = 4 := rfl

/-- R174: entry `n` of log page `j` takes four words. -/
theorem wordAt_logPage {s : State} {j n m : Nat} {e : LogEntry} {w : Word} (hn : n < 16)
    (he : s.log[16 * j + n]? = some e) (hm : m < 4) (hw : e.words[m]? = some w) :
    wordAt (s.logPage j) (16 * n + 4 * m) = w := by
  rw [show 16 * n + 4 * m = 4 * (4 * n + m) by omega]
  refine wordAt_pageOfWords ?_
  rw [getElem?_flatMap_block LogEntry.words_length _ n hm, List.getElem?_take_of_lt hn, List.getElem?_drop, he]
  exact hw

/-- Settles O15: the byte served by the page it lies in, and the pages by what they are made of. -/
theorem readRequestPage : Obligations.ReadRequestPage := by
  refine ⟨fun tx o s h ho ha hk => ?_, fun tx p o page s h ho ha hk h2 hpage => ?_, fun s e => ⟨rfl, rfl⟩, fun s => ?_⟩
  · have hpage : (txnAddress tx - s.cfg.startOf .control * 4096) / 256 = 2 := by omega
    have hoff : (txnAddress tx - s.cfg.startOf .control * 4096) % 256 = o := by omega
    have hread := exec_read_window h hk (State.windowByte_request hpage)
    rw [hoff] at hread
    intro keyHeld hidden
    refine ⟨fun hs => ?_, fun hh => ?_⟩
    · rw [hread, State.requestByte_of_shown (s := s.begin) hs]
      rfl
    · rw [hread, State.requestByte_of_hidden (s := s.begin) hh.1 hh.2]
      rfl
  · have hp : (txnAddress tx - s.cfg.startOf .control * 4096) / 256 = p := by omega
    have hoff : (txnAddress tx - s.cfg.startOf .control * 4096) % 256 = o := by omega
    have hread := exec_read_window h hk (State.windowByte_report hp h2 (s := s.begin) hpage)
    rw [hoff] at hread
    refine ⟨fun old ho hold => ?_, fun hf => ?_⟩
    · rw [hread, State.touchPage_old (s := s.begin) ho hold, show s.begin.snapshots = s.snapshots from rfl, hold]
      rfl
    · rw [hread, State.touchPage_fresh (s := s.begin) hf, lookupAt_putAt_some]
      rfl
  · intro none32 num opt flag shows
    refine ⟨⟨_, rfl, wordAt_of_words (congrArg pageOfWords ?_)⟩, fun i hi h => ?_, fun u hu => ?_,
      fun i k b page hi h hk hb hpage => ?_, fun j n page e hj hn hpage he => ?_⟩
    · -- The words that the table spells out: 6 and 7, 12 and 13, and 16; the others are as the page writes them.
      iterate 6 refine congrArg₂ List.cons rfl ?_
      refine congrArg₂ List.cons ?_ (congrArg₂ List.cons ?_ ?_)
      · cases s.lastOutcome <;> rfl
      · rcases s.lastReason with _ | r
        · rfl
        · cases r <;> rfl
      iterate 4 refine congrArg₂ List.cons rfl ?_
      refine congrArg₂ List.cons ?_ (congrArg₂ List.cons ?_ ?_)
      · rcases s.store.current with _ | _ | _ <;> rfl
      · simp [Store.freeCount, halfPositions, num, natWord]
      iterate 2 refine congrArg₂ List.cons rfl ?_
      refine congrArg₂ List.cons ?_ rfl
      cases s.tracker <;> rfl
    · refine ⟨_, s.reportPage_slot hi h, wordAt_of_words (congrArg pageOfWords ?_)⟩
      iterate 12 refine congrArg₂ List.cons rfl ?_
      refine congrArg₂ List.cons ?_ rfl
      split <;> rfl
    · exact ⟨_, s.reportPage_target hu, wordAt_of_words rfl⟩
    · obtain rfl := Option.some.inj ((s.reportPage_chunks hi h hk).symm.trans hpage)
      rw [getD_chunkStatePage _ _ hb, State.chunkAt]
      rcases (s.slotAt i).chunkAt (256 * k + b + 1) with _ | c
      · rfl
      · obtain ⟨st, -⟩ := c
        cases st <;> rfl
    · obtain rfl := Option.some.inj ((s.reportPage_log hj).symm.trans hpage)
      exact ⟨wordAt_logPage (m := 0) hn he (by decide) rfl, wordAt_logPage (m := 1) hn he (by decide) rfl,
        wordAt_logPage (m := 2) hn he (by decide) rfl, wordAt_logPage (m := 3) hn he (by decide) rfl⟩

end Sys2Proof.Machine
end

section
/-! Programs into a header sector (4.2): how a staging program is judged, what an accepted header page leaves, and the capture
of page 0. -/

namespace Sys2Proof.Machine

open Sys2Proof

/-- Two changes of one entry of a list agree where they agree on the entry. -/
theorem modify_congr_of_getElem? {α : Type} {l : List α} {i : Nat} {f g : α → α} (h : ∀ x, l[i]? = some x → f x = g x) :
    l.modify i f = l.modify i g := by
  refine List.ext_getElem? fun j => ?_
  rw [List.getElem?_modify, List.getElem?_modify]
  by_cases hj : i = j
  · subst hj
    cases hx : l[i]? with
    | none => rfl
    | some x => simp [h x hx]
  · simp [hj]

/-! ### The judgement of a staging program (R43) -/

section
variable {s : State} {tx : HostTxn} {i k : Nat}

theorem State.idleProgram_of_staging {a : Nat} (h : s.cfg.kindAt (a / 4096) = some .staging) :
    s.idleProgram tx a = s.stagingProgram tx a := by
  simp only [State.idleProgram, h]

theorem State.slotOfAddress_of_staging {a : Nat} (h : s.cfg.kindAt (a / 4096) = some .staging)
    (hslot : s.slotOf (s.cfg.logicalOf a) = some (i, k)) : s.slotOfAddress a = some i := by
  simp [State.slotOfAddress, h, hslot]

/-- The part after the take of an accepted program of a page of sector `k` of slot `i`, before its capture (R33, R35). -/
def State.programTaken (s : State) (tx : HostTxn) (i k : Nat) : State :=
  let a := txnAddress tx
  let l := s.cfg.logicalOf a
  { ((s.takeProgram i k (pageOf a)).sendProgram tx (s.translate l (a % 4096))).clearClean l with
    tracker := .programInFlight
      { cls := .program, opcode := tx.opcode, address := a, region := .staging, sectors := some (l, s.physical l) } }

theorem State.stagingProgram_of_accepted (hslot : s.slotOf (s.cfg.logicalOf (txnAddress tx)) = some (i, k))
    (hj : s.judgeProgram i k (s.cfg.logicalOf (txnAddress tx)) (pageOf (txnAddress tx)) = none) :
    s.stagingProgram tx (txnAddress tx) = if k = 0 ∧ pageOf (txnAddress tx) = 0 then
      (s.programTaken tx i k).capture i (txnAddress tx) tx.data else s.programTaken tx i k := by
  simp only [State.stagingProgram, hslot, hj]
  rfl

/-- R12: a staging program that is not accepted. -/
theorem exec_program_of_refused {r : Reason} (htake : s.takes .program tx = true) (hd : tx.data ≠ [])
    (hidle : s.tracker = .idle) (hkind : s.cfg.kindAt (txnAddress tx / 4096) = some .staging)
    (hslot : s.slotOf (s.cfg.logicalOf (txnAddress tx)) = some (i, k))
    (hr : s.judgeProgram i k (s.cfg.logicalOf (txnAddress tx)) (pageOf (txnAddress tx)) = some r) :
    exec (.program tx) s = .next ({ s with hostOut := [], memOut := [], echo := true, pendingWD := true }.appendLog
      { seq := 0, kind := .writeRefused, reason := some r, slot := some i, target := none, chunk := none,
        value := some tx.opcode.toNat, address := some (txnAddress tx) }) := by
  have hslot' : (s.heard 0).slotOf ((s.heard 0).cfg.logicalOf (txnAddress tx)) = some (i, k) := hslot
  have hr' : (s.heard 0).judgeProgram i k ((s.heard 0).cfg.logicalOf (txnAddress tx)) (pageOf (txnAddress tx)) =
    some r := hr
  have href : (s.heard 0).stagingProgram tx (txnAddress tx) =
      (s.heard 0).refuseWrite r tx.opcode (some (txnAddress tx)) := by
    simp only [State.stagingProgram, hslot', hr']
  rw [exec_program_of_idle htake hd hidle, State.idleProgram_of_staging (s := s.heard 0) hkind, href,
    ← State.slotOfAddress_of_staging hkind hslot]
  rfl

/-! ### A header page (R66, R67) -/

/-- R66, R67: an EMPTY slot's header takes a page where it is clean, a HEADER slot's where it has not taken it. -/
theorem State.judgeHeaderProgram_of_takes {l page : Nat}
    (h : ((s.slotAt i).state = .empty ∧ s.isClean l = true) ∨
      ((s.slotAt i).state = .header ∧ (s.slotAt i).headerMask.getLsbD page = false)) :
    s.judgeHeaderProgram i l page = none := by
  rcases h with ⟨hst, hc⟩ | ⟨hst, hm⟩
  · simp [State.judgeHeaderProgram, hst, hc]
  · simp [State.judgeHeaderProgram, hst, hm]

theorem State.judgeHeaderProgram_slotState {l page : Nat} (he : (s.slotAt i).state ≠ .empty)
    (hh : (s.slotAt i).state ≠ .header) : s.judgeHeaderProgram i l page = some .slotState := by
  unfold State.judgeHeaderProgram
  split
  · next h => exact absurd h he
  · next h => exact absurd h hh
  all_goals rfl

/-- The part after the take of an accepted header page, before its capture: the page is forwarded at the translated address,
and joins its slot's mask. -/
def State.headerTaken (s : State) (tx : HostTxn) (i : Nat) : State :=
  let a := txnAddress tx
  let l := s.cfg.logicalOf a
  { s with
    hostOut := [], memOut := [forwardTxn tx (some (s.translate l (a % 4096))) 0], echo := false, pendingWD := false
    flash := s.flash.startOp (.program (programBytes (s.translate l (a % 4096)) tx.data))
    clean := s.clean.filter (· != l), slots := s.slots.modify i (SlotRec.takeHeaderPage (pageOf a))
    tracker := .programInFlight
      { cls := .program, opcode := tx.opcode, address := a, region := .staging, sectors := some (l, s.physical l) } }

theorem State.programTaken_header : (s.heard 0).programTaken tx i 0 = s.headerTaken tx i := by
  have htake : (s.heard 0).takeProgram i 0 (pageOf (txnAddress tx)) =
      (s.heard 0).updSlot i (SlotRec.takeHeaderPage (pageOf (txnAddress tx))) := if_pos rfl
  rw [State.programTaken, htake]
  simp only [State.updSlot, State.sendProgram, State.send, State.clearClean, State.heard, List.nil_append]
  rfl

theorem exec_program_of_header (htake : s.takes .program tx = true) (hd : tx.data ≠ []) (hidle : s.tracker = .idle)
    (hkind : s.cfg.kindAt (txnAddress tx / 4096) = some .staging)
    (hslot : s.slotOf (s.cfg.logicalOf (txnAddress tx)) = some (i, 0))
    (hj : s.judgeHeaderProgram i (s.cfg.logicalOf (txnAddress tx)) (pageOf (txnAddress tx)) = none) :
    exec (.program tx) s = .next (if pageOf (txnAddress tx) = 0 then
      (s.headerTaken tx i).capture i (txnAddress tx) tx.data else s.headerTaken tx i) := by
  rw [exec_program_of_idle htake hd hidle, State.idleProgram_of_staging (s := s.heard 0) hkind,
    State.stagingProgram_of_accepted (s := s.heard 0) hslot hj, State.programTaken_header]
  simp only [true_and]

/-- R66, R67: an accepted page makes its slot HEADER; the mask of a slot that was not HEADER starts with it. -/
theorem SlotRec.takeHeaderPage_eq (page : Nat) (r : SlotRec) :
    r.takeHeaderPage page = { r with
      state := .header
      headerMask := (if r.state = .header then r.headerMask else 0) ||| BitVec.ofNat 16 (2 ^ page)
      captured := if r.state = .header then r.captured else none } := by
  unfold SlotRec.takeHeaderPage
  split
  · next h =>
    rw [← h]
    rfl
  · next h =>
    rfl

/-! ### The capture of page 0 (R68) -/

theorem State.capture_of_good {a : Nat} {data : List Byte} (hm : (capturedWords a data).1 = manifestMagic)
    (hl : lengthInRange (capturedWords a data).2.toNat = true) :
    s.capture i a data = s.updSlot i fun r => { r with captured := some (capturedWords a data) } := if_pos ⟨hm, hl⟩

/-- R68, R77: words that are no manifest's make the slot REJECTED, with its log entry, and nothing else of the part that the
program has reached changes. -/
theorem State.capture_of_bad {a : Nat} {data : List Byte}
    (h : ¬ ((capturedWords a data).1 = manifestMagic ∧ lengthInRange (capturedWords a data).2.toNat = true))
    (hi : i < s.slots.length) {t : State} (ht : s.capture i a data = t) :
    t.slotAt i =
      { s.slotAt i with state := .rejected, reason := some .badFormat, headerMask := 0, captured := none } ∧
    t.log.getLast? = some { LogEntry.of .rejected with
      seq := s.nextLogSeq, reason := some .badFormat, slot := some i } ∧
    s.OwnersOnly t ∧ t.store = s.store := by
  subst ht
  rw [State.capture, if_neg h]
  generalize hv : (s.rejectHeader i .badFormat).appendLog
    { LogEntry.of .rejected with reason := some .badFormat, slot := some i } = v
  have hslot : v.slotAt i =
      { s.slotAt i with state := .rejected, reason := some .badFormat, headerMask := 0, captured := none } := by
    rw [← hv]
    refine (State.slotAt_updSlot (s.dropManifest i) i i _).trans ?_
    exact if_pos ⟨rfl, hi⟩
  have hlog : v.log.getLast? = some { LogEntry.of .rejected with
      seq := s.nextLogSeq, reason := some .badFormat, slot := some i } := by
    rw [← hv]
    exact State.appendLog_getLast ..
  have howners : s.OwnersOnly v := by
    rw [← hv]
    exact ((State.dropManifest_ownersOnly s i).trans (State.updSlot_ownersOnly ..)).trans (State.appendLog_ownersOnly ..)
  refine ⟨?_, v.resettle_log ▸ hlog, howners.trans (State.resettle_ownersOnly v), v.resettle_store.trans ?_⟩
  · rw [v.resettle_marksOnly.slotAt_eq i (by rw [hslot]; exact nofun), hslot]
  · rw [← hv]
    rfl

end

/-- Settles O21, by the judgement of the page and, for page 0, of its capture. -/
theorem headerProgram : Obligations.HeaderProgram := by
  intro tx s i htake hd hidle hkind hslot a l r w good op flash refused accepted takes
  have hrefused {x : Reason} (hr : s.judgeHeaderProgram i l (pageOf a) = some x) :
      exec (.program tx) s = .next (refused x) := exec_program_of_refused htake hd hidle hkind hslot hr
  have htaken (ht : takes) := exec_program_of_header htake hd hidle hkind hslot (State.judgeHeaderProgram_of_takes ht)
  have hgood : good ↔ w.1 = manifestMagic ∧ lengthInRange w.2.toNat = true := by
    simp [good, lengthInRange, manifestMagic]
  refine ⟨fun hst hc => hrefused ?_, fun hst hm => hrefused ?_, fun he hh => hrefused ?_, fun ht hg => ?_,
    fun ht h0 hg hi => ?_⟩
  · rw [State.judgeHeaderProgram, hst, hc]
    rfl
  · rw [State.judgeHeaderProgram, hst]
    exact if_pos hm
  · exact State.judgeHeaderProgram_slotState he hh
  · have htook (x : SlotRec) (hx : s.slots[i]? = some x) : x.takeHeaderPage (pageOf a) = { x with
        state := .header
        headerMask := (if r.state = .header then x.headerMask else 0) ||| BitVec.ofNat 16 (2 ^ pageOf a)
        captured := if r.state = .header then x.captured else none } := by
      have hrx : r = x := by simp [r, State.slotAt, hx]
      rw [SlotRec.takeHeaderPage_eq, hrx]
    have haccepted (f : SlotRec → SlotRec) : accepted f = { s.headerTaken tx i with slots := s.slots.modify i f } := rfl
    rw [htaken ht, haccepted]
    by_cases h0 : pageOf a = 0
    · obtain ⟨hm, hl⟩ := hgood.1 (hg.resolve_left (not_not_intro h0))
      rw [if_pos h0, State.capture_of_good hm hl]
      refine congrArg (fun l => Host.Outcome.next { s.headerTaken tx i with slots := l }) ?_
      refine (List.modify_modify_eq ..).trans (modify_congr_of_getElem? fun x hx => ?_)
      rw [Function.comp_apply, htook x hx, if_pos h0]
    · rw [if_neg h0]
      refine congrArg (fun l => Host.Outcome.next { s.headerTaken tx i with slots := l }) ?_
      refine modify_congr_of_getElem? fun x hx => ?_
      rw [htook x hx, if_neg h0]
  · rw [htaken ht, if_pos h0]
    obtain ⟨hrec, hlog, howners, hstore⟩ := State.capture_of_bad (s := s.headerTaken tx i) (i := i) (a := a)
      (data := tx.data) (mt hgood.2 hg) (by simpa [State.headerTaken] using hi) rfl
    refine ⟨_, rfl, ?_⟩
    have hclean : (s.headerTaken tx i).isClean l = false := by simp [State.isClean, State.headerTaken, l, a]
    generalize (s.headerTaken tx i).capture i a tx.data = t at hrec hlog howners hstore ⊢
    have hkept : t.tracker = .programInFlight op ∧ t.flash = flash ∧
        t.memOut = [forwardTxn tx (some (s.translate l (a % 4096))) 0] ∧ t.isClean l = false ∧ t.map = s.map ∧
        t.targets = s.targets ∧ t.echo = false := by
      rw [show t = _ from howners]
      exact ⟨rfl, rfl, rfl, hclean, rfl, rfl, rfl⟩
    obtain ⟨htr, hfl, hmem, hcl, hma, hta, hec⟩ := hkept
    rw [hrec]
    exact ⟨rfl, rfl, rfl, rfl, htr, hfl, hmem, hcl, hlog, hstore, hma, hta, hec⟩

end Sys2Proof.Machine
end

section
/-! The four cases of the erase decision (O23), and SET_SLOT_CODE (O30). -/

namespace Sys2Proof.Machine

open Sys2Proof

/-! ### The four cases of the decision (R54, R60) -/

section
variable {s : State} {l : Nat}

/-- R60: the wear record of a decision is the one that the sector it erases asks for. -/
theorem State.eraseDecision_wear (s : State) (l : Nat) :
    (s.eraseDecision l).wear = s.wearRecord (s.eraseDecision l).target := by
  unfold State.eraseDecision
  dsimp only
  split
  · split <;> rfl
  · split
    · rfl
    · split <;> rfl

theorem State.eraseDecision_retire {h : Nat} {t : List Nat} (hp : s.pool = h :: t)
    (hs : (s.healthOf (s.physical l)).suspect = true) :
    (s.eraseDecision l).case = .retire ∧ (s.eraseDecision l).target = h := by
  simp [State.eraseDecision, hp, hs]

theorem State.eraseDecision_degrade (hp : s.pool = []) (hs : (s.healthOf (s.physical l)).suspect = true) :
    (s.eraseDecision l).case = .degrade ∧ (s.eraseDecision l).target = s.physical l := by
  simp [State.eraseDecision, hp, hs]

theorem State.eraseDecision_swap {h : Nat} {t : List Nat} (hp : s.pool = h :: t)
    (hs : (s.healthOf (s.physical l)).suspect = false)
    (hw : (s.healthOf h).wear + s.cfg.settings.wearGap ≤ (s.healthOf (s.physical l)).wear) :
    (s.eraseDecision l).case = .swap ∧ (s.eraseDecision l).target = h := by
  simp [State.eraseDecision, hp, hs, hw]

theorem State.eraseDecision_inPlace (hs : (s.healthOf (s.physical l)).suspect = false)
    (hw : ∀ h t, s.pool = h :: t →
      (s.healthOf (s.physical l)).wear < (s.healthOf h).wear + s.cfg.settings.wearGap) :
    (s.eraseDecision l).case = .inPlace ∧ (s.eraseDecision l).target = s.physical l := by
  cases hp : s.pool with
  | nil => simp [State.eraseDecision, hp, hs]
  | cons h t => simp [State.eraseDecision, hp, hs, Nat.not_le.2 (hw h t hp)]

end

theorem Decision.namesRecord_iff (d : Decision) :
    d.namesRecord = true ↔ d.case = .retire ∨ d.case = .swap ∨ d.wear ≠ none := by
  simp [Decision.namesRecord, Decision.moves, Option.isSome_iff_ne_none, or_assoc]

/-- Settles O23, case by case. -/
theorem eraseDecision : Obligations.EraseDecision := by
  intro s l p d wear suspect
  exact ⟨s.eraseDecision_logical l, s.eraseDecision_source l, fun h t => State.eraseDecision_retire,
    State.eraseDecision_degrade, fun h t => State.eraseDecision_swap, State.eraseDecision_inPlace,
    s.eraseDecision_wear l, d.namesRecord_iff⟩

/-! ### SET_SLOT_CODE (R44, R45) -/

/-- R44: the states in which a slot bars a new slot code. -/
theorem any_role_iff (slots : List SlotRec) :
    (slots.any fun r => r.state == .trial || r.state == .active || r.state == .fallback) = true ↔
      ∃ r ∈ slots, r.state = .trial ∨ r.state = .active ∨ r.state = .fallback := by
  simp [or_assoc]

/-- Settles O30: the three checks in order, and the effect where none of them bars it. -/
theorem setSlotCode : Obligations.SetSlotCode := by
  intro serial code s hs base role
  have hx : exec (.setSlotCode serial code) s = .next (base.reqSetSlotCode code) :=
    congrArg _ (s.request_taken serial 6 code 0 0 0 (State.reqSetSlotCode code) hs)
  rw [hx]
  have hrole := any_role_iff base.slots
  have hfree (hr : ∀ r ∈ s.slots, ¬ role r.state) :
      ¬ (base.slots.any fun r => r.state == .trial || r.state == .active || r.state == .fallback) = true := by
    rintro h
    obtain ⟨r, hm, h⟩ := hrole.1 h
    exact hr r hm h
  refine ⟨fun h4 => ?_, fun h4 hr => ?_, fun h4 hr hb => ?_, fun h4 hr hb => ?_⟩
  · rw [State.reqSetSlotCode, if_pos h4]
    rfl
  · rw [State.reqSetSlotCode, if_neg (by omega), if_pos (hrole.2 hr)]
    rfl
  · have hb' : base.bootedSlot.isSome = true := Option.isSome_iff_ne_none.2 hb
    rw [State.reqSetSlotCode, if_neg (by omega), if_neg (hfree hr), if_pos hb']
    rfl
  · have hb' : ¬ base.bootedSlot.isSome = true := fun h => Option.isSome_iff_ne_none.1 h hb
    rw [State.reqSetSlotCode, if_neg (by omega), if_neg (hfree hr), if_neg hb']
    rfl

end Sys2Proof.Machine
end

section
/-! Programs into a body sector (6.2): the judgement of a chunk page, and what an accepted one leaves (O22). -/

namespace Sys2Proof.Machine

open Sys2Proof

section
variable {s : State} {tx : HostTxn} {i k : Nat}

/-- R43: a body sector takes no program but in a FILLING slot whose reload has ended. -/
theorem State.judgeProgram_slotState {l page : Nat} (hk : 0 < k)
    (h : (s.slotAt i).state ≠ .filling ∨ (s.slotAt i).reload = true) :
    s.judgeProgram i k l page = some .slotState := by
  rw [State.judgeProgram, if_neg (by omega), if_neg]
  rintro ⟨hf, hr⟩
  rcases h with h | h
  · exact h hf
  · rw [hr] at h
    cases h

/-- R94: the judgement of a page of a chunk is left to the slot's chunk table. -/
theorem State.judgeProgram_filling {l page : Nat} (hk : 0 < k) (hf : (s.slotAt i).state = .filling)
    (hr : (s.slotAt i).reload = false) :
    s.judgeProgram i k l page = (s.slotAt i).judgeChunkProgram k page := by
  rw [State.judgeProgram, if_neg (by omega), if_pos ⟨hf, hr⟩]

section
variable {r : SlotRec} {m : Summary} {c : Chunk} {page : Nat}

theorem SlotRec.judgeChunkProgram_of_no_chunk (h : r.chunkAt k = none) :
    r.judgeChunkProgram k page = some .outsideImage := by
  unfold SlotRec.judgeChunkProgram
  split
  · next hc => rw [h] at hc; cases hc
  · rfl

/-- R94: the checks of a chunk page, in order. -/
theorem SlotRec.judgeChunkProgram_eq (hm : r.summary = some m) (hc : r.chunkAt k = some c) :
    r.judgeChunkProgram k page =
      if m.pagesNeeded k ≤ page then some .outsideImage
      else if c.state = .stale then some .staleSector
      else if c.state = .complete ∨ c.state = .verified ∨ c.state = .mismatch ∨ c.mask.getLsbD page = true then
        some .pageWritten
      else none := by
  simp only [SlotRec.judgeChunkProgram, hm, hc]
  cases c.state <;> simp

end

/-- R95: the part after the take of an accepted page of chunk `k`: it is forwarded at the translated address, and joins the
mask of its chunk. -/
def State.chunkTaken (s : State) (tx : HostTxn) (i k needed : Nat) : State :=
  let a := txnAddress tx
  let l := s.cfg.logicalOf a
  { s with
    hostOut := [], memOut := [forwardTxn tx (some (s.translate l (a % 4096))) 0], echo := false, pendingWD := false
    flash := s.flash.startOp (.program (programBytes (s.translate l (a % 4096)) tx.data))
    clean := s.clean.filter (· != l)
    slots := s.slots.modify i (SlotRec.updChunk k (Chunk.takePage needed (pageOf a)))
    tracker := .programInFlight
      { cls := .program, opcode := tx.opcode, address := a, region := .staging, sectors := some (l, s.physical l) } }

theorem State.programTaken_chunk {m : Summary} (hk : 0 < k) (hm : (s.slotAt i).summary = some m) :
    (s.heard 0).programTaken tx i k = s.chunkTaken tx i k (m.pagesNeeded k) := by
  have hneeded : (((s.heard 0).slotAt i).summary.map fun m => m.pagesNeeded k).getD 16 = m.pagesNeeded k := by
    rw [show ((s.heard 0).slotAt i).summary = some m from hm]
    rfl
  have htake : (s.heard 0).takeProgram i k (pageOf (txnAddress tx)) =
      (s.heard 0).updChunk i k (Chunk.takePage (m.pagesNeeded k) (pageOf (txnAddress tx))) := by
    rw [State.takeProgram, if_neg (by omega), hneeded]
  rw [State.programTaken, htake]
  simp only [State.updChunk, State.updSlot, State.sendProgram, State.send, State.clearClean, State.heard,
    List.nil_append]
  rfl

theorem exec_program_of_chunk {m : Summary} (htake : s.takes .program tx = true) (hd : tx.data ≠ [])
    (hidle : s.tracker = .idle) (hkind : s.cfg.kindAt (txnAddress tx / 4096) = some .staging)
    (hslot : s.slotOf (s.cfg.logicalOf (txnAddress tx)) = some (i, k)) (hk : 0 < k)
    (hm : (s.slotAt i).summary = some m)
    (hj : s.judgeProgram i k (s.cfg.logicalOf (txnAddress tx)) (pageOf (txnAddress tx)) = none) :
    exec (.program tx) s = .next (s.chunkTaken tx i k (m.pagesNeeded k)) := by
  rw [exec_program_of_idle htake hd hidle, State.idleProgram_of_staging (s := s.heard 0) hkind,
    State.stagingProgram_of_accepted (s := s.heard 0) hslot hj, if_neg (by omega), State.programTaken_chunk hk hm]

/-- A change of the chunk that a slot is known to hold is a change to what it becomes. -/
theorem modify_updChunk_of_chunkAt {c : Chunk} {f : Chunk → Chunk} (hk : 0 < k) (hc : s.chunkAt i k = some c) :
    s.slots.modify i (SlotRec.updChunk k f) =
      s.slots.modify i fun r => { r with chunks := r.chunks.modify (k - 1) fun _ => f c } := by
  refine modify_congr_of_getElem? fun x hx => ?_
  have hxc : x.chunks[k - 1]? = some c := by
    rw [← hc, State.chunkAt, SlotRec.chunkAt, if_neg (by omega), State.slotAt, List.getD_eq_getElem?_getD, hx]
    rfl
  rw [SlotRec.updChunk, if_neg (by omega)]
  congr 1
  refine modify_congr_of_getElem? fun y hy => ?_
  rw [hxc] at hy
  rw [Option.some.inj hy]

end

/-- Settles O22, by the slot's state and the checks of the page. -/
theorem chunkProgram : Obligations.ChunkProgram := by
  intro tx s i k htake hd hidle hkind hslot hk a l page refused
  have hrefused {x : Reason} (hr : s.judgeProgram i k l page = some x) : exec (.program tx) s = .next (refused x) :=
    exec_program_of_refused htake hd hidle hkind hslot hr
  refine ⟨fun h => hrefused (State.judgeProgram_slotState hk h), fun hf hr hc => hrefused ?_, fun m c hf hr hm hc => ?_⟩
  · rw [State.judgeProgram_filling hk hf hr]
    exact SlotRec.judgeChunkProgram_of_no_chunk hc
  · have hj := (State.judgeProgram_filling (l := l) (page := page) hk hf hr).trans
      (SlotRec.judgeChunkProgram_eq hm hc)
    intro mask written
    refine ⟨fun hp => hrefused ?_, fun hp hs => hrefused ?_, fun hp hw => hrefused ?_, fun hp hs hw => ?_⟩
    · rw [hj, if_pos hp]
    · rw [hj, if_neg (by omega), if_pos hs]
    · have hs : c.state ≠ .stale := by
        rcases hw with h | h | h | h
        case inr.inr.inr => exact h.1
        all_goals rw [h]; decide
      rw [hj, if_neg (by omega), if_neg hs, if_pos]
      exact hw.imp_right (Or.imp_right (Or.imp_right And.right))
    · have hnone : s.judgeProgram i k l page = none := by
        rw [hj, if_neg (by omega), if_neg hs, if_neg]
        exact fun h => hw (h.imp_right (Or.imp_right (Or.imp_right fun hb => ⟨hs, hb⟩)))
      rw [exec_program_of_chunk htake hd hidle hkind hslot hk hm hnone, State.chunkTaken,
        modify_updChunk_of_chunkAt hk hc]
      rfl

end Sys2Proof.Machine
end

section
/-! The spare pool (R47) under the operations that move no sector: with the books they leave the map and the pool as they
are. The control flow of a boot event is walked once, for every property that its operations keep. -/

namespace Sys2Proof.Machine

open Sys2Proof

/-! ### Boot events, walked once (8.5) -/

/-- A property that the operations of a boot event keep, but for the failure of its trial: the dynamic fields of a target
other than its floor and its trial change, a slot takes the DECAYED mark, records are offered, and a scan is asked for. -/
structure BootClosed (P : State → Prop) : Prop where
  boot : ∀ (s : State) (b : Option BootEvent), P s → P { s with boot := b }
  dyn : ∀ (s : State) (t : Nat) (f : TargetDyn → TargetDyn),
    (∀ d, (f d).floor = d.floor ∧ (f d).trial = d.trial) → P s → P (s.updDyn t f)
  log : ∀ (s : State) (e : LogEntry), P s → P (s.appendLog e)
  offer : ∀ (s : State) (o : Owner) (p : Payload), P s → P (s.offer o p)
  offerSlot : ∀ (s : State) (o : Owner) (i : Nat), P s → P (s.offerSlot o i)
  decayed : ∀ (s : State) (i : Nat), P s → P (s.markDecayed i)
  scan : ∀ (s : State) (r : Role) (i : Nat), P s → P (s.openScan r i)

section
variable {P : State → Prop} (hP : BootClosed P) {s : State} (hs : P s)

include hP hs

theorem BootClosed.settleBoot (t : Nat) (c : Option Nat) : P (s.settleBoot t c) := by
  unfold State.settleBoot
  extract_lets s1
  have h1 : P s1 := hP.dyn s t _ (fun _ => ⟨rfl, rfl⟩) hs
  split
  · exact h1
  · next b _ =>
    extract_lets s2 s3
    have h2 : P s2 := by
      unfold s2
      split
      · exact h1
      · exact hP.offerSlot _ _ _ h1
    have h3 : P s3 := by
      unfold s3
      split
      · exact h2
      · exact hP.offer _ _ _ h2
    exact hP.boot _ _ (List.foldlRecOn b.decayed _ h3 fun u hu i _ => hP.offerSlot u .boot i hu)

theorem BootClosed.bootDecays (i : Nat) (r : Option Reason) (c : Option Nat) : P (s.bootDecays i r c) := by
  unfold State.bootDecays
  split
  · exact hs
  · exact hP.boot _ _ (hP.log _ _ (hP.decayed s i hs))

theorem BootClosed.fallbackScanned (t i : Nat) (pass : Bool) (r : Option Reason) (c : Option Nat) :
    P (s.fallbackScanned t i pass r c) := by
  unfold State.fallbackScanned
  split
  · exact hP.settleBoot (hP.log _ _ (hP.dyn s t (fun d => { d with recovery := true }) (fun _ => ⟨rfl, rfl⟩) hs)) _ _
  · exact hP.settleBoot (hP.bootDecays hs i r c) _ _

theorem BootClosed.askFallback (t : Nat) : P (s.askFallback t) := by
  unfold State.askFallback
  split
  · exact hP.settleBoot hs _ _
  · split
    · exact hP.settleBoot hs _ _
    · split
      · exact hP.fallbackScanned hs ..
      · exact hP.scan _ _ _ hs

theorem BootClosed.activeScanned (t i : Nat) (pass : Bool) (r : Option Reason) (c : Option Nat) :
    P (s.activeScanned t i pass r c) := by
  unfold State.activeScanned
  split
  · exact hP.settleBoot hs _ _
  · exact hP.askFallback (hP.bootDecays hs i r c) t

theorem BootClosed.askActive (t : Nat) : P (s.askActive t) := by
  unfold State.askActive
  split
  · exact hP.settleBoot hs _ _
  · split
    · exact hP.activeScanned hs ..
    · exact hP.scan _ _ _ hs

theorem BootClosed.trialScanned {t i : Nat} (hf : ∀ r c, P (s.bootTrialFails t i r c)) (pass : Bool)
    (r : Option Reason) (c : Option Nat) : P (s.trialScanned t i pass r c) := by
  unfold State.trialScanned
  split
  · exact hP.settleBoot (hP.log _ _ hs) _ _
  · exact hP.askActive (hf r c) t

theorem BootClosed.askTrial {t i : Nat} (hf : ∀ r c, P (s.bootTrialFails t i r c)) : P (s.askTrial t i) := by
  unfold State.askTrial
  split
  · exact hP.trialScanned hs hf ..
  · exact hP.scan _ _ _ hs

/-- What the operations of a boot event keep, and the failure of its trial keeps, holds once the event has begun. -/
theorem BootClosed.beginBoot
    (hf : ∀ (u : State) (t i : Nat) (r : Option Reason) (c : Option Nat), P u → (u.dynAt t).trial = some i →
      P (u.bootTrialFails t i r c)) (startup : Bool) : P (s.beginBoot startup) := by
  unfold State.beginBoot
  split
  · exact hP.boot _ _ hs
  · next t _ =>
    extract_lets s1
    have h1 : P s1 := hP.boot _ _ hs
    split
    · exact hP.askActive h1 t
    · next i ht =>
      split
      · have h2 : P (s1.updDyn t TargetDyn.spendBoot) := hP.dyn _ _ _ (fun _ => ⟨rfl, rfl⟩) h1
        have ht2 : ((s1.updDyn t TargetDyn.spendBoot).dynAt t).trial = some i := by
          rw [State.dynAt_updDyn]
          split
          · exact ht
          · exact ht
        exact hP.askTrial h2 fun r c => hf _ _ _ r c h2 ht2
      · exact hP.askActive (hf _ _ _ _ _ h1 ht) t

end

/-! ### The pool -/

theorem foldl_pool {α : Type} {f : State → α → State} (hf : ∀ (u : State) (x : α), (f u x).pool = u.pool) (l : List α)
    (s : State) : (l.foldl f s).pool = s.pool :=
  List.foldlRecOn (motive := fun u : State => u.pool = s.pool) l f rfl fun u hu x _ => (hf u x).trans hu

section
variable (s : State)

@[simp] theorem State.updChunk_pool (i c : Nat) (f : Chunk → Chunk) : (s.updChunk i c f).pool = s.pool := rfl
@[simp] theorem State.updBoot_pool (f : BootEvent → BootEvent) : (s.updBoot f).pool = s.pool := rfl
@[simp] theorem State.offerSlot_pool (o : Owner) (i : Nat) : (s.offerSlot o i).pool = s.pool := rfl
@[simp] theorem State.offerTarget_pool (o : Owner) (t : Nat) : (s.offerTarget o t).pool = s.pool := rfl
@[simp] theorem State.dropManifest_pool (i : Nat) : (s.dropManifest i).pool = s.pool := rfl
@[simp] theorem State.dropEntries_pool (f : Nat → Nat → Bool) : (s.dropEntries f).pool = s.pool := rfl
@[simp] theorem State.dropSlotJobs_pool (i : Nat) : (s.dropSlotJobs i).pool = s.pool := rfl
@[simp] theorem State.dropChunkJob_pool (i c : Nat) : (s.dropChunkJob i c).pool = s.pool := rfl
@[simp] theorem State.failSlot_pool (i : Nat) : (s.failSlot i).pool = s.pool := by simp [State.failSlot]
@[simp] theorem State.markDecayed_pool (i : Nat) : (s.markDecayed i).pool = s.pool := by simp [State.markDecayed]
@[simp] theorem State.sendWordRead_pool (w : Nat × Nat) (n : Nat) (cut : Bool) :
    (s.sendWordRead w n cut).pool = s.pool := rfl

theorem bootClosed_pool : BootClosed fun t => t.pool = s.pool where
  boot _ _ := id
  dyn _ _ _ _ := id
  log _ _ := id
  offer _ _ _ := id
  offerSlot _ _ _ := id
  decayed u i := (u.markDecayed_pool i).trans
  scan _ _ _ := id

theorem State.bootTrialFails_pool (t i : Nat) (r : Option Reason) (c : Option Nat) :
    (s.bootTrialFails t i r c).pool = s.pool := by
  simp [State.bootTrialFails]

@[simp] theorem State.beginBoot_pool (startup : Bool) : (s.beginBoot startup).pool = s.pool :=
  (bootClosed_pool s).beginBoot rfl (fun u t i r c hu _ => (u.bootTrialFails_pool t i r c).trans hu) startup

@[simp] theorem State.offerInOrder_pool (o : Owner) (slots targets : List Nat) :
    (s.offerInOrder o slots targets).pool = s.pool :=
  (foldl_pool (fun u i => u.offerSlot_pool o i) _ _).trans ((foldl_pool (fun u t => u.offerTarget_pool o t) _ _).trans
    (foldl_pool (fun u i => u.offerSlot_pool o i) _ _))

@[simp] theorem State.strike_pool (p l : Nat) : (s.strike p l).pool = s.pool := by
  unfold State.strike
  split
  · rfl
  · split
    · exact s.markSuspect_pool ..
    · rfl

@[simp] theorem State.eraseChunk_pool (l : Nat) (f : Chunk → Chunk) : (s.eraseChunk l f).pool = s.pool := by
  rw [State.eraseChunk_eq]

@[simp] theorem State.startJob_pool : s.startJob.pool = s.pool := by rw [State.startJob_eq]

@[simp] theorem State.endJob_pool (j : Job) : (s.endJob j).pool = s.pool := by
  unfold State.endJob
  split <;> rfl

@[simp] theorem State.restartSecondPass_pool (f : Nat → Bool) : (s.restartSecondPass f).pool = s.pool := by
  unfold State.restartSecondPass
  split
  · split <;> rfl
  · rfl

@[simp] theorem State.verifyRead_pool (n : Nat) : (s.verifyRead n).pool = s.pool := by
  unfold State.verifyRead
  dsimp only
  split
  · rfl
  · split
    · rfl
    · split <;> rfl

@[simp] theorem State.patrolStep_pool : s.patrolStep.pool = s.pool := by
  unfold State.patrolStep
  split
  · rfl
  · split
    · exact State.startJob_pool _
    · rfl

/-! ### The pool under admission, reload and chunk work (chapters 4, 6 and 7) -/

@[simp] theorem State.trialEndedByCheck_pool (i : Nat) (r : Reason) (c : Option Nat) :
    (s.trialEndedByCheck i r c).pool = s.pool := by
  simp [State.trialEndedByCheck]

@[simp] theorem State.admissionOutcome_pool (i : Nat) (w : List Word) (tag : Bool) :
    (s.admissionOutcome i w tag).pool = s.pool := by
  unfold State.admissionOutcome
  split
  · simp [State.admitSlot]
  · simp [State.rejectAdmission, State.rejectHeader]

@[simp] theorem State.reloadOutcome_pool (i : Nat) (w : List Word) (tag : Bool) :
    (s.reloadOutcome i w tag).pool = s.pool := by
  unfold State.reloadOutcome
  split
  · simp [State.reloadPassedSlot]
  · unfold State.reloadFailedSlot
    dsimp only
    split <;> simp

@[simp] theorem State.chunkMismatched_pool (r : Reason) (i c p : Nat) : (s.chunkMismatched r i c p).pool = s.pool := by
  simp [State.chunkMismatched]

@[simp] theorem State.sealIfVerified_pool (i : Nat) : (s.sealIfVerified i).pool = s.pool := by
  unfold State.sealIfVerified
  split <;> simp

@[simp] theorem State.chunkVerdict_pool (i c p : Nat) (m : Bool) : (s.chunkVerdict i c p m).pool = s.pool := by
  unfold State.chunkVerdict
  split
  · rfl
  · split
    · split
      · simp
      · split <;> simp
    · rfl

@[simp] theorem State.patrolVerdict_pool (i c p : Nat) (m : Bool) : (s.patrolVerdict i c p m).pool = s.pool := by
  unfold State.patrolVerdict
  split
  · rfl
  · split
    · split
      · simp
      · dsimp only
        split <;> simp
    · rfl

/-! ### The pool under the owners of programs and erases (R16) -/

@[simp] theorem State.headerProgramEnded_pool (i : Nat) : (s.headerProgramEnded i).pool = s.pool := by
  rw [State.headerProgramEnded_eq]

@[simp] theorem State.offerChunk_pool (i c : Nat) : (s.offerChunk i c).pool = s.pool := by rw [State.offerChunk_eq]

@[simp] theorem State.chunkProgramFailed_pool (i c p a : Nat) : (s.chunkProgramFailed i c p a).pool = s.pool := by
  unfold State.chunkProgramFailed
  split <;> simp

@[simp] theorem State.takeProgram_pool (i k page : Nat) : (s.takeProgram i k page).pool = s.pool := by
  unfold State.takeProgram
  split <;> simp

@[simp] theorem State.capture_pool (i a : Nat) (data : List Byte) : (s.capture i a data).pool = s.pool := by
  unfold State.capture
  dsimp only
  split
  · rfl
  · simp [State.rejectHeader]

@[simp] theorem State.takeSector_pool (i k : Nat) : (s.takeSector i k).pool = s.pool := by
  rw [show s.takeSector i k = _ from s.takeSector_ownersOnly i k]

@[simp] theorem State.takeDecision_pool (d : Decision) (a : Nat) : (s.takeDecision d a).pool = s.pool := by
  rw [show s.takeDecision d a = _ from s.takeDecision_ownersOnly d a]

/-! ### The pool under scan verdicts (R119, R120) -/

@[simp] theorem State.scanEnds_pool (c : Scan) (pass : Bool) (r : Option Reason) (k : Option Nat) :
    (s.scanEnds c pass r k).pool = s.pool := by
  have hP := bootClosed_pool s
  unfold State.scanEnds
  extract_lets s1
  have h1 : s1.pool = s.pool := rfl
  split
  · exact h1
  · split
    · exact hP.trialScanned h1 (fun r k => (s1.bootTrialFails_pool _ _ r k).trans h1) ..
    · exact hP.activeScanned h1 ..
    · exact hP.fallbackScanned h1 ..

@[simp] theorem State.scanManifestVerdict_pool (c : Scan) (w : List Word) (tag : Bool) :
    (s.scanManifestVerdict c w tag).pool = s.pool := by
  unfold State.scanManifestVerdict
  extract_lets s0 s1
  split
  · exact (State.scanEnds_pool ..).trans (by simp [s0])
  · have h1 : s1.pool = s.pool := by
      unfold s1
      split
      · simp [s0, State.reloadPassedSlot]
      · rfl
    split
    · exact h1
    · exact (State.scanEnds_pool ..).trans h1

@[simp] theorem State.scanChunkVerdict_pool (c : Scan) (p : Nat) (m : Bool) :
    (s.scanChunkVerdict c p m).pool = s.pool := by
  unfold State.scanChunkVerdict
  extract_lets s0 s1
  split
  · split
    · exact (State.scanEnds_pool ..).trans (by simp [s1, s0])
    · rfl
  · exact (State.scanEnds_pool ..).trans (by simp [s0])

/-! ### The pool under requests (8.3) -/

@[simp] theorem State.confirmLog_pool (before : State) (i : Nat) : (s.confirmLog before i).pool = s.pool := by
  unfold State.confirmLog
  split <;> rfl

@[simp] theorem State.confirmDrops_pool (i : Nat) : (s.confirmDrops i).pool = s.pool := by simp [State.confirmDrops]

@[simp] theorem State.outdate_pool (floor j : Nat) : (s.outdate floor j).pool = s.pool := by simp [State.outdate]

@[simp] theorem State.confirmRoles_pool (i t floor : Nat) : (s.confirmRoles i t floor).pool = s.pool := by
  unfold State.confirmRoles
  extract_lets d s1 s2
  have h1 : s1.pool = s.pool := by
    unfold s1
    split
    · rfl
    · dsimp only
      split <;> simp
  have h2 : s2.pool = s1.pool := by
    unfold s2
    split <;> rfl
  exact h2.trans h1

@[simp] theorem State.emptySlot_pool (i : Nat) : (s.emptySlot i).pool = s.pool := by
  unfold State.emptySlot
  dsimp only
  split <;> simp

end

end Sys2Proof.Machine
end

section
/-! The sector map stays one-to-one (R46, R47, R55): what a decision's move does to the map and the pool, and the steps that
move nothing. -/

namespace Sys2Proof.Machine

open Sys2Proof

/-! ### The map, the pool, and the move of a hold -/

/-- R46, R47: no two logical sectors share a physical sector, and no spare is mapped or listed twice. -/
structure State.SparesApart (s : State) : Prop where
  inj : ∀ l l', l < s.cfg.sLog → l' < s.cfg.sLog → s.physical l = s.physical l' → l = l'
  apart : ∀ p, p ∈ s.pool → ∀ l, l < s.cfg.sLog → s.physical l ≠ p
  nodup : s.pool.Nodup

/-- R55: the move of a decision is possible: it takes a logical sector from where the map has it to a spare. -/
structure State.MovePossible (s : State) (d : Decision) : Prop where
  logical : d.logical < s.cfg.sLog
  source : d.source = s.physical d.logical
  target : d.target ∈ s.pool

theorem State.heldDecision_iff (s : State) (d : Decision) :
    s.heldDecision = some d ↔ ∃ op h, s.tracker = .eraseHeld op h ∧ h.decision = some d := by
  unfold State.heldDecision
  cases s.tracker <;> simp

theorem State.heldDecision_of_tracker {s t : State} (h : t.tracker = s.tracker) : t.heldDecision = s.heldDecision := by
  rw [State.heldDecision, h, State.heldDecision]

theorem State.mapSound_iff (s : State) : s.mapSound ↔
    s.SparesApart ∧ ∀ d, s.heldDecision = some d → d.moves = true → s.MovePossible d := by
  constructor
  · rintro ⟨hinj, hapart, hnodup, hheld⟩
    refine ⟨⟨hinj, hapart, hnodup⟩, fun d hd hm => ?_⟩
    obtain ⟨op, h, ht, hdec⟩ := (s.heldDecision_iff d).1 hd
    obtain ⟨hl, hs, hp⟩ := hheld op h d ht hdec hm
    exact ⟨hl, hs, hp⟩
  · rintro ⟨⟨hinj, hapart, hnodup⟩, hheld⟩
    refine ⟨hinj, hapart, hnodup, fun op h d ht hdec hm => ?_⟩
    obtain ⟨hl, hs, hp⟩ := hheld d ((s.heldDecision_iff d).2 ⟨op, h, ht, hdec⟩) hm
    exact ⟨hl, hs, hp⟩

/-- The map and the pool are sound, and the map is in its canonical form. -/
structure State.SectorsGood (s : State) : Prop where
  spares : s.SparesApart
  held : ∀ d, s.heldDecision = some d → d.moves = true → s.MovePossible d
  canonical : tableWf (fun l => l) s.map = true

/-- A step from `s` to `t` keeps the map and the pool sound. -/
structure State.KeepsSectors (s t : State) : Prop where
  good : s.SectorsGood → t.SectorsGood

theorem State.KeepsSectors.trans {s t u : State} (h : s.KeepsSectors t) (g : t.KeepsSectors u) : s.KeepsSectors u :=
  ⟨g.good ∘ h.good⟩

/-! ### Steps that move no sector -/

/-- From `s` to `t` the configuration, the map and the pool stay, and no decision is newly held. -/
structure State.SectorsStay (s t : State) : Prop where
  cfg : t.cfg = s.cfg
  map : t.map = s.map
  pool : t.pool = s.pool
  held : ∀ d, t.heldDecision = some d → s.heldDecision = some d

theorem State.SectorsStay.of_eq {s t : State}
    (h : t = { t with cfg := s.cfg, map := s.map, pool := s.pool, tracker := s.tracker }) : s.SectorsStay t := by
  rw [h]
  exact ⟨rfl, rfl, rfl, fun _ => id⟩

theorem State.SectorsStay.refl (s : State) : s.SectorsStay s := .of_eq rfl

theorem State.SectorsStay.trans {s t u : State} (h : s.SectorsStay t) (g : t.SectorsStay u) : s.SectorsStay u where
  cfg := g.cfg.trans h.cfg
  map := g.map.trans h.map
  pool := g.pool.trans h.pool
  held d := h.held d ∘ g.held d

theorem State.SectorsStay.ite {s t u : State} {c : Prop} [Decidable c] (h : s.SectorsStay t) (g : s.SectorsStay u) :
    s.SectorsStay (if c then t else u) := by
  split
  · exact h
  · exact g

theorem State.SectorsStay.foldl {α : Type} {f : State → α → State} (hf : ∀ (u : State) (x : α), u.SectorsStay (f u x))
    (l : List α) (s : State) : s.SectorsStay (l.foldl f s) :=
  List.foldlRecOn l f (.refl s) fun u hu x _ => hu.trans (hf u x)

/-- The books hold no sector; what they leave of the pool is all that is to be shown. -/
theorem State.Books.sectorsStay {s t : State} (h : s.Books t) (hp : t.pool = s.pool) : s.SectorsStay t :=
  ⟨h.cfg, h.map, hp, fun _ hd => (State.heldDecision_of_tracker h.tracker).symm.trans hd⟩

/-- With nothing held, no decision is. -/
theorem State.SectorsStay.of_free {s t : State} (h : t = { t with cfg := s.cfg, map := s.map, pool := s.pool })
    (ht : ∀ op hold, t.tracker ≠ .eraseHeld op hold) : s.SectorsStay t := by
  refine ⟨by rw [h], by rw [h], by rw [h], fun d hd => ?_⟩
  obtain ⟨op, hold, he, -⟩ := (State.heldDecision_iff _ d).1 hd
  exact absurd he (ht op hold)

/-- What holds of the map and the pool holds where they have not changed. -/
theorem State.SparesApart.of_eq {s t : State} (hc : t.cfg = s.cfg) (hm : t.map = s.map) (hp : t.pool = s.pool)
    (h : s.SparesApart) : t.SparesApart := by
  have hphys (l : Nat) : t.physical l = s.physical l := by rw [State.physical, hm, State.physical]
  exact ⟨by simpa only [hc, hphys] using h.inj, by simpa only [hc, hphys, hp] using h.apart, hp ▸ h.nodup⟩

theorem State.MovePossible.of_eq {s t : State} {d : Decision} (hc : t.cfg = s.cfg) (hm : t.map = s.map)
    (hp : t.pool = s.pool) (h : s.MovePossible d) : t.MovePossible d := by
  have hphys (l : Nat) : t.physical l = s.physical l := by rw [State.physical, hm, State.physical]
  exact ⟨hc ▸ h.logical, h.source.trans (hphys _).symm, hp ▸ h.target⟩

theorem State.SectorsStay.keeps {s t : State} (h : s.SectorsStay t) : s.KeepsSectors t := ⟨fun hs =>
  ⟨hs.spares.of_eq h.cfg h.map h.pool, fun d hd hm => (hs.held d (h.held d hd) hm).of_eq h.cfg h.map h.pool,
    h.map ▸ hs.canonical⟩⟩

/-! ### The move of a decision (R55, R57) -/

section
variable (s : State) {d : Decision}

theorem State.applyDecision_cfg (d : Decision) : (s.applyDecision d).cfg = s.cfg := by rw [State.applyDecision_eq]

/-- R55: where the map has a logical sector after a decision's move. -/
theorem State.applyDecision_physical (hwf : tableWf (fun l => l) s.map = true) (hm : d.moves = true) (l : Nat) :
    (s.applyDecision d).physical l = if l = d.logical then d.target else s.physical l := by
  rw [State.physical, State.applyDecision_map_of_moves s hm]
  split
  · next h => rw [h]; exact mapLookup_mapStore_same hwf ..
  · next h => exact mapLookup_mapStore_ne s.map h _

theorem State.applyDecision_map_wf (d : Decision) (hwf : tableWf (fun l => l) s.map = true) :
    tableWf (fun l => l) (s.applyDecision d).map = true := by
  by_cases hm : d.moves = true
  · rw [State.applyDecision_map_of_moves s hm]
    exact mapStore_wf hwf ..
  · rw [s.applyDecision_of_not_moves (Bool.not_eq_true _ ▸ hm)]
    exact hwf

/-- R55, R57: the pool loses the target of a move, and gains at most the sector that is left. -/
theorem State.mem_applyDecision_pool (hm : d.moves = true) {p : Nat} (hp : p ∈ (s.applyDecision d).pool) :
    p = d.source ∨ p ∈ s.pool ∧ p ≠ d.target := by
  unfold State.applyDecision at hp
  cases hc : d.case with
  | retire =>
    rw [hc] at hp
    exact .inr (by simpa using hp)
  | swap =>
    rw [hc] at hp
    exact ((mem_poolInsert ..).1 hp).imp_right (by simp)
  | degrade => simp [Decision.moves, hc] at hm
  | inPlace => simp [Decision.moves, hc] at hm

theorem State.applyDecision_pool_nodup (hn : s.pool.Nodup) (hs : d.source ∉ s.pool) :
    (s.applyDecision d).pool.Nodup := by
  unfold State.applyDecision
  split
  · exact hn.filter _
  · exact poolInsert_nodup _ _ (hn.filter _) fun h => hs (List.mem_of_mem_filter h)
  · exact hn
  · exact hn

/-- R55: a move takes its sector to a spare, which leaves the pool, so the map stays one-to-one and the spares apart. -/
theorem State.applyDecision_sparesApart (hwf : tableWf (fun l => l) s.map = true) (h : s.SparesApart)
    (hd : d.moves = true → s.MovePossible d) : (s.applyDecision d).SparesApart := by
  by_cases hm : d.moves = true
  · obtain ⟨hl, hsrc, htgt⟩ := hd hm
    have hphys := s.applyDecision_physical hwf hm
    have hfresh {l : Nat} (hl : l < s.cfg.sLog) : s.physical l ≠ d.target := h.apart _ htgt l hl
    refine ⟨fun l l' hl1 hl2 he => ?_, fun p hp l hl1 he => ?_, s.applyDecision_pool_nodup h.nodup fun hm => ?_⟩
    · rw [s.applyDecision_cfg] at hl1 hl2
      rw [hphys, hphys] at he
      split at he
      · next e =>
        split at he
        · next e' => exact e.trans e'.symm
        · exact absurd he.symm (hfresh hl2)
      · split at he
        · exact absurd he (hfresh hl1)
        · exact h.inj l l' hl1 hl2 he
    · rw [s.applyDecision_cfg] at hl1
      rw [hphys] at he
      rcases s.mem_applyDecision_pool hm hp with hp | ⟨hp, hne⟩
      · split at he
        · exact hfresh hl ((hsrc.symm.trans hp.symm).trans he.symm)
        · next hne => exact hne (h.inj l d.logical hl1 hl (he.trans (hp.trans hsrc)))
      · split at he
        · exact hne he.symm
        · exact h.apart p hp l hl1 he
    · exact h.apart _ hm _ hl hsrc.symm
  · rw [s.applyDecision_of_not_moves (Bool.not_eq_true _ ▸ hm)]
    exact h

/-- A decision's move, where it is possible, keeps the map and the pool sound, with nothing held after it. -/
theorem State.SectorsGood.moved {s t : State} (h : s.SectorsGood) (hd : d.moves = true → s.MovePossible d)
    (hc : t.cfg = s.cfg) (hm : t.map = (s.applyDecision d).map) (hp : t.pool = (s.applyDecision d).pool)
    (hf : t.heldDecision = none) : t.SectorsGood where
  spares := (s.applyDecision_sparesApart h.canonical h.spares hd).of_eq (hc.trans (s.applyDecision_cfg d).symm) hm hp
  held e he := by
    rw [hf] at he
    cases he
  canonical := hm ▸ s.applyDecision_map_wf d h.canonical

/-- R47, R54: a decision that moves its sector takes it to the head of the pool. -/
theorem State.eraseDecision_movePossible {l : Nat} (hl : l < s.cfg.sLog) (hm : (s.eraseDecision l).moves = true) :
    s.MovePossible (s.eraseDecision l) := by
  refine ⟨?_, ?_, ?_⟩
  · rw [s.eraseDecision_logical]
    exact hl
  · rw [s.eraseDecision_source, s.eraseDecision_logical]
  · revert hm
    unfold State.eraseDecision
    dsimp only
    split
    · split <;> simp [Decision.moves]
    · next h t hp =>
      rw [hp]
      split
      · simp
      · split <;> simp [Decision.moves]

end

/-- R33, R41: the sector of a slot lies within the logical staging sectors. -/
theorem State.lt_sLog_of_slotOf {s : State} {l i k : Nat} (h : s.slotOf l = some (i, k)) : l < s.cfg.sLog := by
  unfold State.slotOf at h
  split at h
  · next hl => exact Nat.lt_of_lt_of_le hl (Nat.mul_div_le ..)
  · cases h

end Sys2Proof.Machine
end

section
/-! Every command but the two that take the map from the stored rows and the journal keeps the sector map sound: the
obligation O6. -/

namespace Sys2Proof.Machine

open Sys2Proof

section
variable (s : State)

/-! ### The flash, the tracker and the host's reads -/

theorem State.refuseWrite_sectorsStay (r : Reason) (op : Byte) (a : Option Nat) :
    s.SectorsStay (s.refuseWrite r op a) := .of_eq rfl
theorem State.begin_sectorsStay : s.SectorsStay s.begin := .of_eq rfl
theorem State.begin_tick_sectorsStay (e : Nat) : s.SectorsStay (s.begin.tick e) := .of_eq rfl
theorem State.begin_drift_sectorsStay (d : Drift) : s.SectorsStay (s.begin.drift d) := .of_eq rfl
theorem State.send_sectorsStay (t : MemTxn) : s.SectorsStay (s.send t) := .of_eq rfl
theorem State.resettle_sectorsStay : s.SectorsStay s.resettle := s.resettle_books.sectorsStay s.resettle_pool

theorem State.flashObserved_sectorsStay (raw : Byte) : s.SectorsStay (s.flashObserved raw) := by
  unfold State.flashObserved
  split
  · exact .of_eq rfl
  · exact .ite (.refl s) (.of_eq rfl)

theorem State.idle_sectorsStay : s.SectorsStay { s with tracker := .idle } := .of_free rfl fun _ _ => nofun

theorem State.programEnded_sectorsStay (op : OpRecord) (failed : Bool) : s.SectorsStay (s.programEnded op failed) := by
  refine s.idle_sectorsStay.trans ?_
  unfold State.programEnded
  extract_lets s0
  split
  · exact .refl s0
  · next l p _ =>
    extract_lets suspect
    have hs (u : State) : u.SectorsStay (suspect u) :=
      .ite ((State.markSuspect_books u).sectorsStay (u.markSuspect_pool ..)) (.refl u)
    split
    · exact hs s0
    · next i k _ =>
      refine .ite ?_ (.ite ?_ ?_)
      · exact ((hs s0).trans ((State.headerProgramEnded_books _).sectorsStay (State.headerProgramEnded_pool ..))).trans
          (State.resettle_sectorsStay _)
      · exact ((s0.chunkProgramFailed_books.sectorsStay (s0.chunkProgramFailed_pool ..)).trans (hs _)).trans
          (State.resettle_sectorsStay _)
      · exact (s0.offerChunk_books.sectorsStay (s0.offerChunk_pool ..)).trans (State.resettle_sectorsStay _)

theorem State.eraseEnded_sectorsStay (op : OpRecord) (failed : Bool) : s.SectorsStay (s.eraseEnded op failed) := by
  refine s.idle_sectorsStay.trans ?_
  unfold State.eraseEnded
  extract_lets s0
  split
  · exact .refl s0
  · next l p _ =>
    refine .ite ?_ (.refl s0)
    exact (State.SectorsStay.of_eq (t := s0.clearClean l) rfl).trans
      (((State.markSuspect_books _).trans (State.eraseChunk_books _)).sectorsStay (by simp))

theorem State.observe_sectorsStay (raw : Byte) : s.SectorsStay (s.observe raw) := by
  have h := s.flashObserved_sectorsStay raw
  unfold State.observe
  extract_lets s1
  split
  · exact .ite h (h.trans (s1.programEnded_sectorsStay ..))
  · exact .ite h (h.trans (s1.eraseEnded_sectorsStay ..))
  · exact h
  · exact h

theorem State.observeEnd_sectorsStay (b : Byte) : s.SectorsStay (s.observeEnd b) := .ite (.refl s) (s.observe_sectorsStay _)

theorem State.statusByte_sectorsStay (b : Byte) : s.SectorsStay (s.statusByte b) :=
  (s.observe_sectorsStay _).trans (.of_eq rfl)

theorem State.pollBytes_sectorsStay (bs : List Byte) (n : Nat) : s.SectorsStay (State.pollBytes bs n s).2 := by
  induction bs generalizing n s with
  | nil => exact .refl s
  | cons b bs ih =>
    unfold State.pollBytes
    split
    · exact (s.observe_sectorsStay _).trans (ih _ _)
    · exact .refl s

theorem State.partByte_sectorsStay (a : Nat) : s.SectorsStay (s.partByte a).2 := by
  have htouch (p o : Nat) (page : List Byte) : s.SectorsStay (s.touchPage p o page) := by
    unfold State.touchPage
    extract_lets s1
    have h1 : s.SectorsStay s1 := .ite (.of_eq rfl) (.refl s)
    exact .ite (h1.trans (.of_eq rfl)) h1
  unfold State.partByte State.windowByte
  split
  · split
    · exact .refl s
    · split
      · exact .refl s
      · exact htouch ..
  · exact .refl s

theorem State.serve_sectorsStay (tx : HostTxn) (n i a : Nat) (prev : Option Nat) :
    s.SectorsStay (s.serve tx n i a prev) := by
  induction n generalizing i a prev s with
  | zero => exact .refl s
  | succ n ih =>
    unfold State.serve
    refine .trans ?_ (ih _ _ _ _)
    split
    · exact (s.partByte_sectorsStay a).trans (.of_eq rfl)
    · exact .of_eq rfl
    · exact .of_eq rfl

theorem State.readRuns_sectorsStay (tx : HostTxn) (len : Nat) : s.SectorsStay (s.readRuns tx len) := by
  unfold State.readRuns
  extract_lets a src s1
  refine .ite (.of_eq rfl) ?_
  have h1 : s.SectorsStay s1 := by
    unfold s1
    clear_value src
    cases src <;> exact .of_eq rfl
  exact (h1.trans (s1.serve_sectorsStay ..)).trans (.of_eq rfl)

/-! ### Requests -/

/-- A request's outcome is no matter of the sectors. -/
theorem State.outcome_sectorsStay (o : ReqOutcome) (r : Option ReqReason) :
    s.SectorsStay { s with lastOutcome := o, lastReason := r } := .of_eq rfl

theorem State.requestPending_sectorsStay : s.SectorsStay s.requestPending := .of_eq rfl
theorem State.requestAwaits_sectorsStay : s.SectorsStay s.requestAwaits := .ite (.of_eq rfl) (.of_eq rfl)
theorem State.refuseRequest_sectorsStay (r : ReqReason) : s.SectorsStay (s.refuseRequest r) := .of_eq rfl
theorem State.putKeyRow_sectorsStay (r : KeyRow) : s.SectorsStay (s.putKeyRow r) := .of_eq rfl
theorem State.restartSecondPass_sectorsStay (f : Nat → Bool) : s.SectorsStay (s.restartSecondPass f) :=
  s.restartSecondPass_books.sectorsStay (s.restartSecondPass_pool f)
theorem State.offerInOrder_sectorsStay (o : Owner) (slots targets : List Nat) :
    s.SectorsStay (s.offerInOrder o slots targets) := s.offerInOrder_books.sectorsStay (s.offerInOrder_pool ..)

theorem State.reqActivate_sectorsStay (a : Word) : s.SectorsStay (s.reqActivate a) := by
  unfold State.reqActivate
  refine .ite (s.refuseRequest_sectorsStay _) (.ite (s.refuseRequest_sectorsStay _)
    (.ite (s.refuseRequest_sectorsStay _) ?_))
  split
  · refine .trans (State.Books.sectorsStay ?_ ?_) (State.requestPending_sectorsStay _)
    · exact ((s.updSlot_books.trans (State.updDyn_books _)).trans (State.appendLog_books _)).trans
        ((State.offerTarget_books _).trans (State.offerSlot_books _))
    · simp
  · exact s.refuseRequest_sectorsStay _

theorem State.reqConfirm_sectorsStay (a : Word) : s.SectorsStay (s.reqConfirm a) := by
  unfold State.reqConfirm
  extract_lets i r t floor below s1 changed _ s2 s3
  refine .ite (s.refuseRequest_sectorsStay _) (.ite (s.refuseRequest_sectorsStay _)
    (.ite (s.refuseRequest_sectorsStay _) ?_))
  have h1 : s.SectorsStay s1 := (s.confirmRoles_books.sectorsStay (s.confirmRoles_pool i t floor)).trans
    (.foldl (fun u j => u.outdate_books.sectorsStay (u.outdate_pool floor j)) below _)
  have h3 : s1.SectorsStay s3 := (s1.appendLog_books.sectorsStay rfl).trans
    (.foldl (fun u j => u.confirmLog_books.sectorsStay (u.confirmLog_pool s j)) changed s2)
  exact (h1.trans h3).trans ((s3.offerInOrder_sectorsStay ..).trans
    ((State.requestPending_sectorsStay _).trans (State.resettle_sectorsStay _)))

theorem State.reqAbandon_sectorsStay (a : Word) : s.SectorsStay (s.reqAbandon a) := by
  unfold State.reqAbandon
  refine .ite (s.refuseRequest_sectorsStay _) (.ite (s.refuseRequest_sectorsStay _) ?_)
  refine .trans (State.Books.sectorsStay ?_ ?_) (State.requestPending_sectorsStay _)
  · exact ((s.updSlot_books.trans (State.updDyn_books _)).trans (State.appendLog_books _)).trans
      ((State.offerTarget_books _).trans (State.offerSlot_books _))
  · simp

theorem State.reqDiscard_sectorsStay (a : Word) : s.SectorsStay (s.reqDiscard a) := by
  unfold State.reqDiscard
  extract_lets i r s1 s2 s3
  refine .ite (s.refuseRequest_sectorsStay _) (.ite (s.refuseRequest_sectorsStay _)
    (.ite (s.outcome_sectorsStay .done none) ?_))
  have h1 : s.SectorsStay s1 := s.emptySlot_books.sectorsStay (s.emptySlot_pool i)
  have h2 : s1.SectorsStay s2 := .ite (.refl s1) (s1.offerSlot_books.sectorsStay rfl)
  have h3 : s2.SectorsStay s3 := .ite (s2.offerTarget_books.sectorsStay rfl) (.refl s2)
  exact ((h1.trans h2).trans h3).trans (s3.requestAwaits_sectorsStay.trans (State.resettle_sectorsStay _))

theorem State.reqClearStaging_sectorsStay : s.SectorsStay s.reqClearStaging := by
  unfold State.reqClearStaging
  extract_lets ids targets s1
  have h1 : s.SectorsStay s1 := .foldl (fun u i => u.emptySlot_books.sectorsStay (u.emptySlot_pool i)) ids s
  exact (h1.trans (s1.offerInOrder_sectorsStay ..)).trans
    ((State.requestAwaits_sectorsStay _).trans (State.resettle_sectorsStay _))

theorem State.reqSetSlotCode_sectorsStay (a : Word) : s.SectorsStay (s.reqSetSlotCode a) := by
  unfold State.reqSetSlotCode
  refine .ite (s.refuseRequest_sectorsStay _) (.ite (s.refuseRequest_sectorsStay _)
    (.ite (s.refuseRequest_sectorsStay _) ?_))
  exact ((s.changeSlotCode_books.trans (State.offer_books _)).sectorsStay rfl).trans (State.requestPending_sectorsStay _)

theorem State.reqKeyRevoke_sectorsStay (a : Word) : s.SectorsStay (s.reqKeyRevoke a) := by
  unfold State.reqKeyRevoke
  refine .ite (s.refuseRequest_sectorsStay _) ?_
  split
  · exact (s.putKeyRow_sectorsStay _).trans (State.restartSecondPass_sectorsStay ..)
  · exact s.refuseRequest_sectorsStay _

theorem State.reqConfigWrite_sectorsStay (i n v : Word) : s.SectorsStay (s.reqConfigWrite i n v) := by
  unfold State.reqConfigWrite
  split
  · exact s.refuseRequest_sectorsStay _
  · exact .ite (s.refuseRequest_sectorsStay _) (.of_eq rfl)

theorem State.reqFactoryClear_sectorsStay : s.SectorsStay s.reqFactoryClear := by
  unfold State.reqFactoryClear
  extract_lets s1 s2
  have h2 : s.SectorsStay s2 := .of_eq rfl
  exact (h2.trans (.foldl (fun u t => u.offerTarget_books.sectorsStay (u.offerTarget_pool .request t)) _ _)).trans
    (State.restartSecondPass_sectorsStay ..)

end

/-! ### Part resets (R181) -/

theorem State.reset_sectorsGood : State.reset.SectorsGood where
  spares := by
    refine ⟨fun l l' _ _ h => h, fun p hp l hl he => ?_, List.nodup_range'⟩
    have : factoryConfig.sLog ≤ p := (List.mem_range'_1.1 hp).1
    have hlp : l = p := he
    have hl' : l < factoryConfig.sLog := hl
    omega
  held := nofun
  canonical := rfl

theorem State.partReset_sectorsStay (s : State) (b : Bool) : State.reset.SectorsStay (s.partReset b) := .of_eq rfl

/-- R181: a part reset takes the map of the factory state. -/
theorem State.partReset_keeps (s : State) (b : Bool) : s.KeepsSectors (s.partReset b) :=
  ⟨fun _ => (s.partReset_sectorsStay b).keeps.good State.reset_sectorsGood⟩

section
variable (s : State)

/-- The rule of every code keeps the sectors: RELOAD resets the part, and the others move no sector. -/
theorem requestRule_keeps {code a1 a2 a3 a4 : Word} {act : State → State}
    (h : requestRule code a1 a2 a3 a4 = some act) : s.KeepsSectors (act s) := by
  unfold requestRule at h
  split at h <;> cases h
  · exact (s.reqActivate_sectorsStay _).keeps
  · exact (s.reqConfirm_sectorsStay _).keeps
  · exact (s.reqAbandon_sectorsStay _).keeps
  · exact (s.reqDiscard_sectorsStay _).keeps
  · exact s.reqClearStaging_sectorsStay.keeps
  · exact (s.reqSetSlotCode_sectorsStay _).keeps
  · exact State.SectorsStay.keeps (.ite (s.refuseRequest_sectorsStay _) (.ite (s.refuseRequest_sectorsStay _) (.of_eq rfl)))
  · exact State.SectorsStay.keeps ((State.SectorsStay.ite (t := { s with alertPending := false }) (.of_eq rfl)
      (.refl s)).trans (.of_eq rfl))
  · exact (s.outcome_sectorsStay .done none).keeps.trans (s.requestDone.partReset_keeps false)
  · exact State.SectorsStay.keeps (.ite (s.refuseRequest_sectorsStay _) (.ite (s.refuseRequest_sectorsStay _)
      (.ite (s.refuseRequest_sectorsStay _)
        ((s.putKeyRow_sectorsStay _).trans (State.restartSecondPass_sectorsStay ..)))))
  · exact (s.reqKeyRevoke_sectorsStay _).keeps
  · exact State.SectorsStay.keeps (.ite (s.refuseRequest_sectorsStay _) (.ite (s.refuseRequest_sectorsStay _)
      (.ite (s.refuseRequest_sectorsStay _) (.ite (s.refuseRequest_sectorsStay _) (.of_eq rfl)))))
  · exact (s.reqConfigWrite_sectorsStay ..).keeps
  · exact State.SectorsStay.keeps (.ite (s.outcome_sectorsStay .done none) (s.putKeyRow_sectorsStay _))
  · exact s.reqFactoryClear_sectorsStay.keeps

theorem State.takeRequest_keeps (image : List Byte) (serial code : Word) {act : State → State}
    (h : ∀ u : State, u.KeepsSectors (act u)) : s.KeepsSectors (s.takeRequest image serial code act) := by
  unfold State.takeRequest
  split
  · exact State.SectorsStay.keeps (.of_eq rfl)
  · exact .trans (t := { s with reqPage := image, lastSerial := some serial, lastCode := some code })
      (State.SectorsStay.keeps (.of_eq rfl)) (h _)

theorem State.judgeRecord_keeps (image : List Byte) : s.KeepsSectors (s.judgeRecord image) := by
  refine s.takeRequest_keeps _ _ _ fun u => ?_
  split
  · cases h : imageRule image with
    | none => exact (u.refuseRequest_sectorsStay _).keeps
    | some act => exact requestRule_keeps u h
  · exact (u.refuseRequest_sectorsStay _).keeps

/-- A request row of the table keeps the sectors, as the rule of its code does. -/
theorem State.requestRow_keeps {serial code a1 a2 a3 a4 : Word} {act : State → State}
    (h : requestRule code a1 a2 a3 a4 = some act) :
    s.KeepsSectors (s.begin.request serial code a1 a2 a3 a4 act) := by
  unfold State.request
  split
  · exact .trans (t := { s.begin with echo := false }) (State.SectorsStay.keeps (.of_eq rfl))
      (State.takeRequest_keeps _ _ _ _ fun u => requestRule_keeps u h)
  · exact s.begin_sectorsStay.keeps

/-! ### Programs and erases (R35, R39, R53, R55) -/

theorem State.stagingProgram_sectorsStay (tx : HostTxn) (a : Nat) : s.SectorsStay (s.stagingProgram tx a) := by
  unfold State.stagingProgram
  extract_lets l p
  split
  · exact s.refuseWrite_sectorsStay ..
  · next i k _ =>
    split
    · exact s.refuseWrite_sectorsStay ..
    · extract_lets s1 s2
      have h1 : s.SectorsStay (s.takeProgram i k (pageOf a)) :=
        s.takeProgram_books.sectorsStay (s.takeProgram_pool i k (pageOf a))
      have h2 : s.SectorsStay s2 := h1.trans (.of_free rfl fun _ _ => nofun)
      exact .ite (h2.trans (s2.capture_books.sectorsStay (s2.capture_pool ..))) h2

theorem State.idleProgram_keeps (tx : HostTxn) (a : Nat) : s.KeepsSectors (s.idleProgram tx a) := by
  unfold State.idleProgram
  split
  · exact State.SectorsStay.keeps (.of_free rfl fun _ _ => nofun)
  · exact (s.stagingProgram_sectorsStay ..).keeps
  · split
    · exact s.judgeRecord_keeps _
    · exact (s.refuseWrite_sectorsStay ..).keeps
  all_goals exact (s.refuseWrite_sectorsStay ..).keeps

/-- An erase that goes to the flash makes the move of its decision, if it has one. -/
theorem State.forwardErase_good (txn : MemTxn) (op : OpRecord) {dec : Option Decision} (h : s.SectorsGood)
    (hd : ∀ d, dec = some d → d.moves = true → s.MovePossible d) : (s.forwardErase txn op dec).SectorsGood := by
  unfold State.forwardErase
  extract_lets _ s1
  have h1 : s.SectorsStay s1 := .of_free rfl fun _ _ => nofun
  cases dec with
  | none => exact h1.keeps.good h
  | some d =>
    dsimp only
    refine (h1.keeps.good h).moved (d := d) (fun hm => (hd d rfl hm).of_eq h1.cfg h1.map h1.pool) ?_
      (s1.stagingForwarded_map d) (s1.stagingForwarded_pool d) ?_
    · rw [State.stagingForwarded_eq]
    · rw [State.stagingForwarded_eq]
      rfl

/-- R19: a hold keeps its decision, whose move must be possible. -/
theorem State.SectorsGood.hold {s t : State} {op : OpRecord} {hold : Hold} (h : s.SectorsGood)
    (hd : ∀ d, hold.decision = some d → d.moves = true → s.MovePossible d)
    (ht : t = { t with cfg := s.cfg, map := s.map, pool := s.pool, tracker := .eraseHeld op hold }) :
    t.SectorsGood := by
  have hc : t.cfg = s.cfg := by rw [ht]
  have hm : t.map = s.map := by rw [ht]
  have hp : t.pool = s.pool := by rw [ht]
  have hheld : t.heldDecision = hold.decision := by
    rw [ht]
    rfl
  exact ⟨h.spares.of_eq hc hm hp, fun d hdec hmv => (hd d (hheld ▸ hdec) hmv).of_eq hc hm hp, hm ▸ h.canonical⟩

theorem State.acceptErase_good (tx : HostTxn) (op : OpRecord) {dec : Option Decision} (cut : Bool) (h : s.SectorsGood)
    (hd : ∀ d, dec = some d → d.moves = true → s.MovePossible d) : (s.acceptErase tx op dec cut).SectorsGood := by
  unfold State.acceptErase
  extract_lets recordOpen guardOpen _ txn hold
  split
  · exact h.hold (hold := hold) (op := op) hd rfl
  · split
    · exact h.hold (hold := hold) (op := op) hd rfl
    · exact s.forwardErase_good txn op h hd

theorem State.stagingErase_keeps (tx : HostTxn) (a : Nat) (cut : Bool) : s.KeepsSectors (s.stagingErase tx a cut) := by
  unfold State.stagingErase
  extract_lets l
  split
  · exact (s.refuseWrite_sectorsStay ..).keeps
  · next i k hslot =>
    split
    · exact (s.refuseWrite_sectorsStay ..).keeps
    · extract_lets s1 d op
      refine ⟨fun h => ?_⟩
      have h1 : s.SectorsStay s1 := by
        rw [show s1 = _ from s.takeSector_ownersOnly i k]
        exact .of_eq rfl
      have h2 : s1.SectorsStay (s1.takeDecision d a) := s1.takeDecision_books.sectorsStay (s1.takeDecision_pool d a)
      refine (State.resettle_sectorsStay _).keeps.good
        (State.acceptErase_good _ tx op cut ((h1.trans h2).keeps.good h) ?_)
      rintro e he hm
      cases he
      have hl : l < s1.cfg.sLog := h1.cfg ▸ State.lt_sLog_of_slotOf hslot
      exact (s1.eraseDecision_movePossible hl hm).of_eq h2.cfg h2.map h2.pool

theorem State.idleEraseSector_keeps (tx : HostTxn) (a : Nat) (cut : Bool) :
    s.KeepsSectors (s.idleEraseSector tx a cut) := by
  unfold State.idleEraseSector
  split
  · exact ⟨fun h => s.acceptErase_good tx _ cut h nofun⟩
  · exact s.stagingErase_keeps ..
  all_goals exact (s.refuseWrite_sectorsStay ..).keeps

theorem State.idleEraseLarge_keeps (tx : HostTxn) (a : Nat) (cut : Bool) :
    s.KeepsSectors (s.idleEraseLarge tx a cut) := by
  unfold State.idleEraseLarge
  split
  · exact ⟨fun h => s.acceptErase_good tx _ cut h nofun⟩
  · exact (s.refuseWrite_sectorsStay ..).keeps

theorem State.takeWrite_keeps (op : Byte) (a : Option Nat) {f : State → State} (hf : ∀ u : State, u.KeepsSectors (f u)) :
    s.KeepsSectors (s.takeWrite op a f) := by
  unfold State.takeWrite
  split
  · exact ⟨id⟩
  · exact ⟨id⟩
  · exact State.SectorsStay.keeps (.of_eq rfl)
  · exact .trans (t := { s with echo := false }) (State.SectorsStay.keeps (.of_eq rfl)) (hf _)

/-- R20: a held erase that is sent makes its move; one whose send is cut stays held. -/
theorem State.forwardHeld_keeps {op : OpRecord} {h : Hold} (ht : s.tracker = .eraseHeld op h) (cut : SendCut) :
    s.KeepsSectors (s.forwardHeld op h cut) := by
  unfold State.forwardHeld
  extract_lets enable
  split
  · exact State.SectorsStay.keeps (.of_eq rfl)
  · exact State.SectorsStay.keeps (.of_eq rfl)
  · refine ⟨fun hg => State.forwardErase_good _ _ op ?_ fun d hd hm => ?_⟩
    · have hs : s.SectorsStay ((s.send (ownTxn enable none 0 false)).setLatch true) := .of_eq rfl
      exact hs.keeps.good hg
    · have hmove := hg.held d ((s.heldDecision_iff d).2 ⟨op, h, ht, hd⟩) hm
      exact ⟨hmove.logical, hmove.source, hmove.target⟩

/-! ### Holds released and discarded (R19, R61) -/

/-- R19: the release of a condition leaves the decision that is held. -/
theorem State.condition_sectorsStay {op : OpRecord} {h h' : Hold} (ht : s.tracker = .eraseHeld op h)
    (hd : h'.decision = h.decision) : s.SectorsStay { s with tracker := .eraseHeld op h' } := by
  refine ⟨rfl, rfl, rfl, fun d hdec => ?_⟩
  have : h'.decision = some d := hdec
  exact (s.heldDecision_iff d).2 ⟨op, h, ht, hd ▸ this⟩

theorem State.releaseGuard_sectorsStay : s.SectorsStay s.releaseGuard := by
  unfold State.releaseGuard
  split
  · next op h ht => exact .ite (s.condition_sectorsStay ht rfl) (.refl s)
  · exact .refl s

theorem State.releaseHold_sectorsStay : s.SectorsStay s.releaseHold := by
  unfold State.releaseHold
  split
  · next op h ht => exact .ite (s.condition_sectorsStay ht rfl) (.refl s)
  · exact .refl s

/-- R61: the move of a discarded hold is made. -/
theorem State.discardHeld_keeps_sectors : s.KeepsSectors s.discardHeld := by
  refine ⟨fun hg => ?_⟩
  by_cases ht : ∃ op h, s.tracker = .eraseHeld op h
  · obtain ⟨op, h, ht⟩ := ht
    have hu : s.SectorsStay s.unheld := .of_free rfl fun _ _ => nofun
    rw [s.discardHeld_of_held ht]
    cases hdec : h.decision with
    | none => exact hu.keeps.good hg
    | some d =>
      refine (hu.keeps.good hg).moved (d := d) (fun hm => ?_) ?_ ?_ ?_ ?_
      · exact (hg.held d ((s.heldDecision_iff d).2 ⟨op, h, ht, hdec⟩) hm).of_eq hu.cfg hu.map hu.pool
      all_goals dsimp only; rw [State.stagingDiscarded_eq]
      rfl
  · rw [s.discardHeld_of_not_held fun op h e => ht ⟨op, h, e⟩]
    exact hg

/-! ### Steps of the record store (chapter 9) -/

theorem State.updStore_sectorsStay (f : Store → Store) : s.SectorsStay (s.updStore f) := .of_eq rfl

theorem State.completeRequest_sectorsStay : s.SectorsStay s.completeRequest := .ite (.of_eq rfl) (.refl s)

theorem State.recordWritten_sectorsStay : s.SectorsStay s.recordWritten := by
  unfold State.recordWritten
  split
  · exact ((s.updStore_sectorsStay _).trans (State.releaseHold_sectorsStay _)).trans
      (State.completeRequest_sectorsStay _)
  · exact .refl s

theorem State.rowWritten_sectorsStay : s.SectorsStay s.rowWritten := by
  unfold State.rowWritten
  split
  · exact (s.updStore_sectorsStay _).trans (State.completeRequest_sectorsStay _)
  · exact .refl s

theorem State.startCompaction_sectorsStay : s.SectorsStay s.startCompaction := by
  unfold State.startCompaction
  split
  · exact .ite (s.updStore_sectorsStay _) (s.updStore_sectorsStay _)
  · exact .refl s

theorem State.writeSnapshot_sectorsStay : s.SectorsStay s.writeSnapshot := by
  unfold State.writeSnapshot
  split
  · split
    · exact .ite (s.updStore_sectorsStay _) (.refl s)
    · exact s.updStore_sectorsStay _
    · exact .refl s
    · exact .refl s
  · exact .refl s

theorem State.storeStep_keeps {f : State → State} (h : ∀ u : State, u.SectorsStay (f u)) :
    s.KeepsSectors (s.storeStep f) := by
  unfold State.storeStep
  split
  · exact (s.begin_sectorsStay.trans (h _)).keeps
  · exact s.begin_sectorsStay.keeps

/-! ### Every command -/

/-- A verdict: the job ends, its outcome takes effect in the books, and the engine goes on. -/
theorem State.verdict_keeps {d : Drift} {j : Job} {t : State} (h : ((s.begin.drift d).endJob j).Books t)
    (hp : t.pool = ((s.begin.drift d).endJob j).pool) : s.KeepsSectors t.resettle :=
  (((s.begin_drift_sectorsStay d).trans ((State.endJob_books _).sectorsStay (State.endJob_pool ..))).trans
    ((h.sectorsStay hp).trans (State.resettle_sectorsStay _))).keeps

/-- The command answers a next state, whose map and pool are sound where they were. -/
def KeptBy (o : Host.Outcome State Fault Refusal) : Prop := ∃ t, o = .next t ∧ s.KeepsSectors t

theorem execRead_kept (tx : HostTxn) (len : Nat) (d : Drift) : KeptBy s (execRead tx len d s) :=
  ⟨_, rfl, State.SectorsStay.keeps
    (.ite ((s.begin_drift_sectorsStay d).trans (State.readRuns_sectorsStay ..)) s.begin_sectorsStay)⟩

theorem execStatusRead_kept (tx : HostTxn) (answers : List Byte) : KeptBy s (execStatusRead tx answers s) :=
  ⟨_, rfl, State.SectorsStay.keeps (.ite ((s.begin_sectorsStay.trans (State.send_sectorsStay ..)).trans
    (.foldl (fun u b => u.statusByte_sectorsStay b) answers _)) s.begin_sectorsStay)⟩

/-- A write that the port takes, or that it drops after its time has passed. -/
theorem State.write_keeps {u : State} {c : Prop} [Decidable c] (hu : s.SectorsStay u) (op : Byte) (a : Option Nat)
    {f : State → State} (hf : ∀ v : State, v.KeepsSectors (f v)) :
    s.KeepsSectors (if c then u.takeWrite op a f else u) := by
  split
  · exact hu.keeps.trans (u.takeWrite_keeps op a hf)
  · exact hu.keeps

theorem execHeldEraseForward_kept (e : Nat) (cut : SendCut) : KeptBy s (execHeldEraseForward e cut s) := by
  refine ⟨_, rfl, ?_⟩
  have hb := s.begin_tick_sectorsStay e
  split
  · next op h ht =>
    split
    · exact hb.keeps.trans (State.forwardHeld_keeps (s.begin.tick e) ht cut)
    · exact hb.keeps
  · exact hb.keeps

theorem execProgramEnd_kept (b : Byte) : KeptBy s (execProgramEnd b s) := by
  refine ⟨_, rfl, State.SectorsStay.keeps ?_⟩
  split
  · exact s.begin_sectorsStay.trans (State.observeEnd_sectorsStay _ b)
  · exact s.begin_sectorsStay

theorem execEraseEnd_kept (b : Byte) : KeptBy s (execEraseEnd b s) := by
  refine ⟨_, rfl, State.SectorsStay.keeps ?_⟩
  split
  · exact s.begin_sectorsStay.trans (State.observeEnd_sectorsStay _ b)
  · exact s.begin_sectorsStay

theorem execStatusPoll_kept (answers : List Byte) : KeptBy s (execStatusPoll answers s) :=
  ⟨_, rfl, State.SectorsStay.keeps (.ite ((s.begin_sectorsStay.trans (State.pollBytes_sectorsStay _ answers 0)).trans
    (State.send_sectorsStay ..)) s.begin_sectorsStay)⟩

theorem execPendingWriteDisable_kept (cut : Bool) : KeptBy s (execPendingWriteDisable cut s) := by
  refine ⟨_, rfl, State.SectorsStay.keeps (.ite ?_ s.begin_sectorsStay)⟩
  exact .ite (.of_eq rfl) (.of_eq rfl)

theorem execAdmissionVerdict_kept (d : Drift) : KeptBy s (execAdmissionVerdict d s) := by
  refine ⟨_, rfl, ?_⟩
  split
  · exact (s.begin_drift_sectorsStay d).keeps
  · exact s.verdict_keeps (State.admissionOutcome_books _) (State.admissionOutcome_pool ..)

theorem execReloadVerdict_kept (d : Drift) : KeptBy s (execReloadVerdict d s) := by
  refine ⟨_, rfl, ?_⟩
  split
  · exact (s.begin_drift_sectorsStay d).keeps
  · exact s.verdict_keeps (State.reloadOutcome_books _) (State.reloadOutcome_pool ..)

theorem execChunkVerdict_kept (d : Drift) : KeptBy s (execChunkVerdict d s) := by
  refine ⟨_, rfl, ?_⟩
  split
  · exact (s.begin_drift_sectorsStay d).keeps
  · exact s.verdict_keeps (State.chunkVerdict_books _) (State.chunkVerdict_pool ..)

theorem execPatrolVerdict_kept (d : Drift) : KeptBy s (execPatrolVerdict d s) := by
  refine ⟨_, rfl, ?_⟩
  split
  · exact (s.begin_drift_sectorsStay d).keeps
  · exact s.verdict_keeps (State.patrolVerdict_books _) (State.patrolVerdict_pool ..)

theorem execBootScanManifestVerdict_kept (d : Drift) : KeptBy s (execBootScanManifestVerdict d s) := by
  refine ⟨_, rfl, ?_⟩
  split
  · exact s.verdict_keeps (State.scanManifestVerdict_books _) (State.scanManifestVerdict_pool ..)
  · exact (s.begin_drift_sectorsStay d).keeps

theorem execBootScanChunkVerdict_kept (d : Drift) : KeptBy s (execBootScanChunkVerdict d s) := by
  refine ⟨_, rfl, ?_⟩
  split
  · exact s.verdict_keeps (State.scanChunkVerdict_books _) (State.scanChunkVerdict_pool ..)
  · exact (s.begin_drift_sectorsStay d).keeps

theorem execPatrolTick_kept (e : Nat) : KeptBy s (execPatrolTick e s) := by
  refine ⟨_, rfl, ?_⟩
  have hb := s.begin_tick_sectorsStay e
  split
  · refine State.SectorsStay.keeps (.ite ?_ hb)
    exact .trans (.of_eq rfl) ((State.patrolStep_books _).sectorsStay (State.patrolStep_pool _))
  · exact hb.keeps

theorem execHostResetSeen_kept : KeptBy s (execHostResetSeen s) := by
  refine ⟨_, rfl, ?_⟩
  split
  · exact .trans (t := { s.begin with hrstDriven := true, portOpen := false }) (State.SectorsStay.keeps (.of_eq rfl))
      ((State.discardHeld_keeps_sectors _).trans
        (((State.beginBoot_books _).sectorsStay (State.beginBoot_pool ..)).trans (State.resettle_sectorsStay _)).keeps)
  · exact s.begin_sectorsStay.keeps

theorem execResetInAssert_kept (b : Bool) : KeptBy s (execResetInAssert b s) := by
  refine ⟨_, rfl, ?_⟩
  split
  · exact s.begin_sectorsStay.keeps
  · exact s.partReset_keeps b

theorem execRequestNotCarried_kept (image : List Byte) : KeptBy s (execRequestNotCarried image s) := by
  refine ⟨_, rfl, ?_⟩
  split
  · exact .trans (t := { s.begin with echo := false }) (State.SectorsStay.keeps (.of_eq rfl))
      (State.judgeRecord_keeps _ image)
  · exact s.begin_sectorsStay.keeps

/-- Every command but STARTUP and FLASH_IDLE_WAIT_END keeps the map and the pool sound. -/
theorem exec_kept (c : Instr) (hc : c ≠ .startup ∧ ∀ answers, c ≠ .flashIdleWaitEnd answers) :
    KeptBy s (exec c s) := by
  have hb := s.begin_sectorsStay
  cases c with
  | read tx len d => exact execRead_kept s tx len d
  | statusRead tx answers => exact execStatusRead_kept s tx answers
  | program tx => exact ⟨_, rfl, s.write_keeps hb _ _ fun u => u.idleProgram_keeps ..⟩
  | eraseSector tx e cut =>
    exact ⟨_, rfl, s.write_keeps (s.begin_tick_sectorsStay e) _ _ fun u => u.idleEraseSector_keeps ..⟩
  | eraseLarge tx e cut =>
    exact ⟨_, rfl, s.write_keeps (s.begin_tick_sectorsStay e) _ _ fun u => u.idleEraseLarge_keeps ..⟩
  | eraseChip tx => exact ⟨_, rfl, s.write_keeps hb _ _ fun u => (u.refuseWrite_sectorsStay ..).keeps⟩
  | writeEnable tx => exact ⟨_, rfl, State.SectorsStay.keeps (.ite (.of_eq rfl) hb)⟩
  | writeDisable tx => exact ⟨_, rfl, State.SectorsStay.keeps (.ite (.of_eq rfl) hb)⟩
  | pass tx answers => exact ⟨_, rfl, State.SectorsStay.keeps (.ite (.of_eq rfl) hb)⟩
  | block tx len => exact ⟨_, rfl, State.SectorsStay.keeps (.ite (.of_eq rfl) hb)⟩
  | transactionDropped tx => exact ⟨_, rfl, hb.keeps⟩
  | activate | confirm | abandon | discard | clearStaging | setSlotCode | logFree | ackAlert | reload | keyWrite
  | keyRevoke | targetWrite | configWrite | lock | factoryClear => exact ⟨_, rfl, s.requestRow_keeps rfl⟩
  | requestNotCarried image => exact execRequestNotCarried_kept s image
  | programEnd b => exact execProgramEnd_kept s b
  | eraseEnd b => exact execEraseEnd_kept s b
  | statusPoll answers => exact execStatusPoll_kept s answers
  | pendingWriteDisable cut => exact execPendingWriteDisable_kept s cut
  | guardRelease e => exact ⟨_, rfl, ((s.begin_tick_sectorsStay e).trans (State.releaseGuard_sectorsStay _)).keeps⟩
  | heldEraseForward e cut => exact execHeldEraseForward_kept s e cut
  | verifyRead n d =>
    exact ⟨_, rfl, ((s.begin_drift_sectorsStay d).trans
      ((State.verifyRead_books _).sectorsStay (State.verifyRead_pool ..))).keeps⟩
  | admissionVerdict d => exact execAdmissionVerdict_kept s d
  | reloadVerdict d => exact execReloadVerdict_kept s d
  | chunkVerdict d => exact execChunkVerdict_kept s d
  | patrolTick e => exact execPatrolTick_kept s e
  | patrolVerdict d => exact execPatrolVerdict_kept s d
  | hostResetSeen => exact execHostResetSeen_kept s
  | bootScanManifestVerdict d => exact execBootScanManifestVerdict_kept s d
  | bootScanChunkVerdict d => exact execBootScanChunkVerdict_kept s d
  | hrstRelease e =>
    exact ⟨_, rfl, State.SectorsStay.keeps
      (.ite ((s.begin_tick_sectorsStay e).trans (.of_eq rfl)) (s.begin_tick_sectorsStay e))⟩
  | recordWriteBegin => exact ⟨_, rfl, s.storeStep_keeps fun u => u.updStore_sectorsStay _⟩
  | recordWriteEnd => exact ⟨_, rfl, s.storeStep_keeps fun u => u.recordWritten_sectorsStay⟩
  | rowWriteBegin => exact ⟨_, rfl, s.storeStep_keeps fun u => u.updStore_sectorsStay _⟩
  | rowWriteEnd => exact ⟨_, rfl, s.storeStep_keeps fun u => u.rowWritten_sectorsStay⟩
  | compactionStart => exact ⟨_, rfl, s.storeStep_keeps fun u => u.startCompaction_sectorsStay⟩
  | snapshotRecordWrite => exact ⟨_, rfl, s.storeStep_keeps fun u => u.writeSnapshot_sectorsStay⟩
  | halfEraseEnd half => exact ⟨_, rfl, s.storeStep_keeps fun u => u.updStore_sectorsStay _⟩
  | powerOn b => exact ⟨_, rfl, s.partReset_keeps b⟩
  | resetInAssert b => exact execResetInAssert_kept s b
  | startup => exact absurd rfl hc.1
  | flashIdleWaitEnd answers => exact absurd rfl (hc.2 answers)
  | powerLoss b => exact ⟨_, rfl, (s.partReset_keeps b).trans (State.SectorsStay.keeps (.of_eq rfl))⟩
  | hrstNSeenHigh => exact ⟨_, rfl, State.SectorsStay.keeps (.ite (.of_eq rfl) hb)⟩

end

/-- Settles O6: a step is the front command's, and none but the two of a start-up takes the map from elsewhere. -/
theorem mapKept : Obligations.MapKept := by
  intro s hs hwf hc t' ht'
  obtain ⟨hspares, hheld⟩ := s.mapSound_iff.1 hs
  have hgood : s.SectorsGood := ⟨hspares, hheld, hwf.2.1⟩
  unfold step at ht'
  split at ht'
  · cases ht'
    exact hs
  · next c rest hp =>
    obtain ⟨t, ht, hkeep⟩ := exec_kept { s with pending := rest } c (hc c (by rw [hp]; rfl))
    cases ht.symm.trans ht'
    have hgood' : State.SectorsGood { s with pending := rest } :=
      (State.SectorsStay.of_eq (s := s) (t := { s with pending := rest }) rfl).keeps.good hgood
    obtain ⟨hsp, hh, -⟩ := hkeep.good hgood'
    exact t'.mapSound_iff.2 ⟨hsp, hh⟩

end Sys2Proof.Machine
end

section
/-! Replay of a journal half (9.6): which half is chosen, which records it gives, and what the last record that names a
subject leaves of it. -/

namespace Sys2Proof.Machine

open Sys2Proof

/-! ### The records of a half (R144, R153) -/

/-- The record at a position of a half, if one lies there and passes its check. -/
def readAt (cells : List RecCell) (q : Nat) : Option Record := cells[q]?.bind RecCell.readable

/-- The sequence number of the record at position 0. -/
def firstNumber (cells : List RecCell) : Word := ((readAt cells 0).map Record.seq).getD 0

/-- Records that pass their checks, with the sequence numbers from `e` on, lie at positions 0 to n − 1. -/
def RunsFrom (e : Word) (cells : List RecCell) (n : Nat) : Prop :=
  ∀ q, q < n → ∃ r, readAt cells q = some r ∧ r.seq = e + BitVec.ofNat 32 q

theorem readAt_cons_zero (c : RecCell) (t : List RecCell) : readAt (c :: t) 0 = c.readable := rfl

theorem readAt_cons_succ (c : RecCell) (t : List RecCell) (q : Nat) : readAt (c :: t) (q + 1) = readAt t q := rfl

theorem RunsFrom.succ_iff {e : Word} {c : RecCell} {t : List RecCell} {n : Nat} :
    RunsFrom e (c :: t) (n + 1) ↔ (∃ r, c.readable = some r ∧ r.seq = e) ∧ RunsFrom (e + 1) t n := by
  have hnum (q : Nat) : e + BitVec.ofNat 32 (q + 1) = e + 1 + BitVec.ofNat 32 q := by
    rw [Nat.add_comm q 1, BitVec.ofNat_add, ← BitVec.add_assoc]
    rfl
  constructor
  · intro h
    refine ⟨by simpa [readAt_cons_zero] using h 0 (by omega), fun q hq => ?_⟩
    rw [← hnum, ← readAt_cons_succ c]
    exact h (q + 1) (by omega)
  · rintro ⟨h0, h⟩ q hq
    cases q with
    | zero => simpa [readAt_cons_zero] using h0
    | succ q =>
      rw [readAt_cons_succ, hnum]
      exact h q (by omega)

/-- The run that replay reads is as long as records follow one another. -/
theorem le_length_journalRun_iff (e : Word) (cells : List RecCell) (n : Nat) :
    n ≤ (journalRun e cells).length ↔ RunsFrom e cells n := by
  induction cells generalizing e n with
  | nil =>
    cases n with
    | zero => exact ⟨fun _ _ h => absurd h (Nat.not_lt_zero _), fun _ => Nat.zero_le _⟩
    | succ n =>
      refine ⟨fun h => absurd h (by simp [journalRun]), fun h => ?_⟩
      obtain ⟨r, hr, -⟩ := h 0 (by omega)
      cases hr
  | cons c t ih =>
    cases n with
    | zero => exact ⟨fun _ _ h => absurd h (Nat.not_lt_zero _), fun _ => Nat.zero_le _⟩
    | succ n =>
      rw [RunsFrom.succ_iff, ← ih, journalRun]
      cases c.readable with
      | none => simp
      | some r =>
        by_cases hr : r.seq = e
        · simp [hr]
        · simp [hr]

/-- What replay reads is what lies at the positions of the run. -/
theorem getElem?_journalRun (e : Word) (cells : List RecCell) {q : Nat} (h : q < (journalRun e cells).length) :
    (journalRun e cells)[q]? = readAt cells q := by
  induction cells generalizing e q with
  | nil => exact absurd h (Nat.not_lt_zero _)
  | cons c t ih =>
    unfold journalRun at h ⊢
    cases hc : c.readable with
    | none => simp [hc] at h
    | some r =>
      simp only [hc] at h ⊢
      split at h
      · next hr =>
        rw [if_pos hr]
        cases q with
        | zero => rw [readAt_cons_zero, hc]; rfl
        | succ q => exact ih _ (by simpa using h)
      · simp at h

theorem halfRecords_eq (cells : List RecCell) : halfRecords cells = journalRun (firstNumber cells) cells := by
  cases cells with
  | nil => rfl
  | cons c t =>
    rw [halfRecords, journalRun, firstNumber, readAt_cons_zero]
    cases c.readable with
    | none => rfl
    | some r => simp

theorem le_length_halfRecords_iff (cells : List RecCell) (n : Nat) :
    n ≤ (halfRecords cells).length ↔ RunsFrom (firstNumber cells) cells n := by
  rw [halfRecords_eq, le_length_journalRun_iff]

theorem getElem?_halfRecords {cells : List RecCell} {q : Nat} (h : q < (halfRecords cells).length) :
    (halfRecords cells)[q]? = readAt cells q := by
  rw [halfRecords_eq] at h ⊢
  exact getElem?_journalRun _ _ h

/-- A run that ends before position `n` gives `n` records. -/
theorem length_halfRecords {cells : List RecCell} {n : Nat} (h : RunsFrom (firstNumber cells) cells n)
    (hn : ¬ RunsFrom (firstNumber cells) cells (n + 1)) : (halfRecords cells).length = n := by
  rw [← le_length_halfRecords_iff] at h hn
  omega

theorem firstSeq_eq (cells : List RecCell) : firstSeq cells = firstNumber cells := by
  rw [firstSeq, firstNumber, readAt]
  cases cells with
  | nil => rfl
  | cons c t =>
    rw [halfRecords]
    simp only [List.getElem?_cons_zero, Option.bind_some]
    cases c.readable <;> rfl

/-! ### A valid half (R153) -/

theorem endsSnapshot_iff (pos : Nat) (l : List Record) :
    endsSnapshot pos l = true ↔ ∃ e : Nat, (∃ r, l[e]? = some r ∧ r.payload = .snapEnd (pos + e + 1)) ∧
      ∀ (q : Nat) (r : Record) (c : Nat), q < e → l[q]? = some r → r.payload ≠ .snapEnd c := by
  induction l generalizing pos with
  | nil => simp [endsSnapshot]
  | cons a t ih =>
    unfold endsSnapshot
    split
    · next count hp =>
      simp only [beq_iff_eq]
      constructor
      · intro h
        exact ⟨0, ⟨a, rfl, by rw [hp, h]⟩, fun q r c hq => absurd hq (Nat.not_lt_zero _)⟩
      · rintro ⟨e, ⟨r, hr, hre⟩, hmin⟩
        cases e with
        | zero =>
          cases hr
          rw [hp] at hre
          cases hre
          rfl
        | succ e => exact absurd hp (hmin 0 a count (by omega) rfl)
    · next hp =>
      rw [ih]
      constructor
      · rintro ⟨e, ⟨r, hr, hre⟩, hmin⟩
        refine ⟨e + 1, ⟨r, hr, hre.trans (by congr 1; omega)⟩, fun q r' c hq hr' => ?_⟩
        cases q with
        | zero =>
          cases hr'
          exact hp c
        | succ q => exact hmin q r' c (by omega) hr'
      · rintro ⟨e, ⟨r, hr, hre⟩, hmin⟩
        cases e with
        | zero =>
          cases hr
          exact absurd hre (hp _)
        | succ e =>
          exact ⟨e, ⟨r, hr, hre.trans (by congr 1; omega)⟩,
            fun q r' c hq hr' => hmin (q + 1) r' c (by omega) hr'⟩

/-- R153: a half is valid when its run begins with SNAP_BEGIN and holds a SNAP_END, the first of them with its own position
plus 1. -/
def SnapshotWhole (cells : List RecCell) : Prop :=
  (∃ r a b c, readAt cells 0 = some r ∧ r.payload = .snapBegin a b c) ∧
  ∃ e, 0 < e ∧ RunsFrom (firstNumber cells) cells (e + 1) ∧
    (∃ r, readAt cells e = some r ∧ r.payload = .snapEnd (e + 1)) ∧
    ∀ q r c, 0 < q → q < e → readAt cells q = some r → r.payload ≠ .snapEnd c

theorem validHalf_cons {cells : List RecCell} {a : Record} {t : List Record} (h : halfRecords cells = a :: t) :
    validHalf cells = true ↔ (∃ x y z, a.payload = .snapBegin x y z) ∧ endsSnapshot 1 t = true := by
  rw [validHalf_of cells _ h, Bool.and_eq_true]
  refine and_congr_left fun _ => ?_
  cases a.payload <;> simp

theorem validHalf_iff (cells : List RecCell) : validHalf cells = true ↔ SnapshotWhole cells := by
  cases hrecs : halfRecords cells with
  | nil =>
    refine ⟨fun h => ?_, fun h => ?_⟩
    · rw [validHalf_of cells _ hrecs] at h
      cases h
    · obtain ⟨-, e, -, hrun, -⟩ := h
      have := (le_length_halfRecords_iff cells (e + 1)).2 hrun
      rw [hrecs] at this
      exact absurd this (by simp)
  | cons a t =>
    have hread {q : Nat} (hq : q < t.length + 1) : readAt cells q = (a :: t)[q]? := by
      rw [← hrecs]
      exact (getElem?_halfRecords (by rw [hrecs]; exact hq)).symm
    have hrun (n : Nat) : RunsFrom (firstNumber cells) cells n ↔ n ≤ t.length + 1 := by
      rw [← le_length_halfRecords_iff, hrecs]
      rfl
    rw [validHalf_cons hrecs, endsSnapshot_iff, SnapshotWhole, hread (by omega)]
    refine and_congr ⟨?_, ?_⟩ ⟨?_, ?_⟩
    · rintro ⟨x, y, z, h⟩
      exact ⟨a, x, y, z, rfl, h⟩
    · rintro ⟨r, x, y, z, hr, h⟩
      cases hr
      exact ⟨x, y, z, h⟩
    · rintro ⟨e, ⟨r, hr, hre⟩, hmin⟩
      have he : e < t.length := (List.getElem?_eq_some_iff.1 hr).1
      refine ⟨e + 1, by omega, (hrun _).2 (by omega), ⟨r, (hread (by omega)).trans hr, hre.trans ?_⟩,
        fun q r' c h0 hq hr' => ?_⟩
      · congr 1
        omega
      · obtain ⟨q, rfl⟩ : ∃ p, q = p + 1 := ⟨q - 1, by omega⟩
        exact hmin q r' c (by omega) ((hread (by omega)).symm.trans hr')
    · rintro ⟨e, h0, he, ⟨r, hr, hre⟩, hmin⟩
      obtain ⟨e, rfl⟩ : ∃ p, e = p + 1 := ⟨e - 1, by omega⟩
      have hlen := (hrun _).1 he
      refine ⟨e, ⟨r, (hread (by omega)).symm.trans hr, hre.trans ?_⟩, fun q r' c hq hr' => ?_⟩
      · congr 1
        omega
      · exact hmin (q + 1) r' c (by omega) (by omega) ((hread (by omega)).trans hr')

/-! ### The half that replay chooses (R153) -/

theorem later_iff (a b : Word) : later a b = true ↔ a ≠ b ∧ (a - b).toNat < 2147483648 := by
  simp [later]

/-- R144: of two sequence numbers one at most is the later. -/
theorem later_asymm {a b : Word} (h : later a b = true) : later b a = false := by
  rw [later_iff] at h
  obtain ⟨hne, hlt⟩ := h
  rw [← Bool.not_eq_true, later_iff]
  rintro ⟨-, hlt'⟩
  have : a.toNat ≠ b.toNat := fun e => hne (BitVec.eq_of_toNat_eq e)
  rw [BitVec.toNat_sub] at hlt hlt'
  have := a.isLt
  have := b.isLt
  omega

theorem Store.chosenHalf_of_none {st : Store} (h0 : ¬ SnapshotWhole st.half0.cells)
    (h1 : ¬ SnapshotWhole st.half1.cells) : st.chosenHalf = none := by
  rw [← validHalf_iff, Bool.not_eq_true] at h0 h1
  simp only [Store.chosenHalf, h0, h1]

/-- R153: the valid half whose records are the later, where both are valid. -/
theorem Store.chosenHalf_of_later {st : Store} {h : Half} (hv : SnapshotWhole (st.half h).cells)
    (ho : SnapshotWhole (st.half (otherHalf h)).cells →
      later (firstNumber (st.half h).cells) (firstNumber (st.half (otherHalf h)).cells) = true) :
    st.chosenHalf = some h := by
  simp only [← validHalf_iff, ← firstSeq_eq] at hv ho
  cases h with
  | h0 =>
    cases h1 : validHalf st.half1.cells with
    | false => simp only [Store.chosenHalf, show validHalf st.half0.cells = true from hv, h1]
    | true =>
      have hl : later (firstSeq st.half1.cells) (firstSeq st.half0.cells) = false := later_asymm (ho h1)
      simp only [Store.chosenHalf, show validHalf st.half0.cells = true from hv, h1, hl]
      rfl
  | h1 =>
    cases h0 : validHalf st.half0.cells with
    | false => simp only [Store.chosenHalf, show validHalf st.half1.cells = true from hv, h0]
    | true =>
      have hl : later (firstSeq st.half1.cells) (firstSeq st.half0.cells) = true := ho h0
      simp only [Store.chosenHalf, show validHalf st.half1.cells = true from hv, h0, hl]
      rfl

/-- R154: replay ends at a torn record when the position behind its run is not blank. -/
theorem tornAfter_iff (cells : List RecCell) :
    tornAfter cells = true ↔ cells[(halfRecords cells).length]?.getD .blank ≠ .blank := by
  rw [← List.head?_drop, tornAfter]
  cases cells.drop (halfRecords cells).length <;> simp

end Sys2Proof.Machine
end

section
/-! What replay gives (9.6): the effect of a record, the last record that names a subject, and what of the state replay
touches. -/

namespace Sys2Proof.Machine

open Sys2Proof

/-! ### The last that tells -/

theorem foldl_of_untold {σ ρ α : Type} {f : σ → ρ → σ} {I : σ → Prop} {view : σ → α} {told : ρ → Option α}
    (l : List ρ) (hI : ∀ s r, r ∈ l → I s → I (f s r))
    (hv : ∀ s r, r ∈ l → I s → view (f s r) = (told r).getD (view s)) {s : σ} (hs : I s)
    (hl : ∀ r ∈ l, told r = none) : view (l.foldl f s) = view s := by
  induction l generalizing s with
  | nil => rfl
  | cons r l ih =>
    have hr : r ∈ r :: l := List.mem_cons_self ..
    have hstep : view (f s r) = view s := by rw [hv s r hr hs, hl r hr, Option.getD_none]
    exact (ih (fun u x hx => hI u x (List.mem_cons_of_mem _ hx)) (fun u x hx => hv u x (List.mem_cons_of_mem _ hx))
      (hI s r hr hs) fun x hx => hl x (List.mem_cons_of_mem _ hx)).trans hstep

/-- After a run of steps, what they tell of one subject is what the last step that tells of it tells. -/
theorem foldl_of_last {σ ρ α : Type} {f : σ → ρ → σ} {I : σ → Prop} {view : σ → α} {told : ρ → Option α}
    (l : List ρ) (hI : ∀ s r, r ∈ l → I s → I (f s r))
    (hv : ∀ s r, r ∈ l → I s → view (f s r) = (told r).getD (view s)) {s : σ} (hs : I s) {q : Nat} {r : ρ} {v : α}
    (hq : l[q]? = some r) (hr : told r = some v) (hlast : ∀ q' r', q < q' → l[q']? = some r' → told r' = none) :
    view (l.foldl f s) = v := by
  induction l generalizing s q with
  | nil => cases hq
  | cons x l ih =>
    have hx : x ∈ x :: l := List.mem_cons_self ..
    have hI' : ∀ u y, y ∈ l → I u → I (f u y) := fun u y hy => hI u y (List.mem_cons_of_mem _ hy)
    have hv' : ∀ u y, y ∈ l → I u → view (f u y) = (told y).getD (view u) :=
      fun u y hy => hv u y (List.mem_cons_of_mem _ hy)
    rw [List.foldl_cons]
    cases q with
    | zero =>
      cases hq
      refine (foldl_of_untold l hI' hv' (hI s r hx hs) fun y hy => ?_).trans (by rw [hv s r hx hs, hr, Option.getD_some])
      obtain ⟨k, hk⟩ := List.getElem?_of_mem hy
      exact hlast (k + 1) y (by omega) hk
    | succ q => exact ih hI' hv' (hI s x hx hs) hq fun q' r' hqq hr' => hlast (q' + 1) r' (by omega) hr'

/-- What a run of consecutive keys, stored one after the other, leaves at a key. -/
theorem foldl_store_zipIdx {α β : Type} {store : Nat → α → β → β} {look : β → Nat → α} {good : β → Prop}
    (hgood : ∀ m k x, good m → good (store k x m)) (hsame : ∀ m k x, good m → look (store k x m) k = x)
    (hne : ∀ m k k' x, k' ≠ k → look (store k x m) k' = look m k') (base : Nat) (xs : List α) (k : Nat) {m : β}
    (hm : good m) (j : Nat) :
    good ((xs.zipIdx k).foldl (fun m x => store (base + x.2) x.1 m) m) ∧
    look ((xs.zipIdx k).foldl (fun m x => store (base + x.2) x.1 m) m) j =
      (if base + k ≤ j then xs[j - (base + k)]? else none).getD (look m j) := by
  induction xs generalizing k m with
  | nil => exact ⟨hm, by simp⟩
  | cons x xs ih =>
    rw [List.zipIdx_cons, List.foldl_cons]
    obtain ⟨hg, hl⟩ := ih (k + 1) (hgood m (base + k) x hm)
    refine ⟨hg, hl.trans ?_⟩
    by_cases hj : j = base + k
    · subst hj
      rw [if_neg (by omega), if_pos (Nat.le_refl _), hsame m _ _ hm]
      simp
    · rw [hne m _ _ _ hj]
      by_cases hle : base + k ≤ j
      · rw [if_pos (by omega), if_pos hle, show j - (base + k) = j - (base + (k + 1)) + 1 by omega]
        rfl
      · rw [if_neg (by omega), if_neg hle]

/-! ### What a record tells (9.3, R154) -/

/-- The physical sector that a record gives a logical sector. -/
def Payload.mapsTo (l : Nat) : Payload → Option Nat
  | .map l' p => if l' = l then some p else none
  | .mapGroup l0 ps => if l0 ≤ l then ps[l - l0]? else none
  | _ => none

/-- The health that a record gives a physical sector. -/
def Payload.ratesAs (p : Nat) : Payload → Option Health
  | .health p' x => if p' = p then some x else none
  | .healthGroup p0 xs => if p0 ≤ p then xs[p - p0]? else none
  | _ => none

/-- The dynamic fields that a record gives a target. -/
def Payload.dynOf (t : Nat) : Payload → Option TargetDyn
  | .target t' d => if t' = t then some d else none
  | _ => none

/-- The image that a record gives a slot. -/
def Payload.imageOf (i : Nat) : Payload → Option SlotImage
  | .slot i' m => if i' = i then some m else none
  | _ => none

/-- The slot code that a record carries. -/
def Payload.codeOf : Payload → Option Nat
  | .slotCode c => some c
  | _ => none

section
variable (s : State) (r : Record)

theorem State.applyRecord_map (hwf : tableWf (fun l => l) s.map = true) (l : Nat) :
    tableWf (fun l => l) (s.applyRecord r).map = true ∧
      (s.applyRecord r).physical l = (r.payload.mapsTo l).getD (s.physical l) := by
  unfold State.applyRecord State.physical
  cases r.payload with
  | map l' p =>
    refine ⟨mapStore_wf hwf .., ?_⟩
    simp only [Payload.mapsTo]
    split
    · next h => subst h; exact mapLookup_mapStore_same hwf ..
    · next h => exact mapLookup_mapStore_ne s.map (Ne.symm h) _
  | mapGroup l0 ps =>
    have h := foldl_store_zipIdx (store := mapStore) (look := mapLookup) (good := fun m => tableWf (fun l => l) m = true)
      (fun m k x hm => mapStore_wf hm k x) (fun m k x hm => mapLookup_mapStore_same hm k x)
      (fun m k k' x hk => mapLookup_mapStore_ne m hk x) l0 ps 0 hwf l
    exact h
  | slot i m =>
    dsimp only
    split <;> exact ⟨hwf, rfl⟩
  | _ => exact ⟨hwf, rfl⟩

theorem State.applyRecord_health (hwf : tableWf (fun _ => Health.blank) s.health = true) (p : Nat) :
    tableWf (fun _ => Health.blank) (s.applyRecord r).health = true ∧
      (s.applyRecord r).healthOf p = (r.payload.ratesAs p).getD (s.healthOf p) := by
  unfold State.applyRecord State.healthOf
  cases r.payload with
  | health p' x =>
    refine ⟨healthStore_wf hwf .., ?_⟩
    simp only [Payload.ratesAs]
    split
    · next h => subst h; exact healthLookup_healthStore_same hwf ..
    · next h => exact healthLookup_healthStore_ne s.health (Ne.symm h) _
  | healthGroup p0 xs =>
    have h := foldl_store_zipIdx (store := healthStore) (look := healthLookup)
      (good := fun m => tableWf (fun _ => Health.blank) m = true)
      (fun m k x hm => healthStore_wf hm k x) (fun m k x hm => healthLookup_healthStore_same hm k x)
      (fun m k k' x hk => healthLookup_healthStore_ne m hk x) p0 xs 0 hwf p
    exact h
  | slot i m =>
    dsimp only
    split <;> exact ⟨hwf, rfl⟩
  | _ => exact ⟨hwf, rfl⟩

theorem State.applyRecord_dynAt {t : Nat} (ht : t < s.targets.length) :
    (s.applyRecord r).targets.length = s.targets.length ∧
      (s.applyRecord r).dynAt t = (r.payload.dynOf t).getD (s.dynAt t) := by
  unfold State.applyRecord
  cases r.payload with
  | target t' d =>
    refine ⟨List.length_modify .., ?_⟩
    rw [State.dynAt_updDyn]
    by_cases h : t' = t <;> simp [Payload.dynOf, h, ht]
  | slot i m =>
    dsimp only
    split <;> exact ⟨rfl, rfl⟩
  | _ => exact ⟨rfl, rfl⟩

theorem State.applyRecord_code : (s.applyRecord r).code = r.payload.codeOf.getD s.code := by
  unfold State.applyRecord
  cases r.payload with
  | slot i m =>
    dsimp only
    split <;> rfl
  | _ => rfl

/-- R154: a record other than SLOT_CODE leaves the slots in their number, and changes the one it names. -/
theorem State.applyRecord_slotAt {c i : Nat} (hr : r.payload.codeOf = none) (hc : s.code = c ∧ s.slots.length = 2 ^ c)
    (hi : i < 2 ^ c) :
    ((s.applyRecord r).code = c ∧ (s.applyRecord r).slots.length = 2 ^ c) ∧
      (s.applyRecord r).slotAt i = ((r.payload.imageOf i).map SlotImage.toSlot).getD (s.slotAt i) := by
  obtain ⟨hc, hlen⟩ := hc
  unfold State.applyRecord
  cases hp : r.payload with
  | slotCode c' => rw [hp] at hr; cases hr
  | slot j m =>
    dsimp only
    split
    · refine ⟨⟨hc, (s.slots_length_updSlot ..).trans hlen⟩, ?_⟩
      rw [State.slotAt_updSlot]
      by_cases h : j = i <;> simp [Payload.imageOf, h, hlen, hi]
    · next hj =>
      have : j ≠ i := fun h => hj (by rw [h, State.slotCount, hc]; exact hi)
      simp [Payload.imageOf, this, hc, hlen]
  | _ => exact ⟨⟨hc, hlen⟩, rfl⟩

end

/-! ### A run of records -/

/-- Record `q` of a run carries a payload. -/
def Carries (recs : List Record) (q : Nat) (x : Payload) : Prop := recs[q]?.map Record.payload = some x

theorem Carries.iff {recs : List Record} {q : Nat} {x : Payload} :
    Carries recs q x ↔ ∃ r, recs[q]? = some r ∧ r.payload = x := by
  simp [Carries]

/-- The last record that tells of a subject decides what a run leaves of it. -/
theorem foldl_applyRecord_of_last {α : Type} {I : State → Prop} {view : State → α} {told : Payload → Option α}
    (recs : List Record) (hstep : ∀ s r, r ∈ recs → I s →
      I (s.applyRecord r) ∧ view (s.applyRecord r) = (told r.payload).getD (view s)) {s : State} (hs : I s) {q : Nat}
    {x : Payload} {v : α} (hq : Carries recs q x) (hx : told x = some v)
    (hlast : ∀ q' y, q < q' → Carries recs q' y → told y = none) : view (recs.foldl State.applyRecord s) = v := by
  obtain ⟨r, hr, rfl⟩ := Carries.iff.1 hq
  exact foldl_of_last (told := fun r => told r.payload) recs (fun u x hx hu => (hstep u x hx hu).1)
    (fun u x hx hu => (hstep u x hx hu).2) hs hr hx fun q' r' hqq hr' => hlast q' _ hqq (Carries.iff.2 ⟨r', hr', rfl⟩)

theorem foldl_applyRecord_inv {I : State → Prop} (recs : List Record)
    (hstep : ∀ s r, r ∈ recs → I s → I (s.applyRecord r)) {s : State} (hs : I s) : I (recs.foldl State.applyRecord s) :=
  List.foldlRecOn recs _ hs fun u hu r hr => hstep u r hr hu

section
variable {s : State} {recs : List Record} {q : Nat} {x : Payload}

theorem replayed_physical (hwf : tableWf (fun l => l) s.map = true) {l p : Nat} (hq : Carries recs q x)
    (hx : x.mapsTo l = some p) (hlast : ∀ q' y, q < q' → Carries recs q' y → y.mapsTo l = none) :
    (recs.foldl State.applyRecord s).physical l = p :=
  foldl_applyRecord_of_last (view := fun u => u.physical l) recs (fun u r _ hu => u.applyRecord_map r hu l) hwf hq hx hlast

theorem replayed_healthOf (hwf : tableWf (fun _ => Health.blank) s.health = true) {p : Nat} {h : Health}
    (hq : Carries recs q x) (hx : x.ratesAs p = some h)
    (hlast : ∀ q' y, q < q' → Carries recs q' y → y.ratesAs p = none) :
    (recs.foldl State.applyRecord s).healthOf p = h :=
  foldl_applyRecord_of_last (view := fun u => u.healthOf p) recs (fun u r _ hu => u.applyRecord_health r hu p) hwf hq hx
    hlast

theorem replayed_dynAt {t : Nat} {d : TargetDyn} (ht : t < s.targets.length) (hq : Carries recs q x)
    (hx : x.dynOf t = some d) (hlast : ∀ q' y, q < q' → Carries recs q' y → y.dynOf t = none) :
    (recs.foldl State.applyRecord s).dynAt t = d := by
  refine foldl_applyRecord_of_last (I := fun u => t < u.targets.length) (view := fun u => u.dynAt t) recs
    (fun u r _ hu => ?_) ht hq hx hlast
  obtain ⟨hlen, hdyn⟩ := u.applyRecord_dynAt r hu
  exact ⟨hlen ▸ hu, hdyn⟩

theorem replayed_code {c : Nat} (hq : Carries recs q x) (hx : x.codeOf = some c)
    (hlast : ∀ q' y, q < q' → Carries recs q' y → y.codeOf = none) : (recs.foldl State.applyRecord s).code = c :=
  foldl_applyRecord_of_last (I := fun _ => True) (view := State.code) recs
    (fun u r _ _ => ⟨trivial, u.applyRecord_code r⟩) trivial hq hx hlast

/-- R154: behind the last SLOT_CODE record, the last SLOT record of a slot decides it. -/
theorem replayed_slotAt {q0 c i : Nat} {m : SlotImage} (h0 : Carries recs q0 (.slotCode c))
    (hlast0 : ∀ q' y, q0 < q' → Carries recs q' y → y.codeOf = none) (hlt : q0 < q) (hi : i < 2 ^ c)
    (hq : Carries recs q (.slot i m)) (hlast : ∀ q' y, q < q' → Carries recs q' y → y.imageOf i = none) :
    (recs.foldl State.applyRecord s).slotAt i = m.toSlot := by
  obtain ⟨r0, hr0, hp0⟩ := Carries.iff.1 h0
  have hdrop (k : Nat) : (recs.drop (q0 + 1))[k]? = recs[q0 + 1 + k]? := List.getElem?_drop
  have hsplit : recs = recs.take q0 ++ r0 :: recs.drop (q0 + 1) := by
    obtain ⟨hlen, he⟩ := List.getElem?_eq_some_iff.1 hr0
    rw [← he, ← List.drop_eq_getElem_cons hlen, List.take_append_drop]
  rw [hsplit, List.foldl_append, List.foldl_cons]
  generalize (recs.take q0).foldl State.applyRecord s = u
  have hu : (u.applyRecord r0).code = c ∧ (u.applyRecord r0).slots.length = 2 ^ c := by
    simp [State.applyRecord, hp0]
  refine foldl_applyRecord_of_last (I := fun v => v.code = c ∧ v.slots.length = 2 ^ c)
    (view := fun v => v.slotAt i) (told := fun y => (y.imageOf i).map SlotImage.toSlot) (q := q - (q0 + 1))
    (x := .slot i m) _ (fun v r hr hv => ?_) hu ?_ ?_ fun q' y hqq hy => ?_
  · obtain ⟨k, hk⟩ := List.getElem?_of_mem hr
    rw [hdrop] at hk
    exact v.applyRecord_slotAt r (hlast0 _ _ (by omega) (Carries.iff.2 ⟨r, hk, rfl⟩)) hv hi
  · rw [Carries, hdrop, show q0 + 1 + (q - (q0 + 1)) = q by omega]
    exact hq
  · simp [Payload.imageOf]
  · rw [Carries, hdrop] at hy
    rw [hlast _ y (by omega) hy, Option.map_none]

end

end Sys2Proof.Machine
end

section
/-! The end of the wait for an idle flash (R184), and the shape of what replay leaves (R153 to R155). -/

namespace Sys2Proof.Machine

open Sys2Proof

/-! ### The wait (R184) -/

/-- The part as the end of the wait finds it: running, with what the status read left on the memory side and in the
flash. -/
def State.awake (m : List MemTxn) (f : Flash) (k : Nat) (s : State) : State :=
  { s with phase := .running, hostOut := [], memOut := m, flash := f, freeCount := k }

section
variable {s : State} {answer : Byte}

theorem State.flashObserved_awake (s : State) (b : Byte) :
    ∃ f k, s.flashObserved b = { s with flash := f, freeCount := k } := by
  unfold State.flashObserved
  split
  · exact ⟨_, _, rfl⟩
  · split
    · exact ⟨_, _, rfl⟩
    · exact ⟨_, _, rfl⟩

theorem State.flashAnswer_of_heeded (h : s.flash.ignored = false) : s.begin.flashAnswer answer = answer := by
  simp [State.flashAnswer, State.begin, h]

theorem exec_flashIdleWaitEnd_of_idle (hp : s.phase = .idleWait) (hi : s.flash.ignored = false)
    (hb : s.cfg.busy answer = false) :
    ∃ m f k, exec (.flashIdleWaitEnd [answer]) s = .next (s.awake m f k).afterIdleWait := by
  obtain ⟨f, k, hf⟩ := s.begin.flashObserved_awake answer
  refine ⟨[ownTxn (firstOfClass s.cfg.profile .statusRead) none 1 false], f, k, congrArg Host.Outcome.next ?_⟩
  have hbytes : State.idleBytes [answer] 0 s.begin = (1, true, { s.begin with flash := f, freeCount := k }) := by
    simp only [State.idleBytes, State.flashAnswer_of_heeded hi, hf, show s.begin.cfg.busy answer = false from hb]
    rfl
  rw [if_pos hp]
  simp only [hbytes, if_true]
  refine congrArg State.afterIdleWait ?_
  rfl

theorem exec_flashIdleWaitEnd_of_busy (hp : s.phase = .idleWait) (hi : s.flash.ignored = false) {op : FlashOp}
    (ho : s.flash.op = some op) (hb : s.cfg.busy answer = true) :
    exec (.flashIdleWaitEnd [answer]) s = .next { s with
      hostOut := [], memOut := [ownTxn (firstOfClass s.cfg.profile .statusRead) none 1 false] } := by
  have hobs : s.begin.flashObserved answer = s.begin := by
    simp [State.flashObserved, State.begin, ho, hb]
  refine congrArg Host.Outcome.next ?_
  rw [if_pos hp]
  simp only [State.idleBytes, State.flashAnswer_of_heeded hi, hobs, show s.begin.cfg.busy answer = true from hb]
  rfl

end

/-! ### Replay does not see the memory side -/

section
variable (s : State) (m : List MemTxn) (f : Flash) (k : Nat)

theorem State.applyRecord_awake (r : Record) : (s.awake m f k).applyRecord r = (s.applyRecord r).awake m f k := by
  unfold State.applyRecord
  cases r.payload with
  | slot i x =>
    show (if i < s.slotCount then _ else _) = State.awake m f k (if i < s.slotCount then _ else _)
    split <;> rfl
  | _ => rfl

theorem State.foldl_applyRecord_awake (recs : List Record) :
    recs.foldl State.applyRecord (s.awake m f k) = (recs.foldl State.applyRecord s).awake m f k := by
  induction recs generalizing s with
  | nil => rfl
  | cons r recs ih => rw [List.foldl_cons, s.applyRecord_awake, ih, List.foldl_cons]

end

/-! ### What replay leaves (R153 to R155) -/

/-- What the records of a half, or fresh state under another signature, give. -/
def State.restored (recs : List Record) (s : State) : State :=
  if s.signatureMatches recs then recs.foldl State.applyRecord s
  else (recs.foldl State.applyRecord s).freshStaging

/-- The journal behind a replay of half `h` (R154). -/
def Store.behind (h : Half) (recs : List Record) (closed : Bool) (copy : SnapCopy) (st : Store) : Store :=
  { st with
    half0 := st.half0.atStart (h == .h0), half1 := st.half1.atStart (h == .h1), current := some h, closed := closed,
    replayed := if closed then some copy else none, nextFree := recs.length,
    nextSeq := firstNumber (st.half h).cells + BitVec.ofNat 32 recs.length }

/-- R148: a compaction is due when the free count is below 32. -/
def Store.dueIfFull (st : Store) : Store :=
  if st.freeCount < 32 then { st with compaction := .due, startHold := true } else st

/-- Whether a replay of half `h` closes it (R154, R155). -/
def State.shuts (s : State) (h : Half) : Bool :=
  (s.store.half h).closes (s.signatureMatches (halfRecords (s.store.half h).cells))

theorem State.applyRecord_frame (s : State) (r : Record) : s.applyRecord r = { s with
    map := (s.applyRecord r).map, health := (s.applyRecord r).health, slots := (s.applyRecord r).slots
    targets := (s.applyRecord r).targets, code := (s.applyRecord r).code } := by
  unfold State.applyRecord
  cases r.payload with
  | slot i x => dsimp only; split <;> rfl
  | _ => rfl

/-- What replay's records leave alone. -/
theorem State.restored_frame (s : State) (recs : List Record) : ∃ m p x sl tg c, s.restored recs = { s with
    map := m, pool := p, health := x, slots := sl, targets := tg, code := c } := by
  have hfold : ∃ m p x sl tg c, recs.foldl State.applyRecord s = { s with
      map := m, pool := p, health := x, slots := sl, targets := tg, code := c } := by
    refine List.foldlRecOn (motive := fun u : State => ∃ m p x sl tg c, u = { s with
      map := m, pool := p, health := x, slots := sl, targets := tg, code := c }) recs _ ⟨s.map, s.pool, s.health, s.slots, s.targets, s.code, rfl⟩ ?_
    rintro u ⟨m, p, x, sl, tg, c, rfl⟩ r -
    exact ⟨_, _, _, _, _, _, State.applyRecord_frame _ r⟩
  obtain ⟨m, p, x, sl, tg, c, h⟩ := hfold
  unfold State.restored
  rw [h]
  split
  · exact ⟨_, _, _, _, _, _, rfl⟩
  · exact ⟨_, _, _, _, _, _, rfl⟩

theorem State.replay_eq {s : State} {h : Half} (hc : s.store.chosenHalf = some h) {recs : List Record}
    (hr : halfRecords (s.store.half h).cells = recs) :
    s.replay = (s.restored recs).updStore fun st =>
      (st.behind h recs (s.shuts h) (s.restored recs).snapCopy).dueIfFull := by
  subst hr
  unfold State.replay
  rw [hc]
  simp only [firstSeq_eq]
  have hst : (s.restored (halfRecords (s.store.half h).cells)).store = s.store := by
    obtain ⟨m, p, x, sl, tg, c, hf⟩ := s.restored_frame (halfRecords (s.store.half h).cells)
    rw [hf]
  unfold State.updStore
  rw [show (if s.signatureMatches (halfRecords (s.store.half h).cells) = true then
      List.foldl State.applyRecord s (halfRecords (s.store.half h).cells)
    else (List.foldl State.applyRecord s (halfRecords (s.store.half h).cells)).freshStaging) =
      s.restored (halfRecords (s.store.half h).cells) from rfl, hst]
  rfl

theorem State.replay_awake (s : State) (m : List MemTxn) (f : Flash) (k : Nat) :
    (s.awake m f k).replay = s.replay.awake m f k := by
  cases hc : s.store.chosenHalf with
  | none => rw [State.replay_of_none s hc, State.replay_of_none (s.awake m f k) hc]; rfl
  | some h =>
    have hrest : (s.awake m f k).restored (halfRecords (s.store.half h).cells) =
        (s.restored (halfRecords (s.store.half h).cells)).awake m f k := by
      unfold State.restored
      rw [State.foldl_applyRecord_awake, show (s.awake m f k).signatureMatches = s.signatureMatches from rfl]
      split <;> rfl
    rw [State.replay_eq hc rfl, State.replay_eq (s := s.awake m f k) hc rfl,
      show (s.awake m f k).store = s.store from rfl, hrest]
    rfl

end Sys2Proof.Machine
end

section
/-! The sectors behind a replay (R48, R156): what the map names, the retired set and the pool. -/

namespace Sys2Proof.Machine

open Sys2Proof

/-! ### What the map names -/

theorem lookupAt_eq_some_of_mem {α : Type} [DecidableEq α] {d : Nat → α} {t : List (Nat × α)} (h : tableWf d t = true)
    {k : Nat} {v : α} (hm : (k, v) ∈ t) : lookupAt k t = some v ∧ v ≠ d k := by
  induction t with
  | nil => cases hm
  | cons c t ih =>
    obtain ⟨j, w⟩ := c
    obtain ⟨hd, habove, hwf⟩ := tableWf_cons.1 h
    rcases List.mem_cons.1 hm with e | hm
    · cases e
      exact ⟨if_pos rfl, hd⟩
    · have : j < k := habove _ hm
      exact ⟨(if_neg (by omega)).trans (ih hwf hm).1, (ih hwf hm).2⟩

theorem mem_of_lookupAt_eq_some {α : Type} {t : List (Nat × α)} {k : Nat} {v : α} (h : lookupAt k t = some v) :
    (k, v) ∈ t := by
  induction t with
  | nil => cases h
  | cons c t ih =>
    obtain ⟨j, w⟩ := c
    unfold lookupAt at h
    split at h
    · next e =>
      cases h
      exact e ▸ List.mem_cons_self ..
    · exact List.mem_cons_of_mem _ (ih h)

/-- A physical sector is mapped when the map names it for a logical sector, or for itself within the logical sectors. -/
theorem State.isMapped_iff {s : State} (hwf : tableWf (fun l => l) s.map = true) (p : Nat) :
    s.isMapped p = true ↔ ∃ l, s.physical l = p ∧ (l ≠ p ∨ l < s.cfg.sLog) := by
  simp only [State.isMapped, Bool.or_eq_true, Bool.and_eq_true, decide_eq_true_eq, Option.isNone_iff_eq_none,
    List.any_eq_true, beq_iff_eq]
  constructor
  · rintro (⟨hlt, hnone⟩ | ⟨⟨l, v⟩, hm, rfl⟩)
    · exact ⟨p, by rw [State.physical, mapLookup, hnone]; rfl, .inr hlt⟩
    · obtain ⟨hsome, hne⟩ := lookupAt_eq_some_of_mem hwf hm
      exact ⟨l, by rw [State.physical, mapLookup, hsome]; rfl, .inl (Ne.symm hne)⟩
  · rintro ⟨l, hl, hcase⟩
    rw [State.physical, mapLookup] at hl
    cases hlook : lookupAt l s.map with
    | some v =>
      rw [hlook] at hl
      exact .inr ⟨(l, v), mem_of_lookupAt_eq_some hlook, hl⟩
    | none =>
      rw [hlook] at hl
      cases hl
      exact .inl ⟨hcase.resolve_left fun h => h rfl, hlook⟩

/-! ### The retired set and the pool -/

/-- R48: the mark that a suspect sector out of use takes. -/
def Health.retireIf (unused : Bool) (h : Health) : Health :=
  if h.suspect && unused then { h with retired := true } else h

theorem Health.retireIf_wear (u : Bool) (h : Health) : (h.retireIf u).wear = h.wear := by
  unfold Health.retireIf; split <;> rfl

theorem Health.retireIf_suspect (u : Bool) (h : Health) : (h.retireIf u).suspect = h.suspect := by
  unfold Health.retireIf; split <;> rfl

theorem Health.retireIf_retired (u : Bool) (h : Health) :
    (h.retireIf u).retired = true ↔ h.retired = true ∨ (h.suspect = true ∧ u = true) := by
  unfold Health.retireIf
  split
  · next hc => exact ⟨fun _ => .inr (by simpa using hc), fun _ => rfl⟩
  · next hc => exact ⟨.inl, fun h => h.resolve_right (by simpa using hc)⟩

theorem State.healthOf_completeRetired (s : State) (p : Nat) :
    s.completeRetired.healthOf p = (s.healthOf p).retireIf (!s.isMapped p) := by
  simp only [State.healthOf, healthLookup, State.completeRetired]
  induction s.health with
  | nil => rfl
  | cons c t ih =>
    obtain ⟨k, h⟩ := c
    rw [List.map_cons]
    simp only [lookupAt]
    by_cases hk : p = k
    · subst hk
      rw [if_pos rfl, if_pos rfl]
      rfl
    · rw [if_neg hk, if_neg hk]
      exact ih

theorem mem_foldl_poolInsert (table : List (Nat × Health)) (l acc : List Nat) (p : Nat) :
    p ∈ l.foldl (fun q p => poolInsert table p q) acc ↔ p ∈ l ∨ p ∈ acc := by
  induction l generalizing acc with
  | nil => simp
  | cons x l ih => rw [List.foldl_cons, ih, mem_poolInsert, List.mem_cons]; tauto

/-- R47: the pool holds every staging sector that is neither mapped nor retired. -/
theorem State.mem_rebuildPool (s : State) (p : Nat) :
    p ∈ s.rebuildPool.pool ↔ p < s.cfg.sPhys ∧ (s.healthOf p).retired = false ∧ ¬ s.isMapped p = true := by
  show p ∈ List.foldl _ _ _ ↔ _
  rw [mem_foldl_poolInsert]
  simp
  tauto

/-- The staging sectors as start-up finds them after replay: the retired set completed, and the pool rebuilt. -/
def State.pooled (s : State) : State := s.completeRetired.rebuildPool

theorem State.pooled_healthOf (s : State) (p : Nat) : s.pooled.healthOf p = (s.healthOf p).retireIf (!s.isMapped p) :=
  s.healthOf_completeRetired p

theorem State.mem_pooled (s : State) (p : Nat) :
    p ∈ s.pooled.pool ↔ p < s.cfg.sPhys ∧ (s.pooled.healthOf p).retired = false ∧ ¬ s.isMapped p = true :=
  s.completeRetired.mem_rebuildPool p

theorem State.pooled_phase (s : State) : s.pooled.phase = s.phase := rfl
theorem State.pooled_cfg (s : State) : s.pooled.cfg = s.cfg := rfl
theorem State.pooled_map (s : State) : s.pooled.map = s.map := rfl
theorem State.pooled_strikes (s : State) : s.pooled.strikes = [] := rfl
theorem State.pooled_code (s : State) : s.pooled.code = s.code := rfl
theorem State.pooled_hrstDriven (s : State) : s.pooled.hrstDriven = s.hrstDriven := rfl
theorem State.pooled_portOpen (s : State) : s.pooled.portOpen = s.portOpen := rfl
theorem State.pooled_store (s : State) : s.pooled.store = s.store := rfl
theorem State.pooled_health (s : State) :
    s.pooled.health = s.health.map fun (p, h) => (p, h.retireIf (!s.isMapped p)) := rfl
theorem State.pooled_log (s : State) : s.pooled.log = s.log := rfl
theorem State.pooled_bootTarget (s : State) : s.pooled.bootTarget = s.bootTarget := rfl

end Sys2Proof.Machine
end

section
/-! What stands through the reconciliation, the rebuilding and the boot event of start-up (R140, R186, R187): everything
but the slots, the targets, the log, the offers and the engine's jobs. -/

namespace Sys2Proof.Machine

open Sys2Proof

/-- A state with what start-up works on behind the pool taken away: slots, targets, log, offers, boot event and jobs. -/
def State.standing (s : State) : State :=
  { s with
    slots := [], targets := [], log := [], overrun := false, nextLogSeq := 0, alertPending := false, boot := none,
    scan := none, job := none, aside := none, verifyQueue := [], manifestJobs := []
    store := { s.store with queue := [], waiting := [] } }

section
variable (s : State)

theorem State.standing_phase : s.standing.phase = s.phase := rfl
theorem State.standing_cfg : s.standing.cfg = s.cfg := rfl
theorem State.standing_statics : s.standing.statics = s.statics := rfl
theorem State.standing_map : s.standing.map = s.map := rfl
theorem State.standing_pool : s.standing.pool = s.pool := rfl
theorem State.standing_health : s.standing.health = s.health := rfl
theorem State.standing_strikes : s.standing.strikes = s.strikes := rfl
theorem State.standing_code : s.standing.code = s.code := rfl
theorem State.standing_hrstDriven : s.standing.hrstDriven = s.hrstDriven := rfl
theorem State.standing_portOpen : s.standing.portOpen = s.portOpen := rfl

end

/-- A store with its offers taken away. -/
def Store.idle (st : Store) : Store := { st with queue := [], waiting := [] }

theorem State.standing_store (s : State) : s.standing.store = s.store.idle := rfl

theorem foldl_standing {α : Type} {f : State → α → State} (hf : ∀ (u : State) (x : α), (f u x).standing = u.standing)
    (l : List α) (s : State) : (l.foldl f s).standing = s.standing :=
  List.foldlRecOn (motive := fun u : State => u.standing = s.standing) l f rfl fun u hu x _ => (hf u x).trans hu

section
variable (s : State)

theorem State.offer_standing (o : Owner) (p : Payload) : (s.offer o p).standing = s.standing := by
  unfold State.offer State.standing
  split <;> rfl

theorem State.offerSlot_standing (o : Owner) (i : Nat) : (s.offerSlot o i).standing = s.standing :=
  s.offer_standing ..

theorem State.offerInOrder_standing (o : Owner) (slots targets : List Nat) :
    (s.offerInOrder o slots targets).standing = s.standing :=
  (foldl_standing (fun u i => u.offerSlot_standing o i) _ _).trans
    ((foldl_standing (fun u _ => u.offer_standing ..) _ _).trans (foldl_standing (fun u i => u.offerSlot_standing o i) _ _))

theorem reconcileField_standing (replayed : State) (t : Nat) (st : SlotState) (f : Option Nat) :
    (reconcileField replayed t st f s).standing = s.standing := by
  unfold reconcileField
  split
  · rfl
  · split <;> rfl

theorem State.reconcileTarget_standing (t : Nat) : (s.reconcileTarget t).standing = s.standing :=
  (reconcileField_standing _ s t .fallback _).trans
    ((reconcileField_standing _ s t .active _).trans (reconcileField_standing s s t .trial _))

theorem State.reconcile_standing : s.reconcile.standing = s.standing :=
  (State.offerInOrder_standing ..).trans (foldl_standing State.reconcileTarget_standing _ _)

theorem State.rebuild_standing : s.rebuild.standing = s.standing := rfl

@[simp] theorem State.updSlot_standing (i : Nat) (f : SlotRec → SlotRec) : (s.updSlot i f).standing = s.standing := rfl
@[simp] theorem State.updDyn_standing (t : Nat) (f : TargetDyn → TargetDyn) : (s.updDyn t f).standing = s.standing := rfl
@[simp] theorem State.appendLog_standing (e : LogEntry) : (s.appendLog e).standing = s.standing := rfl
@[simp] theorem State.dropEntries_standing (f : Nat → Nat → Bool) : (s.dropEntries f).standing = s.standing := rfl
@[simp] theorem State.dropManifest_standing (i : Nat) : (s.dropManifest i).standing = s.standing := rfl
@[simp] theorem State.updBoot_standing (f : BootEvent → BootEvent) : (s.updBoot f).standing = s.standing := rfl
@[simp] theorem State.openScan_standing (r : Role) (i : Nat) : (s.openScan r i).standing = s.standing := rfl

theorem bootClosed_standing : BootClosed fun t => t.standing = s.standing where
  boot _ _ := id
  dyn u t f _ := (u.updDyn_standing t f).trans
  log u e := (u.appendLog_standing e).trans
  offer u o p := (u.offer_standing o p).trans
  offerSlot u o i := (u.offerSlot_standing o i).trans
  decayed u i h := by simpa [State.markDecayed, State.dropSlotJobs] using h
  scan u r i := (u.openScan_standing r i).trans

theorem State.bootTrialFails_standing (t i : Nat) (r : Option Reason) (c : Option Nat) :
    (s.bootTrialFails t i r c).standing = s.standing := by
  simp [State.bootTrialFails, State.failSlot, State.dropSlotJobs]

theorem State.beginBoot_standing (startup : Bool) : (s.beginBoot startup).standing = s.standing :=
  (bootClosed_standing s).beginBoot rfl (fun u t i r c hu _ => (u.bootTrialFails_standing t i r c).trans hu) startup

theorem State.resettle_standing : s.resettle.standing = s.standing := by rw [State.resettle_eq]; rfl

/-- What replay and the pool leave stands when the part runs. -/
theorem State.afterIdleWait_standing : s.afterIdleWait.standing = s.replay.pooled.standing :=
  (State.resettle_standing _).trans ((State.beginBoot_standing ..).trans
    ((State.rebuild_standing _).trans (State.reconcile_standing _)))

end

end Sys2Proof.Machine
end

section
/-! Reconciliation, target by target (R140): what each turn makes of a slot and of a target's dynamic fields. -/

namespace Sys2Proof.Machine

open Sys2Proof

/-- R140 step 1: a slot takes the role of a field that names it and stands. -/
def SlotRec.takeIf (named : Bool) (st : SlotState) (r : SlotRec) : SlotRec := if named then r.takeRole st else r

/-- R140 steps 2 and 3: a slot of the target with a role that no field names leaves it, and the floor is applied. -/
def SlotRec.settleAt (named : Bool) (floor : Nat) (r : SlotRec) : SlotRec :=
  (if (r.state = .trial ∨ r.state = .active ∨ r.state = .fallback) ∧ named = false then r.leaveRole floor
    else r).belowFloor floor

/-- R140: a slot of the target through its turn, by the fields that name it. -/
def SlotRec.turned (trial active fallback : Bool) (floor : Nat) (r : SlotRec) : SlotRec :=
  (((r.takeIf trial .trial).takeIf active .active).takeIf fallback .fallback).settleAt (trial || active || fallback) floor

/-- R140 step 1: what is left of a role field. -/
def State.standingField (s : State) (t : Nat) (f : Option Nat) : Option Nat := f.filter (roleStands s t)

/-- R140: the dynamic fields of a target after its turn. -/
def State.turnedDyn (s : State) (t : Nat) : TargetDyn :=
  let d := s.dynAt t
  let trial := s.standingField t d.trial
  let left := if d.trial.isSome && trial.isNone then 0 else d.bootsLeft
  { d with
    trial := trial, active := s.standingField t d.active, fallback := s.standingField t d.fallback
    bootsLeft := if s.bootTarget == some t then min left s.cfg.settings.tMax else 0
    booted := if s.bootTarget == some t then d.booted else none }

/-- Whether a standing role field names a slot. -/
def names (f : Option Nat) (i : Nat) : Bool := decide (f = some i)

theorem names_eq_true {f : Option Nat} {i : Nat} (h : f = some i) : names f i = true := decide_eq_true h

theorem names_eq_false {f : Option Nat} {i : Nat} (h : f ≠ some i) : names f i = false := decide_eq_false h

section
variable (r : SlotRec) (st : SlotState) (n : Bool) (floor : Nat)

@[simp] theorem SlotRec.takeIf_summary : (r.takeIf n st).summary = r.summary := by
  unfold SlotRec.takeIf; split <;> rfl

@[simp] theorem SlotRec.target?_takeIf : (r.takeIf n st).target? = r.target? := by
  simp [SlotRec.target?]

@[simp] theorem SlotRec.version_takeIf : (r.takeIf n st).version = r.version := by
  simp [SlotRec.version]

/-- The floor takes a manifest away with a FILLING slot, and leaves every other summary. -/
theorem SlotRec.belowFloor_summary :
    (r.belowFloor floor).summary = r.summary ∨ (r.belowFloor floor).summary = none := by
  unfold SlotRec.belowFloor
  split
  · split
    · exact .inl rfl
    · exact .inr rfl
    · exact .inl rfl
  · exact .inl rfl

theorem SlotRec.settleAt_summary : (r.settleAt n floor).summary = r.summary ∨ (r.settleAt n floor).summary = none := by
  unfold SlotRec.settleAt
  split
  · exact SlotRec.belowFloor_summary (r.leaveRole floor) floor
  · exact r.belowFloor_summary floor

theorem SlotRec.turned_summary (a b c : Bool) :
    (r.turned a b c floor).summary = r.summary ∨ (r.turned a b c floor).summary = none := by
  have h := (((r.takeIf a .trial).takeIf b .active).takeIf c .fallback).settleAt_summary (a || b || c) floor
  simpa [SlotRec.turned] using h

end

/-! ### One turn -/

section
variable (s : State) (t : Nat)

theorem State.slot_lt_of_target {i u : Nat} (h : (s.slotAt i).target? = some u) : i < s.slots.length := by
  by_contra hi
  have : s.slotAt i = SlotRec.blank := by
    rw [State.slotAt, List.getD_eq_getElem?_getD, List.getElem?_eq_none (by omega)]
    rfl
  rw [this] at h
  cases h

theorem roleStands_target {i : Nat} (h : roleStands s t i = true) : (s.slotAt i).target? = some t := by
  simp only [roleStands, Bool.and_eq_true, beq_iff_eq] at h
  exact h.1

theorem reconcileField_slotAt (u : State) (st : SlotState) (f : Option Nat) (hlen : u.slots.length = s.slots.length)
    (i : Nat) : (reconcileField s t st f u).slotAt i = (u.slotAt i).takeIf (names (s.standingField t f) i) st := by
  unfold reconcileField SlotRec.takeIf names State.standingField
  cases f with
  | none => rfl
  | some j =>
    by_cases hr : roleStands s t j = true
    · have hj : j < u.slots.length := hlen ▸ s.slot_lt_of_target (roleStands_target s t hr)
      simp only [hr, if_true, Option.filter, State.slotAt_updSlot]
      by_cases hij : j = i
      · subst hij
        simp [hj]
      · simp [hij]
    · simp [hr, Option.filter]

theorem reconcileField_length (u : State) (st : SlotState) (f : Option Nat) :
    (reconcileField s t st f u).slots.length = u.slots.length := by
  unfold reconcileField
  split
  · rfl
  · split
    · exact u.slots_length_updSlot ..
    · rfl

theorem reconcileField_targets (u : State) (st : SlotState) (f : Option Nat) :
    (reconcileField s t st f u).targets = u.targets := by
  unfold reconcileField
  split
  · rfl
  · split <;> rfl

theorem State.reconcileSlots_slotAt (named : List Nat) (floor i : Nat) :
    (s.reconcileSlots t named floor).slotAt i =
      if (s.slotAt i).target? = some t then (s.slotAt i).settleAt (decide (i ∈ named)) floor else s.slotAt i := by
  simp only [State.slotAt, State.reconcileSlots, List.getD_eq_getElem?_getD, List.getElem?_map, List.getElem?_zipIdx]
  cases s.slots[i]? with
  | none => rfl
  | some r => simp [SlotRec.settleAt]

/-- The state in which the slots of target `t` are settled: the role fields that stand have been taken. -/
def State.rolesTaken : State :=
  reconcileField s t .fallback (s.dynAt t).fallback
    (reconcileField s t .active (s.dynAt t).active (reconcileField s t .trial (s.dynAt t).trial s))

theorem State.rolesTaken_slotAt (i : Nat) : (s.rolesTaken t).slotAt i =
    (((s.slotAt i).takeIf (names (s.standingField t (s.dynAt t).trial) i) .trial).takeIf
      (names (s.standingField t (s.dynAt t).active) i) .active).takeIf
      (names (s.standingField t (s.dynAt t).fallback) i) .fallback := by
  rw [State.rolesTaken, reconcileField_slotAt, reconcileField_slotAt, reconcileField_slotAt _ _ _ _ _ rfl]
  · exact reconcileField_length ..
  · exact (reconcileField_length ..).trans (reconcileField_length ..)

theorem names_of_other {f : Option Nat} {i : Nat} (h : (s.slotAt i).target? ≠ some t) :
    names (s.standingField t f) i = false := by
  cases f with
  | none => rfl
  | some j =>
    by_cases hr : roleStands s t j = true
    · have : j ≠ i := fun e => h (e ▸ roleStands_target s t hr)
      simp [names, State.standingField, Option.filter, hr, this]
    · simp [names, State.standingField, Option.filter, hr]

/-- R140: the turn of a target changes its own slots. -/
theorem State.reconcileTarget_slotAt (i : Nat) : (s.reconcileTarget t).slotAt i =
    if (s.slotAt i).target? = some t then
      (s.slotAt i).turned (names (s.standingField t (s.dynAt t).trial) i) (names (s.standingField t (s.dynAt t).active) i)
        (names (s.standingField t (s.dynAt t).fallback) i) (s.dynAt t).floor
    else s.slotAt i := by
  show ((s.rolesTaken t).reconcileSlots t _ _).slotAt i = _
  rw [State.reconcileSlots_slotAt, State.rolesTaken_slotAt, SlotRec.target?_takeIf, SlotRec.target?_takeIf,
    SlotRec.target?_takeIf]
  split
  · rw [SlotRec.turned]
    congr 1
    simp [names, State.standingField, Bool.or_assoc]
  · next h => simp [names_of_other s t h, SlotRec.takeIf]

theorem State.reconcileTarget_dynAt (u : Nat) : (s.reconcileTarget t).dynAt u =
    if t = u ∧ u < s.targets.length then s.turnedDyn u else s.dynAt u := by
  have hset (v : State) (g : TargetDyn → TargetDyn) (hv : v.targets = s.targets) (hg : g (s.dynAt t) = s.turnedDyn t) :
      (v.updDyn t g).dynAt u = if t = u ∧ u < s.targets.length then s.turnedDyn u else s.dynAt u := by
    have hvd : v.dynAt u = s.dynAt u := by rw [State.dynAt, hv, State.dynAt]
    rw [State.dynAt_updDyn, hv, hvd]
    split
    · next h => rw [← h.1, hg]
    · rfl
  exact hset ((s.rolesTaken t).reconcileSlots t _ _) _
    ((reconcileField_targets ..).trans ((reconcileField_targets ..).trans (reconcileField_targets ..))) rfl

theorem State.reconcileTarget_length : (s.reconcileTarget t).slots.length = s.slots.length := by
  have h (named : List Nat) (floor : Nat) :
      ((s.rolesTaken t).reconcileSlots t named floor).slots.length = (s.rolesTaken t).slots.length := by
    simp [State.reconcileSlots]
  exact (h _ _).trans ((reconcileField_length ..).trans ((reconcileField_length ..).trans (reconcileField_length ..)))

theorem State.reconcileTarget_targets_length : (s.reconcileTarget t).targets.length = s.targets.length :=
  (List.length_modify ..).trans (congrArg List.length
    ((reconcileField_targets ..).trans ((reconcileField_targets ..).trans (reconcileField_targets ..))))

theorem State.reconcileTarget_frame : (s.reconcileTarget t).cfg = s.cfg ∧ (s.reconcileTarget t).statics = s.statics :=
  have hcfg := congrArg State.cfg (s.reconcileTarget_standing t)
  have hstatics := congrArg State.statics (s.reconcileTarget_standing t)
  ⟨hcfg, hstatics⟩

theorem State.reconcileTarget_cfg : (s.reconcileTarget t).cfg = s.cfg :=
  (s.reconcileTarget_frame t).1

theorem State.reconcileTarget_statics : (s.reconcileTarget t).statics = s.statics :=
  (s.reconcileTarget_frame t).2

theorem State.reconcileTarget_floor (u : Nat) : ((s.reconcileTarget t).dynAt u).floor = (s.dynAt u).floor := by
  rw [State.reconcileTarget_dynAt]
  split <;> rfl

end

/-! ### All the turns -/

/-- From `x` to `y` the turns of other targets leave target `u` and its slots alone, and give it no slot. -/
structure State.SparesTarget (u : Nat) (x y : State) : Prop where
  slot : ∀ i, (x.slotAt i).target? = some u ∨ (x.slotAt i).target? = none → y.slotAt i = x.slotAt i
  back : ∀ i, (y.slotAt i).target? = some u → (x.slotAt i).target? = some u
  dyn : y.dynAt u = x.dynAt u
  targets : y.targets.length = x.targets.length
  statics : y.statics = x.statics
  cfg : y.cfg = x.cfg

theorem State.SparesTarget.refl (u : Nat) (x : State) : x.SparesTarget u x :=
  ⟨fun _ _ => rfl, fun _ => id, rfl, rfl, rfl, rfl⟩

theorem State.SparesTarget.trans {u : Nat} {x y z : State} (h : State.SparesTarget u x y)
    (g : State.SparesTarget u y z) : State.SparesTarget u x z where
  slot i hi := (g.slot i (by rwa [h.slot i hi])).trans (h.slot i hi)
  back i hi := h.back i (g.back i hi)
  dyn := g.dyn.trans h.dyn
  targets := g.targets.trans h.targets
  statics := g.statics.trans h.statics
  cfg := g.cfg.trans h.cfg

theorem State.reconcileTarget_spares (s : State) {t u : Nat} (h : t ≠ u) :
    State.SparesTarget u s (s.reconcileTarget t) where
  slot i hi := by
    rw [State.reconcileTarget_slotAt, if_neg]
    rcases hi with hi | hi <;> simp [hi, Ne.symm h]
  back i hi := by
    rw [State.reconcileTarget_slotAt] at hi
    split at hi
    · next ht =>
      rcases (s.slotAt i).turned_summary (s.dynAt t).floor _ _ _ with hs | hs
      · rw [SlotRec.target?, hs] at hi
        exact hi
      · rw [SlotRec.target?, hs] at hi
        cases hi
    · exact hi
  dyn := by rw [State.reconcileTarget_dynAt, if_neg fun e => h e.1]
  targets := s.reconcileTarget_targets_length t
  statics := s.reconcileTarget_statics t
  cfg := s.reconcileTarget_cfg t

theorem State.foldl_reconcileTarget_spares {u : Nat} (l : List Nat) (hl : u ∉ l) (s : State) :
    State.SparesTarget u s (l.foldl State.reconcileTarget s) :=
  List.foldlRecOn (motive := State.SparesTarget u s) l _ (.refl u s) fun x hx _ ht =>
    hx.trans (x.reconcileTarget_spares fun e => hl (e ▸ ht))

section
variable {u : Nat} {x y : State} (h : State.SparesTarget u x y)
include h

theorem State.SparesTarget.roleStands (i : Nat) : roleStands y u i = roleStands x u i := by
  unfold Machine.roleStands
  by_cases hx : (x.slotAt i).target? = some u
  · rw [h.slot i (.inl hx)]
  · have hy : (y.slotAt i).target? ≠ some u := fun e => hx (h.back i e)
    dsimp only
    rw [beq_eq_false_iff_ne.2 hx, beq_eq_false_iff_ne.2 hy, Bool.false_and, Bool.false_and]

theorem State.SparesTarget.standingField (f : Option Nat) : y.standingField u f = x.standingField u f :=
  congrArg (Option.filter · f) (funext h.roleStands)

theorem State.SparesTarget.turnedDyn : y.turnedDyn u = x.turnedDyn u := by
  unfold State.turnedDyn State.bootTarget
  simp only [h.dyn, h.standingField, h.statics, h.cfg]

end

/-- Every target's turn, before the records of what changed are offered. -/
def State.reconciled (s : State) : State := (List.range 16).foldl State.reconcileTarget s

section
variable (s : State) {u : Nat}

/-- R140: a target, and its slots, stand as its own turn leaves them. -/
theorem State.reconciled_target (hu : u < 16) (hlen : s.targets.length = 16) :
    s.reconciled.dynAt u = s.turnedDyn u ∧
    ∀ i, (s.slotAt i).target? = some u → s.reconciled.slotAt i =
      (s.slotAt i).turned (names (s.standingField u (s.dynAt u).trial) i) (names (s.standingField u (s.dynAt u).active) i)
        (names (s.standingField u (s.dynAt u).fallback) i) (s.dynAt u).floor := by
  obtain ⟨l1, l2, hsplit⟩ := List.append_of_mem (List.mem_range.2 hu)
  have hnodup := hsplit ▸ List.nodup_range (n := 16)
  rw [List.nodup_append, List.nodup_cons] at hnodup
  obtain ⟨-, ⟨h2, -⟩, hdisj⟩ := hnodup
  have h1 : u ∉ l1 := fun hm => hdisj u hm u (List.mem_cons_self ..) rfl
  have hfold : s.reconciled = l2.foldl State.reconcileTarget ((l1.foldl State.reconcileTarget s).reconcileTarget u) := by
    rw [State.reconciled, hsplit, List.foldl_append, List.foldl_cons]
  have hs := State.foldl_reconcileTarget_spares l1 h1 s
  rw [hfold]
  generalize l1.foldl State.reconcileTarget s = x at hs ⊢
  have hx := State.foldl_reconcileTarget_spares l2 h2 (x.reconcileTarget u)
  refine ⟨?_, fun i hi => ?_⟩
  · rw [hx.dyn, State.reconcileTarget_dynAt, if_pos ⟨rfl, by rw [hs.targets, hlen]; exact hu⟩, hs.turnedDyn]
  · have hxi : x.slotAt i = s.slotAt i := hs.slot i (.inl hi)
    have hturn := x.reconcileTarget_slotAt u i
    rw [hxi, if_pos hi, hs.dyn, hs.standingField, hs.standingField, hs.standingField] at hturn
    rw [hx.slot i, hturn]
    rw [hturn]
    rcases (s.slotAt i).turned_summary (s.dynAt u).floor _ _ _ with e | e
    · exact .inl ((congrArg (Option.map Summary.target) e).trans hi)
    · exact .inr (congrArg (Option.map Summary.target) e)

theorem State.reconciled_length : s.reconciled.slots.length = s.slots.length :=
  List.foldlRecOn (motive := fun x : State => x.slots.length = s.slots.length) _ _ rfl fun x hx t _ =>
    (x.reconcileTarget_length t).trans hx

theorem State.reconciled_floor (u : Nat) : (s.reconciled.dynAt u).floor = (s.dynAt u).floor :=
  List.foldlRecOn (motive := fun x : State => (x.dynAt u).floor = (s.dynAt u).floor) _ _ rfl fun x hx t _ =>
    (x.reconcileTarget_floor t u).trans hx

theorem State.reconciled_targets_length : s.reconciled.targets.length = s.targets.length :=
  List.foldlRecOn (motive := fun x : State => x.targets.length = s.targets.length) _ _ rfl fun x hx t _ =>
    (x.reconcileTarget_targets_length t).trans hx

/-- A slot with no manifest belongs to no target and is left alone. -/
theorem State.reconciled_slotAt_of_bare {i : Nat} (h : (s.slotAt i).target? = none) :
    s.reconciled.slotAt i = s.slotAt i :=
  List.foldlRecOn (motive := fun x : State => x.slotAt i = s.slotAt i) _ _ rfl fun x hx _ _ => by
    rw [State.reconcileTarget_slotAt, hx, if_neg (by rw [h]; simp)]

end

/-! ### Slots that reconciliation passes over -/

/-- The states of a slot that no role field keeps, and that no floor changes. -/
def SlotState.quiet (st : SlotState) : Prop := st = .empty ∨ st = .rejected ∨ st = .failed ∨ st = .outdated

section
variable {s : State} {i : Nat} (h : (s.slotAt i).state.quiet)
include h

theorem roleStands_of_quiet (t : Nat) : roleStands s t i = false := by
  rcases h with h | h | h | h <;> simp [roleStands, h]

theorem names_of_quiet (t : Nat) (f : Option Nat) : names (s.standingField t f) i = false := by
  rw [names, decide_eq_false_iff_not, State.standingField, Option.filter_eq_some_iff]
  rintro ⟨-, hr⟩
  rw [roleStands_of_quiet h] at hr
  cases hr

theorem State.reconcileTarget_slotAt_of_quiet (t : Nat) : (s.reconcileTarget t).slotAt i = s.slotAt i := by
  rw [State.reconcileTarget_slotAt]
  split
  · simp only [names_of_quiet h]
    rcases h with h | h | h | h <;>
      simp [SlotRec.turned, SlotRec.takeIf, SlotRec.settleAt, SlotRec.belowFloor, h]
  · rfl

/-- A slot that no role field keeps is left alone, and no target whose turn has come has it for its trial. -/
theorem State.foldl_reconcileTarget_of_quiet (l : List Nat) :
    (l.foldl State.reconcileTarget s).slotAt i = s.slotAt i ∧
    ∀ t, t < s.targets.length → t ∈ l ∨ (s.dynAt t).trial ≠ some i →
      ((l.foldl State.reconcileTarget s).dynAt t).trial ≠ some i := by
  induction l generalizing s with
  | nil => exact ⟨rfl, fun t _ ht => ht.resolve_left (by simp)⟩
  | cons x l ih =>
    have hslot := State.reconcileTarget_slotAt_of_quiet h x
    obtain ⟨h1, h2⟩ := ih (s := s.reconcileTarget x) (by rwa [hslot])
    refine ⟨h1.trans hslot, fun t ht hcase => h2 t (by rwa [State.reconcileTarget_targets_length]) ?_⟩
    by_cases htl : t ∈ l
    · exact .inl htl
    · refine .inr ?_
      rw [State.reconcileTarget_dynAt]
      split
      · exact of_decide_eq_false (names_of_quiet h t (s.dynAt t).trial)
      · next hx =>
        refine hcase.resolve_left fun hm => ?_
        rcases List.mem_cons.1 hm with rfl | hm
        · exact hx ⟨rfl, ht⟩
        · exact htl hm

theorem State.reconciled_of_quiet (hlen : s.targets.length = 16) :
    s.reconciled.slotAt i = s.slotAt i ∧ ∀ t, (s.reconciled.dynAt t).trial ≠ some i := by
  obtain ⟨h1, h2⟩ := State.foldl_reconcileTarget_of_quiet h (List.range 16)
  refine ⟨h1, fun t => ?_⟩
  by_cases ht : t < 16
  · exact h2 t (hlen ▸ ht) (.inl (List.mem_range.2 ht))
  · have : s.reconciled.dynAt t = TargetDyn.blank := by
      rw [State.dynAt, List.getD_eq_getElem?_getD, List.getElem?_eq_none (by rw [State.reconciled_targets_length]; omega)]
      rfl
    rw [this]
    simp [TargetDyn.blank]

end

/-! ### Targets with no roles -/

/-- R155: no target has a slot in a role. -/
def State.NoRoles (s : State) : Prop := ∀ u, (s.dynAt u).active = none ∧ (s.dynAt u).trial = none ∧
  (s.dynAt u).fallback = none ∧ (s.dynAt u).booted = none

theorem State.NoRoles.reconcileTarget {s : State} (h : s.NoRoles) (t : Nat) : (s.reconcileTarget t).NoRoles := by
  intro u
  obtain ⟨ha, ht, hf, hb⟩ := h u
  rw [State.reconcileTarget_dynAt]
  split
  · simp [State.turnedDyn, State.standingField, ha, ht, hf, hb]
  · exact h u

theorem State.NoRoles.reconciled {s : State} (h : s.NoRoles) : s.reconciled.NoRoles :=
  List.foldlRecOn (motive := State.NoRoles) _ _ h fun _ hx t _ => hx.reconcileTarget t

end Sys2Proof.Machine
end

section
/-! The records of a reconciliation (R125, R140), the rebuilt chunk tables (R186) and the boot event over them (R187). -/

namespace Sys2Proof.Machine

open Sys2Proof

/-! ### The records of what changed (R125) -/

/-- A slot whose record is offered: its state becomes its journaled state. -/
def SlotRec.offered (r : SlotRec) : SlotRec := { r with journaled := r.state }

/-- From `s` to `t` records are offered: slots change in their journaled state at most, targets and log not at all, and
the offers grow. -/
structure State.Journals (s t : State) : Prop where
  slot : ∀ i, t.slotAt i = s.slotAt i ∨ t.slotAt i = (s.slotAt i).offered
  length : t.slots.length = s.slots.length
  targets : t.targets = s.targets
  log : t.log = s.log
  offers : ∀ x ∈ s.store.offers, x ∈ t.store.offers

theorem State.Journals.refl (s : State) : s.Journals s := ⟨fun _ => .inl rfl, rfl, rfl, rfl, fun _ => id⟩

theorem State.Journals.trans {s t u : State} (h : s.Journals t) (g : t.Journals u) : s.Journals u where
  slot i := by
    rcases h.slot i with e | e <;> rcases g.slot i with e' | e' <;> rw [e', e]
    · exact .inl rfl
    · exact .inr rfl
    · exact .inr rfl
    · exact .inr rfl
  length := g.length.trans h.length
  targets := g.targets.trans h.targets
  log := g.log.trans h.log
  offers x := g.offers x ∘ h.offers x

theorem State.Journals.dynAt {s t : State} (h : s.Journals t) (u : Nat) : t.dynAt u = s.dynAt u :=
  congrArg (List.getD · u TargetDyn.blank) h.targets

theorem State.Journals.state {s t : State} (h : s.Journals t) (i : Nat) : (t.slotAt i).state = (s.slotAt i).state := by
  rcases h.slot i with e | e <;> rw [e]
  rfl

section
variable (s : State) (o : Owner)

theorem State.mem_offers_offer (p : Payload) (x : Offer) :
    x ∈ (s.offer o p).store.offers ↔ x ∈ s.store.offers ∨ x = { payload := p, owner := o } := by
  unfold State.offer Store.offers
  dsimp only
  split
  · next h => simp [h.2, or_comm]
  · simp [or_assoc]

theorem State.offer_journals (p : Payload) : s.Journals (s.offer o p) :=
  ⟨fun _ => .inl rfl, rfl, rfl, rfl, fun x hx => (s.mem_offers_offer o p x).2 (.inl hx)⟩

theorem State.offerSlot_journals (i : Nat) : s.Journals (s.offerSlot o i) where
  slot k := by
    rw [State.offerSlot, State.slotAt_updSlot]
    split
    · exact .inr rfl
    · exact .inl rfl
  length := State.slots_length_updSlot ..
  targets := rfl
  log := rfl
  offers := (s.offer_journals o _).offers

theorem State.foldl_journals {α : Type} {f : State → α → State} (hf : ∀ (u : State) (x : α), u.Journals (f u x))
    (l : List α) : s.Journals (l.foldl f s) :=
  List.foldlRecOn l f (.refl s) fun u hu x _ => hu.trans (hf u x)

/-- What a step over one element offers stays offered. -/
theorem State.foldl_offered {α : Type} {f : State → α → State} (hf : ∀ (u : State) (x : α), u.Journals (f u x))
    {l : List α} {x : α} (hx : x ∈ l) : ∃ u : State, s.Journals u ∧ (f u x).Journals (l.foldl f s) := by
  obtain ⟨l1, l2, rfl⟩ := List.append_of_mem hx
  rw [List.foldl_append, List.foldl_cons]
  exact ⟨_, s.foldl_journals hf l1, State.foldl_journals _ hf l2⟩

theorem State.foldl_offerSlot_offered {l : List Nat} {i : Nat} (hi : i ∈ l) : ∃ m : SlotImage,
    m.state = (s.slotAt i).state ∧
    { payload := .slot i m, owner := o } ∈ (l.foldl (fun s i => s.offerSlot o i) s).store.offers := by
  obtain ⟨u, hu, hl⟩ := s.foldl_offered (fun u i => u.offerSlot_journals o i) hi
  exact ⟨_, hu.state i, hl.offers _ ((u.mem_offers_offer o _ _).2 (.inr rfl))⟩

theorem State.foldl_offerTarget_offered {l : List Nat} {t : Nat} (ht : t ∈ l) :
    { payload := .target t (s.dynAt t), owner := o } ∈ (l.foldl (fun s t => s.offerTarget o t) s).store.offers := by
  obtain ⟨u, hu, hl⟩ := s.foldl_offered (fun u t => u.offer_journals o (.target t (u.dynAt t))) ht
  exact hl.offers _ ((u.mem_offers_offer o _ _).2 (.inr (by rw [hu.dynAt])))

variable (slots targets : List Nat)

theorem State.offerInOrder_journals : s.Journals (s.offerInOrder o slots targets) :=
  ((s.foldl_journals (fun u i => u.offerSlot_journals o i) _).trans
    (State.foldl_journals _ (fun u t => u.offer_journals o (.target t (u.dynAt t))) _)).trans
    (State.foldl_journals _ (fun u i => u.offerSlot_journals o i) _)

/-- R125: the slots whose records go before the targets'. -/
def State.goesEarly (i : Nat) : Bool := (s.slotAt i).state == .failed || (s.slotAt i).state == .empty

theorem State.offerInOrder_eq : s.offerInOrder o slots targets =
    (slots.filter fun i => !s.goesEarly i).foldl (fun s i => s.offerSlot o i)
      (targets.foldl (fun s t => s.offerTarget o t)
        ((slots.filter s.goesEarly).foldl (fun s i => s.offerSlot o i) s)) := rfl

theorem State.offerInOrder_target {t : Nat} (ht : t ∈ targets) :
    { payload := .target t (s.dynAt t), owner := o } ∈ (s.offerInOrder o slots targets).store.offers := by
  have h1 := s.foldl_journals (fun u i => u.offerSlot_journals o i) (slots.filter s.goesEarly)
  rw [State.offerInOrder_eq]
  refine (State.foldl_journals _ (fun u i => u.offerSlot_journals o i) _).offers _ ?_
  rw [← h1.dynAt]
  exact State.foldl_offerTarget_offered _ o ht

theorem State.offerInOrder_slot {i : Nat} (hi : i ∈ slots) : ∃ m : SlotImage, m.state = (s.slotAt i).state ∧
    { payload := .slot i m, owner := o } ∈ (s.offerInOrder o slots targets).store.offers := by
  have hslots (u : State) (l : List Nat) := u.foldl_journals (fun u i => u.offerSlot_journals o i) l
  have htargets (u : State) (l : List Nat) := u.foldl_journals (fun u t => u.offer_journals o (.target t (u.dynAt t))) l
  rw [State.offerInOrder_eq]
  cases he : s.goesEarly i with
  | true =>
    obtain ⟨m, hm, hoff⟩ := s.foldl_offerSlot_offered o (List.mem_filter.2 ⟨hi, he⟩)
    exact ⟨m, hm, (hslots _ _).offers _ ((htargets _ _).offers _ hoff)⟩
  | false =>
    have hlate : i ∈ slots.filter fun i => !s.goesEarly i := List.mem_filter.2 ⟨hi, by rw [he]; rfl⟩
    obtain ⟨m, hm, hoff⟩ := State.foldl_offerSlot_offered (targets.foldl (fun s t => s.offerTarget o t)
      ((slots.filter s.goesEarly).foldl (fun s i => s.offerSlot o i) s)) o hlate
    exact ⟨m, hm.trans (((hslots s _).trans (htargets _ _)).state i), hoff⟩

end

section
variable (s : State)

theorem State.reconcile_eq : s.reconcile = s.reconciled.offerInOrder .nobody (changedSlots s s.reconciled)
    ((List.range 16).filter fun t => decide (s.dynAt t ≠ s.reconciled.dynAt t)) := rfl

theorem State.reconcile_journals : s.reconciled.Journals s.reconcile := by
  rw [State.reconcile_eq]
  exact State.offerInOrder_journals ..

theorem State.reconcile_target {u : Nat} (hu : u < 16) (h : s.dynAt u ≠ s.reconciled.dynAt u) :
    { payload := .target u (s.reconciled.dynAt u), owner := .nobody } ∈ s.reconcile.store.offers := by
  rw [State.reconcile_eq]
  exact State.offerInOrder_target _ _ _ _ (List.mem_filter.2 ⟨List.mem_range.2 hu, decide_eq_true h⟩)

theorem State.reconcile_slot {i : Nat} (hi : i < s.slots.length) (h : (s.slotAt i).state ≠ (s.reconciled.slotAt i).state) :
    ∃ m : SlotImage, m.state = (s.reconciled.slotAt i).state ∧
      { payload := .slot i m, owner := .nobody } ∈ s.reconcile.store.offers := by
  have hmem : i ∈ changedSlots s s.reconciled :=
    List.mem_filter.2 ⟨List.mem_range.2 (by rwa [State.reconciled_length]), decide_eq_true (.inl h)⟩
  rw [State.reconcile_eq]
  exact State.offerInOrder_slot _ _ _ _ hmem

end

/-! ### The chunk tables (R78, R186) -/

theorem State.rebuild_dynAt (s : State) (u : Nat) : s.rebuild.dynAt u = s.dynAt u := rfl

theorem State.rebuild_log (s : State) : s.rebuild.log = s.log := rfl

theorem State.rebuild_store (s : State) : s.rebuild.store = s.store := rfl

theorem State.rebuild_length (s : State) : s.rebuild.slots.length = s.slots.length := List.length_map ..

theorem State.rebuild_slotAt (s : State) (i : Nat) : s.rebuild.slotAt i = (s.slotAt i).rebuilt := by
  simp only [State.slotAt, State.rebuild, List.getD_eq_getElem?_getD, List.getElem?_map]
  cases s.slots[i]? <;> rfl

@[simp] theorem SlotRec.rebuilt_state (r : SlotRec) : r.rebuilt.state = r.state := rfl

/-- R78, R186: every chunk is as replay leaves it, and a FILLING slot waits for its reload. -/
structure State.Rebuilt (s : State) : Prop where
  chunk : ∀ i, ∀ c ∈ (s.slotAt i).chunks, c = Chunk.afterReplay
  count : ∀ i m, (s.slotAt i).summary = some m → (s.slotAt i).chunks.length = m.chunks
  waits : ∀ i, (s.slotAt i).state = .filling →
    (s.slotAt i).reload = true ∧ { slot := i, reload := true } ∈ s.manifestJobs

theorem State.rebuild_rebuilt (s : State) : s.rebuild.Rebuilt where
  chunk i c hc := by
    rw [State.rebuild_slotAt] at hc
    exact List.eq_of_mem_replicate hc
  count i m hm := by
    rw [State.rebuild_slotAt] at hm ⊢
    have hm : (s.slotAt i).summary = some m := hm
    simp [SlotRec.rebuilt, hm]
  waits i hi := by
    rw [State.rebuild_slotAt] at hi ⊢
    have hi : (s.slotAt i).state = .filling := hi
    refine ⟨by simp [SlotRec.rebuilt, hi, SlotState.reloads], List.mem_filterMap.2 ⟨(s.slotAt i, i), ?_, ?_⟩⟩
    · rw [List.mem_zipIdx_iff_getElem?, State.slotAt, List.getD_eq_getElem?_getD] at *
      cases h : s.slots[i]? with
      | none => simp [h, SlotRec.blank] at hi
      | some r => simp
    · simp [hi, SlotState.reloads]

/-- What the drop of a slot's jobs does to its chunks. -/
def Chunk.dropped (c : Chunk) : Chunk := { c with queued := false }

/-- A slot through the boot event: its chunks lose their queued marks at most, its manifest stays, and it is FILLING only
where it was. -/
theorem State.Rebuilt.of_slotAt {s t : State} (h : s.Rebuilt)
    (hchunks : ∀ i, (t.slotAt i).chunks = (s.slotAt i).chunks ∨
      (t.slotAt i).chunks = (s.slotAt i).chunks.map Chunk.dropped)
    (hsummary : ∀ i, (t.slotAt i).summary = (s.slotAt i).summary)
    (hwaits : ∀ i, (t.slotAt i).state = .filling → (s.slotAt i).state = .filling ∧
      (t.slotAt i).reload = (s.slotAt i).reload ∧
      ({ slot := i, reload := true } ∈ s.manifestJobs → { slot := i, reload := true } ∈ t.manifestJobs)) :
    t.Rebuilt where
  chunk i c hc := by
    rcases hchunks i with e | e
    · exact h.chunk i c (e ▸ hc)
    · rw [e] at hc
      obtain ⟨x, hx, rfl⟩ := List.mem_map.1 hc
      rw [h.chunk i x hx]
      rfl
  count i m hm := by
    rw [hsummary] at hm
    rcases hchunks i with e | e
    · rw [e, h.count i m hm]
    · rw [e, List.length_map, h.count i m hm]
  waits i hi := by
    obtain ⟨hf, hr, hm⟩ := hwaits i hi
    obtain ⟨hr', hm'⟩ := h.waits i hf
    exact ⟨hr.trans hr', hm hm'⟩

theorem State.Rebuilt.of_eq {s t : State} (h : s.Rebuilt) (hs : t.slots = s.slots)
    (hm : t.manifestJobs = s.manifestJobs) : t.Rebuilt := by
  have hslot (i : Nat) : t.slotAt i = s.slotAt i := congrArg (List.getD · i SlotRec.blank) hs
  exact h.of_slotAt (fun i => .inl (by rw [hslot])) (fun i => by rw [hslot])
    fun i hi => ⟨by rwa [← hslot], by rw [hslot], by rw [hm]; exact id⟩

theorem State.dropSlotJobs_slotAt (s : State) (i k : Nat) : (s.dropSlotJobs i).slotAt k =
    if i = k ∧ k < s.slots.length then { s.slotAt k with chunks := (s.slotAt k).chunks.map Chunk.dropped }
    else s.slotAt k :=
  State.slotAt_updSlot ..

theorem State.markDecayed_slotAt (s : State) (i k : Nat) : (s.markDecayed i).slotAt k =
    if i = k ∧ k < s.slots.length then
      { s.slotAt k with chunks := (s.slotAt k).chunks.map Chunk.dropped, decayed := true }
    else s.slotAt k := by
  have hlen : (s.dropSlotJobs i).slots.length = s.slots.length := State.slots_length_updSlot ..
  rw [State.markDecayed, State.slotAt_updSlot, State.dropSlotJobs_slotAt, hlen]
  split <;> rfl

/-- R134, R135: the slot of a trial that fails at the boot event. -/
def SlotRec.trialLost (r : SlotRec) : SlotRec :=
  { r with state := .failed, decayed := false, reload := false, chunks := r.chunks.map Chunk.dropped }

section
variable (s : State)

@[simp] theorem State.updBoot_slots (f : BootEvent → BootEvent) : (s.updBoot f).slots = s.slots := rfl
@[simp] theorem State.updBoot_targets (f : BootEvent → BootEvent) : (s.updBoot f).targets = s.targets := rfl
@[simp] theorem State.updBoot_log (f : BootEvent → BootEvent) : (s.updBoot f).log = s.log := rfl
@[simp] theorem State.updBoot_manifestJobs (f : BootEvent → BootEvent) :
    (s.updBoot f).manifestJobs = s.manifestJobs := rfl
@[simp] theorem State.dropManifest_slots (i : Nat) : (s.dropManifest i).slots = s.slots := rfl
@[simp] theorem State.dropManifest_targets (i : Nat) : (s.dropManifest i).targets = s.targets := rfl
@[simp] theorem State.failSlot_targets (i : Nat) : (s.failSlot i).targets = s.targets := rfl
@[simp] theorem State.failSlot_manifestJobs (i : Nat) : (s.failSlot i).manifestJobs = s.manifestJobs := rfl

theorem State.failSlot_slotAt (i k : Nat) : (s.failSlot i).slotAt k =
    if i = k ∧ k < s.slots.length then
      { s.slotAt k with chunks := (s.slotAt k).chunks.map Chunk.dropped, state := .failed, decayed := false }
    else s.slotAt k := by
  have hlen : (s.dropSlotJobs i).slots.length = s.slots.length := State.slots_length_updSlot ..
  rw [State.failSlot, State.slotAt_updSlot, State.dropSlotJobs_slotAt, hlen]
  split <;> rfl

theorem State.failSlot_length (i : Nat) : (s.failSlot i).slots.length = s.slots.length :=
  (State.slots_length_updSlot ..).trans (State.slots_length_updSlot ..)

variable (t i : Nat) (r : Option Reason) (c : Option Nat)

theorem State.bootTrialFails_slots :
    (s.bootTrialFails t i r c).slots = ((s.failSlot i).updSlot i SlotRec.reloadFailed).slots := by
  simp [State.bootTrialFails]

theorem State.bootTrialFails_slotAt (k : Nat) : (s.bootTrialFails t i r c).slotAt k =
    if i = k ∧ k < s.slots.length then (s.slotAt k).trialLost else s.slotAt k := by
  have h : (s.bootTrialFails t i r c).slotAt k = ((s.failSlot i).updSlot i SlotRec.reloadFailed).slotAt k :=
    congrArg (List.getD · k SlotRec.blank) (s.bootTrialFails_slots t i r c)
  rw [h, State.slotAt_updSlot, State.failSlot_length, State.failSlot_slotAt]
  split <;> rfl

theorem State.bootTrialFails_targets :
    (s.bootTrialFails t i r c).targets = (s.updDyn t TargetDyn.endTrial).targets := by
  simp [State.bootTrialFails]

theorem State.bootTrialFails_dynAt (u : Nat) :
    (s.bootTrialFails t i r c).dynAt u = (s.updDyn t TargetDyn.endTrial).dynAt u :=
  congrArg (List.getD · u TargetDyn.blank) (s.bootTrialFails_targets t i r c)

theorem State.mem_manifestJobs_bootTrialFails (m : ManifestJob) (h : m ∈ s.manifestJobs) (hm : m.slot ≠ i) :
    m ∈ (s.bootTrialFails t i r c).manifestJobs := by
  have hjobs : (s.bootTrialFails t i r c).manifestJobs = ((s.failSlot i).dropManifest i).manifestJobs := by
    simp [State.bootTrialFails]
  rw [hjobs]
  exact List.mem_filter.2 ⟨h, by simpa using hm⟩

end

/-! ### The boot event of start-up (R187) -/

theorem State.Journals.rebuilt {s t : State} (h : s.Journals t) (hs : s.Rebuilt)
    (hm : t.manifestJobs = s.manifestJobs) : t.Rebuilt := by
  refine hs.of_slotAt (fun i => .inl ?_) (fun i => ?_) fun i hi => ⟨h.state i ▸ hi, ?_, hm ▸ id⟩ <;>
    rcases h.slot i with e | e <;> rw [e] <;> rfl

theorem bootClosed_rebuilt : BootClosed State.Rebuilt where
  boot _ _ h := h.of_eq rfl rfl
  dyn _ _ _ _ h := h.of_eq rfl rfl
  log _ _ h := h.of_eq rfl rfl
  offer _ _ _ h := h.of_eq rfl rfl
  offerSlot s o i h := (s.offerSlot_journals o i).rebuilt h rfl
  decayed s i h := by
    refine h.of_slotAt (fun k => ?_) (fun k => ?_) fun k hk => ?_
    · rw [State.markDecayed_slotAt]
      split
      · exact .inr rfl
      · exact .inl rfl
    · rw [State.markDecayed_slotAt]
      split <;> rfl
    · rw [State.markDecayed_slotAt] at hk ⊢
      by_cases he : i = k ∧ k < s.slots.length
      · rw [if_pos he] at hk ⊢
        exact ⟨hk, rfl, id⟩
      · rw [if_neg he] at hk ⊢
        exact ⟨hk, rfl, id⟩
  scan _ _ _ h := h.of_eq rfl rfl

theorem State.Rebuilt.bootTrialFails {s : State} (h : s.Rebuilt) (t i : Nat) (r : Option Reason) (c : Option Nat) :
    (s.bootTrialFails t i r c).Rebuilt := by
  refine h.of_slotAt (fun k => ?_) (fun k => ?_) fun k hk => ?_
  · rw [State.bootTrialFails_slotAt]
    split
    · exact .inr rfl
    · exact .inl rfl
  · rw [State.bootTrialFails_slotAt]
    split <;> rfl
  · rw [State.bootTrialFails_slotAt] at hk ⊢
    split at hk
    · cases hk
    · next hne =>
      rw [if_neg hne]
      refine ⟨hk, rfl, fun hm => s.mem_manifestJobs_bootTrialFails t i r c _ hm fun e => hne ⟨e.symm, ?_⟩⟩
      by_contra hlen
      rw [State.slotAt, List.getD_eq_getElem?_getD, List.getElem?_eq_none (by omega)] at hk
      cases hk

theorem State.Rebuilt.beginBoot {s : State} (h : s.Rebuilt) (startup : Bool) : (s.beginBoot startup).Rebuilt :=
  bootClosed_rebuilt.beginBoot h (fun _ t i r c hu _ => hu.bootTrialFails t i r c) startup

/-- The floors of the targets are a given function. -/
def State.HasFloors (f : Nat → Nat) (s : State) : Prop := ∀ u, (s.dynAt u).floor = f u

theorem State.HasFloors.updDyn {f : Nat → Nat} {s : State} (h : s.HasFloors f) (t : Nat) {g : TargetDyn → TargetDyn}
    (hg : ∀ d, (g d).floor = d.floor) : (s.updDyn t g).HasFloors f := fun u => by
  rw [State.dynAt_updDyn]
  split
  · exact (hg _).trans (h u)
  · exact h u

theorem bootClosed_hasFloors (f : Nat → Nat) : BootClosed (State.HasFloors f) where
  boot _ _ := id
  dyn _ t _ hg h := h.updDyn t fun d => (hg d).1
  log _ _ := id
  offer _ _ _ := id
  offerSlot _ _ _ := id
  decayed _ _ := id
  scan _ _ _ := id

theorem State.HasFloors.bootTrialFails {f : Nat → Nat} {s : State} (h : s.HasFloors f) (t i : Nat)
    (r : Option Reason) (c : Option Nat) : (s.bootTrialFails t i r c).HasFloors f := fun u =>
  (congrArg TargetDyn.floor (s.bootTrialFails_dynAt t i r c u)).trans
    (h.updDyn t (g := TargetDyn.endTrial) (fun _ => rfl) u)

theorem State.beginBoot_floor (s : State) (startup : Bool) (u : Nat) :
    ((s.beginBoot startup).dynAt u).floor = (s.dynAt u).floor :=
  have h0 : s.HasFloors fun u => (s.dynAt u).floor := fun _ => rfl
  (bootClosed_hasFloors _).beginBoot h0 (fun _ t i r c hv _ => hv.bootTrialFails t i r c) startup u

/-- A slot keeps its state, its manifest and its reason, and is no target's trial. -/
def State.Rests (i : Nat) (r : SlotRec) (s : State) : Prop :=
  ((s.slotAt i).state = r.state ∧ (s.slotAt i).summary = r.summary ∧ (s.slotAt i).reason = r.reason) ∧
  ∀ t, (s.dynAt t).trial ≠ some i

theorem bootClosed_rests (i : Nat) (r : SlotRec) : BootClosed (State.Rests i r) where
  boot _ _ := id
  dyn s t f hf h := ⟨h.1, fun u => by
    rw [State.dynAt_updDyn]
    split
    · rw [(hf _).2]; exact h.2 u
    · exact h.2 u⟩
  log _ _ := id
  offer _ _ _ := id
  offerSlot s o k h := by
    refine ⟨?_, h.2⟩
    rcases (s.offerSlot_journals o k).slot i with e | e <;> rw [e] <;> exact h.1
  decayed s k h := ⟨by rw [State.markDecayed_slotAt]; split <;> exact h.1, h.2⟩
  scan _ _ _ := id

/-- R187: a slot that is no target's trial rests through the boot event. -/
theorem State.Rests.beginBoot {s : State} {i : Nat} {r : SlotRec} (h : s.Rests i r) (startup : Bool) :
    (s.beginBoot startup).Rests i r := by
  refine (bootClosed_rests i r).beginBoot h (fun u t k rs c hu hk => ⟨?_, fun v => ?_⟩) startup
  · rw [State.bootTrialFails_slotAt, if_neg fun ⟨e, _⟩ => hu.2 t (e ▸ hk)]
    exact hu.1
  · rw [State.bootTrialFails_dynAt, State.dynAt_updDyn]
    split
    · simp [TargetDyn.endTrial]
    · exact hu.2 v

theorem State.beginBoot_slots_of_no_target {s : State} (h : s.bootTarget = none) (startup : Bool) :
    (s.beginBoot startup).slots = s.slots ∧ (s.beginBoot startup).targets = s.targets ∧
    (s.beginBoot startup).store = s.store := by
  rw [State.beginBoot, h]
  exact ⟨rfl, rfl, rfl⟩

/-- R138: with no trial failed and no slot decayed, the slot chosen is recorded and no slot changes. -/
theorem State.settleBoot_of_quiet {s : State} {b : BootEvent} (hb : s.boot = some b) (hf : b.failedTrial = none)
    (hd : b.decayed = []) (t : Nat) (c : Option Nat) :
    (s.settleBoot t c).slots = s.slots ∧ (s.settleBoot t c).log = s.log ∧
    (s.settleBoot t c).targets = (s.updDyn t fun d => { d with booted := c }).targets := by
  have hb' : (s.updDyn t fun d => { d with booted := c }).boot = some b := hb
  unfold State.settleBoot
  simp only [hb', hf, hd, List.foldl_nil, State.updBoot_slots, State.updBoot_log, State.updBoot_targets]
  split
  · exact ⟨rfl, rfl, rfl⟩
  · exact ⟨rfl, rfl, rfl⟩

/-- With no roles the boot event chooses no slot, and changes no slot. -/
theorem State.NoRoles.beginBoot {s : State} (h : s.NoRoles) (startup : Bool) :
    (s.beginBoot startup).slots = s.slots ∧ (s.beginBoot startup).log = s.log ∧ (s.beginBoot startup).NoRoles := by
  unfold State.beginBoot
  split
  · exact ⟨rfl, rfl, h⟩
  · next t _ =>
    obtain ⟨ha, ht, -, -⟩ := h t
    extract_lets s1
    have hask : s1.askActive t = s1.settleBoot t none := by
      rw [State.askActive, show (s1.dynAt t).active = none from ha]
    simp only [ht, hask]
    obtain ⟨hslots, hlog, htargets⟩ := State.settleBoot_of_quiet (s := s1) rfl rfl rfl t none
    refine ⟨hslots, hlog, fun u => ?_⟩
    have hdyn : (s1.settleBoot t none).dynAt u = (s1.updDyn t fun d => { d with booted := none }).dynAt u :=
      congrArg (List.getD · u TargetDyn.blank) htargets
    obtain ⟨hua, hut, huf, -⟩ := h u
    rw [hdyn, State.dynAt_updDyn]
    split
    · exact ⟨hua, hut, huf, rfl⟩
    · exact h u

/-! ### The engine over rebuilt tables (R104, R106) -/

theorem State.Rebuilt.eligibleChunks {s : State} (h : s.Rebuilt) : s.eligibleChunks = [] := by
  refine List.eq_nil_iff_forall_not_mem.2 fun p hp => ?_
  obtain ⟨c, hc, hst⟩ := State.complete_of_eligible hp
  rw [State.chunkAt, SlotRec.chunkAt] at hc
  split at hc
  · cases hc
  · rw [h.chunk _ c (List.mem_of_getElem? hc)] at hst
    cases hst

theorem State.Rebuilt.sweep {s : State} (h : s.Rebuilt) : s.sweep = s := by
  rw [State.sweep, h.eligibleChunks, List.take_nil, List.foldl_nil]

theorem State.Rebuilt.startJob_slots {s : State} (h : s.Rebuilt) : s.startJob.slots = s.slots := by
  unfold State.startJob
  split
  · rfl
  · split
    · rfl
    · split
      · rfl
      · split
        · rfl
        · split
          · next e q _ =>
            have hsweep := congrArg State.slots
              (State.Rebuilt.sweep (s := { s with job := some (s.entryStart e), verifyQueue := q }) (h.of_eq rfl rfl))
            exact hsweep
          · rfl

theorem State.Rebuilt.resettle_slots {s : State} (h : s.Rebuilt) : s.resettle.slots = s.slots := by
  rw [State.resettle, h.sweep, h.startJob_slots]

theorem State.resettle_targets (s : State) : s.resettle.targets = s.targets := by rw [State.resettle_eq]

end Sys2Proof.Machine
end

section
/-! The part as start-up leaves it (R185 to R187), by what replay gave. -/

namespace Sys2Proof.Machine

open Sys2Proof

section
variable (s : State)

/-- The part before start-up's boot event: replayed, reconciled and rebuilt. -/
def State.booting : State := s.replay.pooled.reconcile.rebuild

theorem State.afterIdleWait_eq : s.afterIdleWait = (s.booting.beginBoot true).resettle := rfl

theorem State.booting_standing : s.booting.standing = s.replay.pooled.standing :=
  (State.rebuild_standing _).trans (State.reconcile_standing _)

theorem State.started_rebuilt : (s.booting.beginBoot true).Rebuilt :=
  (State.rebuild_rebuilt _).beginBoot true

theorem State.afterIdleWait_slots : s.afterIdleWait.slots = (s.booting.beginBoot true).slots :=
  s.started_rebuilt.resettle_slots

theorem State.afterIdleWait_slotAt (i : Nat) : s.afterIdleWait.slotAt i = (s.booting.beginBoot true).slotAt i :=
  congrArg (List.getD · i SlotRec.blank) s.afterIdleWait_slots

theorem State.afterIdleWait_dynAt (u : Nat) : s.afterIdleWait.dynAt u = (s.booting.beginBoot true).dynAt u :=
  congrArg (List.getD · u TargetDyn.blank) (State.resettle_targets _)

theorem State.afterIdleWait_rebuilt : s.afterIdleWait.Rebuilt :=
  s.started_rebuilt.of_eq s.afterIdleWait_slots (State.resettle_manifestJobs _)

theorem State.afterIdleWait_boot : s.afterIdleWait.boot.isSome = true :=
  (State.resettle_books _).boot (State.beginBoot_boot ..)

theorem State.booting_dynAt (u : Nat) : s.booting.dynAt u = s.replay.pooled.reconciled.dynAt u := by
  rw [State.booting, State.rebuild_dynAt, (State.reconcile_journals _).dynAt]

theorem State.booting_slotAt (i : Nat) : s.booting.slotAt i = (s.replay.pooled.reconcile.slotAt i).rebuilt :=
  State.rebuild_slotAt ..

theorem State.afterIdleWait_floor (u : Nat) : (s.afterIdleWait.dynAt u).floor = (s.replay.dynAt u).floor := by
  rw [State.afterIdleWait_dynAt, State.beginBoot_floor, State.booting_dynAt, State.reconciled_floor]
  rfl

/-- A slot that no role field keeps stands as replay gave it. -/
theorem State.afterIdleWait_of_quiet (hlen : s.replay.targets.length = 16) {i : Nat}
    (h : (s.replay.slotAt i).state.quiet) :
    (s.afterIdleWait.slotAt i).state = (s.replay.slotAt i).state ∧
    (s.afterIdleWait.slotAt i).summary = (s.replay.slotAt i).summary ∧
    (s.afterIdleWait.slotAt i).reason = (s.replay.slotAt i).reason := by
  obtain ⟨hslot, htrial⟩ := State.reconciled_of_quiet (s := s.replay.pooled) h hlen
  have hrests : s.booting.Rests i (s.replay.slotAt i) := by
    refine ⟨?_, fun t => ?_⟩
    · rw [State.booting_slotAt]
      rcases s.replay.pooled.reconcile_journals.slot i with e | e <;> rw [e, hslot] <;> exact ⟨rfl, rfl, rfl⟩
    · rw [State.booting_dynAt]
      exact htrial t
  rw [State.afterIdleWait_slotAt]
  exact (hrests.beginBoot true).1

end

/-! ### Fresh state (R155) -/

theorem eq_singleton_blank {s : State} (hlen : s.slots.length = 1) (h : s.slotAt 0 = SlotRec.blank) :
    s.slots = [SlotRec.blank] := by
  obtain ⟨r, hr⟩ := List.length_eq_one_iff.1 hlen
  rw [State.slotAt, hr] at h
  rw [hr]
  exact congrArg (fun x => [x]) h

section
variable {s : State} (hs : s.replay.slots = [SlotRec.blank]) (hr : s.replay.NoRoles)
include hs hr

theorem State.fresh_booting : s.booting.slots = [SlotRec.blank] ∧ s.booting.NoRoles := by
  have hbare : s.replay.pooled.slotAt 0 = SlotRec.blank := congrArg (List.getD · 0 SlotRec.blank) hs
  have hslot : s.replay.pooled.reconciled.slotAt 0 = SlotRec.blank :=
    (State.reconciled_slotAt_of_bare _ (by rw [hbare]; rfl)).trans hbare
  refine ⟨eq_singleton_blank ?_ ?_, fun u => ?_⟩
  · rw [State.booting, State.rebuild_length, (State.reconcile_journals _).length, State.reconciled_length]
    exact congrArg List.length hs
  · rw [State.booting_slotAt]
    rcases s.replay.pooled.reconcile_journals.slot 0 with e | e <;> rw [e, hslot] <;> rfl
  · rw [State.booting_dynAt]
    exact State.NoRoles.reconciled (s := s.replay.pooled) hr u

/-- R155: from fresh state the part starts with one EMPTY slot and no roles. -/
theorem State.afterIdleWait_of_fresh :
    s.afterIdleWait.slots = [SlotRec.blank] ∧ s.afterIdleWait.NoRoles ∧ s.afterIdleWait.log = s.booting.log := by
  obtain ⟨hslots, hroles⟩ := State.fresh_booting hs hr
  obtain ⟨hs', hlog', hr'⟩ := hroles.beginBoot true
  refine ⟨by rw [State.afterIdleWait_slots, hs', hslots], fun u => ?_, ?_⟩
  · rw [State.afterIdleWait_dynAt]
    exact hr' u
  · rw [State.afterIdleWait_eq, State.resettle_log, hlog']

end

theorem reconcileField_log (replayed : State) (t : Nat) (st : SlotState) (f : Option Nat) (s : State) :
    (reconcileField replayed t st f s).log = s.log := by
  unfold reconcileField
  split
  · rfl
  · split <;> rfl

theorem State.reconcileTarget_log (s : State) (t : Nat) : (s.reconcileTarget t).log = s.log :=
  (reconcileField_log ..).trans ((reconcileField_log ..).trans (reconcileField_log ..))

theorem State.reconciled_log (s : State) : s.reconciled.log = s.log :=
  List.foldlRecOn (motive := fun x : State => x.log = s.log) _ _ rfl fun x hx t _ => (x.reconcileTarget_log t).trans hx

theorem State.booting_log (s : State) : s.booting.log = s.replay.log := by
  rw [State.booting, State.rebuild_log, (State.reconcile_journals _).log, State.reconciled_log, State.pooled_log]

/-! ### No boot-mapped target (R140) -/

section
variable {s : State} (h : s.replay.bootTarget = none)
include h

theorem State.booting_bootTarget : s.booting.bootTarget = none := by
  have hstatics : s.booting.statics = s.replay.pooled.statics := by
    rw [← State.standing_statics, s.booting_standing, State.standing_statics]
  rw [State.bootTarget, hstatics, ← State.bootTarget, State.pooled_bootTarget, h]

/-- With no boot-mapped target the part starts with every target as reconciliation leaves it. -/
theorem State.afterIdleWait_dynAt_of_no_target (u : Nat) :
    s.afterIdleWait.dynAt u = s.replay.pooled.reconciled.dynAt u := by
  obtain ⟨-, htargets, -⟩ := State.beginBoot_slots_of_no_target (State.booting_bootTarget h) true
  rw [State.afterIdleWait_dynAt, State.dynAt, htargets, ← State.dynAt, State.booting_dynAt]

theorem State.afterIdleWait_slotAt_of_no_target (i : Nat) :
    s.afterIdleWait.slotAt i = (s.replay.pooled.reconcile.slotAt i).rebuilt := by
  obtain ⟨hslots, -⟩ := State.beginBoot_slots_of_no_target (State.booting_bootTarget h) true
  rw [State.afterIdleWait_slotAt, State.slotAt, hslots, ← State.slotAt, State.booting_slotAt]

theorem State.afterIdleWait_store_of_no_target : s.afterIdleWait.store = s.replay.pooled.reconcile.store := by
  obtain ⟨-, -, hstore⟩ := State.beginBoot_slots_of_no_target (State.booting_bootTarget h) true
  rw [State.afterIdleWait_eq, State.resettle_store, hstore, State.booting, State.rebuild_store]

end

end Sys2Proof.Machine
end

section
/-! A start with no boot-mapped target (R140): each target and its slots by what replay gave. -/

namespace Sys2Proof.Machine

open Sys2Proof

/-! ### A slot through its target's turn -/

section
variable (r : SlotRec) (floor : Nat)

theorem SlotRec.turned_trial :
    (r.turned true false false floor).state = .trial ∧ (r.turned true false false floor).decayed = false := by
  simp [SlotRec.turned, SlotRec.takeIf, SlotRec.takeRole, SlotRec.settleAt, SlotRec.belowFloor]

theorem SlotRec.turned_active :
    (r.turned false true false floor).state = .active ∧ (r.turned false true false floor).decayed = r.decayed := by
  simp [SlotRec.turned, SlotRec.takeIf, SlotRec.takeRole, SlotRec.settleAt, SlotRec.belowFloor]

theorem SlotRec.turned_fallback :
    (r.turned false false true floor).state = .fallback ∧ (r.turned false false true floor).decayed = r.decayed := by
  simp [SlotRec.turned, SlotRec.takeIf, SlotRec.takeRole, SlotRec.settleAt, SlotRec.belowFloor]

/-- A slot that no field names, in no role: the floor alone is applied. -/
theorem SlotRec.turned_unnamed (h : ¬ (r.state = .trial ∨ r.state = .active ∨ r.state = .fallback)) :
    r.turned false false false floor = r.belowFloor floor := by
  simp [SlotRec.turned, SlotRec.takeIf, SlotRec.settleAt, h]

/-- A slot in a role that no field names leaves it. -/
theorem SlotRec.turned_leaves (h : r.state = .trial ∨ r.state = .active ∨ r.state = .fallback) :
    (r.turned false false false floor).state =
      (if r.decayed = true then .failed else if floor ≤ r.version then .sealed else .outdated) ∧
    (r.turned false false false floor).decayed = false := by
  have hturned : r.turned false false false floor = (r.leaveRole floor).belowFloor floor := by
    simp [SlotRec.turned, SlotRec.takeIf, SlotRec.settleAt, h]
  have hversion : (r.leaveRole floor).version = r.version := rfl
  rw [hturned, SlotRec.belowFloor, hversion]
  by_cases hf : r.version < floor
  · have : ¬ floor ≤ r.version := by omega
    cases hd : r.decayed <;> simp [SlotRec.leaveRole, hf, hd, this]
  · rw [if_neg hf]
    exact ⟨rfl, rfl⟩

theorem SlotRec.turned_sealed (h : r.state = .sealed) :
    (r.turned false false false floor).state = if r.version < floor then .outdated else .sealed := by
  rw [r.turned_unnamed floor (by simp [h]), SlotRec.belowFloor]
  split <;> simp [h]

theorem SlotRec.turned_filling_below (h : r.state = .filling) (hf : r.version < floor) :
    (r.turned false false false floor).state = .rejected ∧
    (r.turned false false false floor).reason = some .rollback ∧ (r.turned false false false floor).summary = none := by
  rw [r.turned_unnamed floor (by simp [h]), SlotRec.belowFloor, if_pos hf]
  simp [h]

theorem SlotRec.turned_filling_least (h : r.state = .filling) (hf : floor ≤ r.version) :
    (r.turned false false false floor).state = .filling := by
  rw [r.turned_unnamed floor (by simp [h]), SlotRec.belowFloor, if_neg (by omega), h]

theorem SlotRec.turned_quiet (h : r.state.quiet) : (r.turned false false false floor).state = r.state := by
  rw [r.turned_unnamed floor (by rcases h with h | h | h | h <;> simp [h]), SlotRec.belowFloor]
  rcases h with h | h | h | h <;> simp [h]

end

/-! ### The part with no boot-mapped target -/

section
variable (s : State)

theorem State.applyRecord_targets_length (r : Record) : (s.applyRecord r).targets.length = s.targets.length := by
  unfold State.applyRecord
  cases r.payload with
  | target t d => exact List.length_modify ..
  | slot i m => dsimp only; split <;> rfl
  | _ => rfl

theorem State.foldl_applyRecord_targets_length (recs : List Record) :
    (recs.foldl State.applyRecord s).targets.length = s.targets.length :=
  foldl_applyRecord_inv (I := fun u => u.targets.length = s.targets.length) recs
    (fun u r _ hu => (u.applyRecord_targets_length r).trans hu) rfl

theorem State.restored_targets_length (recs : List Record) : (s.restored recs).targets.length = s.targets.length := by
  unfold State.restored
  split
  · exact s.foldl_applyRecord_targets_length recs
  · exact (List.length_map ..).trans (s.foldl_applyRecord_targets_length recs)

theorem State.replay_targets_length : s.replay.targets.length = s.targets.length := by
  cases hc : s.store.chosenHalf with
  | none => rw [State.replay_of_none s hc]; exact List.length_map ..
  | some h => rw [State.replay_eq hc rfl]; exact s.restored_targets_length _

theorem State.replay_statics : s.replay.statics = s.statics := by
  cases hc : s.store.chosenHalf with
  | none => rw [State.replay_of_none s hc]; rfl
  | some h =>
    obtain ⟨m, p, x, sl, tg, c, hf⟩ := s.restored_frame (halfRecords (s.store.half h).cells)
    rw [State.replay_eq hc rfl, hf]
    rfl

theorem State.replay_bootTarget : s.replay.bootTarget = s.bootTarget := by
  rw [State.bootTarget, State.replay_statics, State.bootTarget]

end

section
variable {s : State} (h : s.bootTarget = none) (hlen : s.targets.length = 16) {u : Nat} (hu : u < 16)
include h hlen hu

/-- R140: what reconciliation makes of a target that is not boot-mapped. -/
theorem State.started_dynAt : s.afterIdleWait.dynAt u =
    { s.replay.dynAt u with
      trial := s.replay.standingField u (s.replay.dynAt u).trial
      active := s.replay.standingField u (s.replay.dynAt u).active
      fallback := s.replay.standingField u (s.replay.dynAt u).fallback
      bootsLeft := 0, booted := none } := by
  obtain ⟨hdyn, -⟩ := s.replay.pooled.reconciled_target hu (s.replay_targets_length.trans hlen)
  have hb : s.replay.bootTarget = none := (s.replay_bootTarget).trans h
  rw [State.afterIdleWait_dynAt_of_no_target hb, hdyn, State.turnedDyn, State.pooled_bootTarget, hb]
  rfl

/-- R140: what start-up shows of a slot of the target is what the target's turn made of it. -/
theorem State.started_slotAt {i : Nat} (hi : (s.replay.slotAt i).target? = some u) :
    let r := (s.replay.slotAt i).turned (names (s.replay.standingField u (s.replay.dynAt u).trial) i)
      (names (s.replay.standingField u (s.replay.dynAt u).active) i)
      (names (s.replay.standingField u (s.replay.dynAt u).fallback) i) (s.replay.dynAt u).floor
    (s.afterIdleWait.slotAt i).state = r.state ∧ (s.afterIdleWait.slotAt i).decayed = r.decayed ∧
    (s.afterIdleWait.slotAt i).reason = r.reason ∧ (s.afterIdleWait.slotAt i).summary = r.summary := by
  intro r
  obtain ⟨-, hslot⟩ := s.replay.pooled.reconciled_target hu (s.replay_targets_length.trans hlen)
  have hrec : s.replay.pooled.reconciled.slotAt i = r := hslot i hi
  rw [State.afterIdleWait_slotAt_of_no_target ((s.replay_bootTarget).trans h)]
  rcases s.replay.pooled.reconcile_journals.slot i with e | e <;> rw [e, hrec] <;> exact ⟨rfl, rfl, rfl, rfl⟩

end

section
variable {s : State} (h : s.bootTarget = none)
include h

theorem State.started_target_offered {u : Nat} (hu : u < 16) (hd : s.afterIdleWait.dynAt u ≠ s.replay.dynAt u) :
    { payload := .target u (s.afterIdleWait.dynAt u), owner := .nobody } ∈ s.afterIdleWait.store.offers := by
  have hb : s.replay.bootTarget = none := (s.replay_bootTarget).trans h
  rw [State.afterIdleWait_dynAt_of_no_target hb] at hd ⊢
  rw [State.afterIdleWait_store_of_no_target hb]
  exact s.replay.pooled.reconcile_target hu (Ne.symm hd)

theorem State.started_slot_offered {i u : Nat} (hi : (s.replay.slotAt i).target? = some u)
    (hs : (s.afterIdleWait.slotAt i).state ≠ (s.replay.slotAt i).state) : ∃ m : SlotImage,
    m.state = (s.afterIdleWait.slotAt i).state ∧
    { payload := .slot i m, owner := .nobody } ∈ s.afterIdleWait.store.offers := by
  have hb : s.replay.bootTarget = none := (s.replay_bootTarget).trans h
  have hstate : (s.afterIdleWait.slotAt i).state = (s.replay.pooled.reconciled.slotAt i).state := by
    rw [State.afterIdleWait_slotAt_of_no_target hb, SlotRec.rebuilt_state, (State.reconcile_journals _).state]
  rw [hstate] at hs ⊢
  rw [State.afterIdleWait_store_of_no_target hb]
  exact s.replay.pooled.reconcile_slot (State.slot_lt_of_target _ hi) (Ne.symm hs)

end

end Sys2Proof.Machine
end

section
/-! The sectors and the journal when the part runs (R48, R153 to R156), by what replay gave. -/

namespace Sys2Proof.Machine

open Sys2Proof

/-! ### What stands behind replay -/

section
variable (s : State)

theorem State.started_phase : s.afterIdleWait.phase = s.replay.phase := by
  rw [← State.standing_phase, s.afterIdleWait_standing, State.standing_phase, State.pooled_phase]

theorem State.started_cfg : s.afterIdleWait.cfg = s.replay.cfg := by
  rw [← State.standing_cfg, s.afterIdleWait_standing, State.standing_cfg, State.pooled_cfg]

theorem State.started_map : s.afterIdleWait.map = s.replay.map := by
  rw [← State.standing_map, s.afterIdleWait_standing, State.standing_map, State.pooled_map]

theorem State.started_pool : s.afterIdleWait.pool = s.replay.pooled.pool := by
  rw [← State.standing_pool, s.afterIdleWait_standing, State.standing_pool]

theorem State.started_health : s.afterIdleWait.health = s.replay.pooled.health := by
  rw [← State.standing_health, s.afterIdleWait_standing, State.standing_health]

theorem State.started_strikes : s.afterIdleWait.strikes = [] := by
  rw [← State.standing_strikes, s.afterIdleWait_standing, State.standing_strikes, State.pooled_strikes]

theorem State.started_code : s.afterIdleWait.code = s.replay.code := by
  rw [← State.standing_code, s.afterIdleWait_standing, State.standing_code, State.pooled_code]

theorem State.started_hrstDriven : s.afterIdleWait.hrstDriven = s.replay.hrstDriven := by
  rw [← State.standing_hrstDriven, s.afterIdleWait_standing, State.standing_hrstDriven, State.pooled_hrstDriven]

theorem State.started_portOpen : s.afterIdleWait.portOpen = s.replay.portOpen := by
  rw [← State.standing_portOpen, s.afterIdleWait_standing, State.standing_portOpen, State.pooled_portOpen]

theorem State.started_store : s.afterIdleWait.store.idle = s.replay.store.idle := by
  rw [← State.standing_store, s.afterIdleWait_standing, State.standing_store, State.pooled_store]

theorem State.started_physical (l : Nat) : s.afterIdleWait.physical l = s.replay.physical l := by
  rw [State.physical, State.started_map, State.physical]

theorem State.started_healthOf (p : Nat) :
    s.afterIdleWait.healthOf p = (s.replay.healthOf p).retireIf (!s.replay.isMapped p) := by
  rw [State.healthOf, State.started_health, ← State.healthOf, State.pooled_healthOf]

theorem State.mem_started_pool (p : Nat) : p ∈ s.afterIdleWait.pool ↔
    p < s.replay.cfg.sPhys ∧ (s.afterIdleWait.healthOf p).retired = false ∧ ¬ s.replay.isMapped p = true := by
  rw [State.started_pool, State.mem_pooled, State.pooled_healthOf, State.started_healthOf]

end

/-! ### The journal behind a chosen half (R148, R153, R154) -/

section
variable (st : Store) (h : Half) (recs : List Record) (shut : Bool) (copy : SnapCopy)

theorem Store.dueIfFull_eq : st.dueIfFull =
    { st with compaction := st.dueIfFull.compaction, startHold := st.dueIfFull.startHold } := by
  unfold Store.dueIfFull
  split <;> rfl

theorem Store.dueIfFull_of_lt (hlt : st.freeCount < 32) :
    st.dueIfFull.compaction = .due ∧ st.dueIfFull.startHold = true := by
  rw [Store.dueIfFull, if_pos hlt]
  exact ⟨rfl, rfl⟩

theorem Store.dueIfFull_of_le (hle : 32 ≤ st.freeCount) : st.dueIfFull = st := if_neg (by omega)

theorem Store.behind_freeCount :
    (st.behind h recs shut copy).freeCount = if shut = true then 0 else 7680 - recs.length := by
  cases shut <;> rfl

theorem Store.behind_half :
    (st.behind h recs shut copy).half h = { st.half h with cond := .current } ∧
    (st.behind h recs shut copy).half (otherHalf h) = (st.half (otherHalf h)).atStart false := by
  cases h <;> exact ⟨rfl, rfl⟩

/-- The journal of a part that has replayed half `h`. -/
structure Store.GoesOn (h : Half) (recs : List Record) (shut : Bool) (copy : SnapCopy) (st t : Store) : Prop where
  current : t.current = some h
  nextFree : t.nextFree = recs.length
  nextSeq : t.nextSeq = firstNumber (st.half h).cells + BitVec.ofNat 32 recs.length
  chosen : t.half h = { st.half h with cond := .current }
  other : t.half (otherHalf h) = (st.half (otherHalf h)).atStart false
  closed : t.closed = shut
  replayed : t.replayed = if shut then some copy else none
  due : shut = true ∨ 7680 - recs.length < 32 → t.compaction = .due ∧ t.startHold = true
  calm : shut = false → 32 ≤ 7680 - recs.length → t.compaction = st.compaction

theorem Store.half_dueIfFull (k : Half) : st.dueIfFull.half k = st.half k := by
  rw [Store.dueIfFull_eq]
  cases k <;> rfl

theorem Store.behind_goesOn : st.GoesOn h recs shut copy (st.behind h recs shut copy).dueIfFull where
  current := by rw [Store.dueIfFull_eq]; rfl
  nextFree := by rw [Store.dueIfFull_eq]; rfl
  nextSeq := by rw [Store.dueIfFull_eq]; rfl
  chosen := (Store.half_dueIfFull ..).trans (st.behind_half h recs shut copy).1
  other := (Store.half_dueIfFull ..).trans (st.behind_half h recs shut copy).2
  closed := by rw [Store.dueIfFull_eq]; rfl
  replayed := by rw [Store.dueIfFull_eq]; rfl
  due hdue := by
    refine Store.dueIfFull_of_lt _ ?_
    rw [Store.behind_freeCount]
    split
    · omega
    · next hc => exact hdue.resolve_left hc
  calm hopen hfree := by
    rw [Store.dueIfFull_of_le]
    · rfl
    · rwa [Store.behind_freeCount, if_neg (by simp [hopen])]

variable {st h recs shut copy}

theorem Store.eq_of_idle {t t' : Store} (he : t'.idle = t.idle) :
    t' = { t with queue := t'.queue, waiting := t'.waiting } :=
  calc t' = { t'.idle with queue := t'.queue, waiting := t'.waiting } := rfl
    _ = { t.idle with queue := t'.queue, waiting := t'.waiting } := by rw [he]

theorem Store.GoesOn.of_idle {t t' : Store} (hg : st.GoesOn h recs shut copy t) (he : t'.idle = t.idle) :
    st.GoesOn h recs shut copy t' := by
  rw [Store.eq_of_idle he]
  exact {
    current := hg.current
    nextFree := hg.nextFree
    nextSeq := hg.nextSeq
    chosen := by cases h <;> exact hg.chosen
    other := by cases h <;> exact hg.other
    closed := hg.closed
    replayed := hg.replayed
    due := hg.due
    calm := hg.calm }

end

section
variable {s : State} {h : Half} (hc : s.store.chosenHalf = some h)
include hc

/-- R154, R155: the journal goes on behind the records of the chosen half. -/
theorem State.started_goesOn :
    s.store.GoesOn h (halfRecords (s.store.half h).cells) (s.shuts h) s.replay.snapCopy s.afterIdleWait.store := by
  refine Store.GoesOn.of_idle ?_ s.started_store
  obtain ⟨m, p, x, sl, tg, c, hf⟩ := s.restored_frame (halfRecords (s.store.half h).cells)
  have hstore : (s.restored (halfRecords (s.store.half h).cells)).store = s.store := by rw [hf]
  rw [State.replay_eq hc rfl, State.updStore, hstore]
  exact Store.behind_goesOn ..

end

end Sys2Proof.Machine
end

section
/-! The part that has replayed a half: what the last record of each subject leaves of it (R154, R155). -/

namespace Sys2Proof.Machine

open Sys2Proof

/-! ### What a record tells, spelled out -/

section
variable {T : Payload → Prop}

theorem tells_map_iff {l p : Nat} :
    (T (.map l p) ∨ ∃ l0 ps, T (.mapGroup l0 ps) ∧ l0 ≤ l ∧ ps[l - l0]? = some p) ↔
      ∃ x, T x ∧ x.mapsTo l = some p := by
  constructor
  · rintro (h | ⟨l0, ps, h, hle, hp⟩)
    · exact ⟨_, h, by simp [Payload.mapsTo]⟩
    · exact ⟨_, h, by simp [Payload.mapsTo, hle, hp]⟩
  · rintro ⟨x, h, hx⟩
    cases x with
    | map l' p' =>
      obtain ⟨rfl, hp⟩ := Option.ite_none_right_eq_some.1 hx
      cases hp
      exact .inl h
    | mapGroup l0 ps =>
      obtain ⟨hle, hp⟩ := Option.ite_none_right_eq_some.1 hx
      exact .inr ⟨l0, ps, h, hle, hp⟩
    | _ => cases hx

theorem tells_health_iff {p : Nat} {v : Health} :
    (T (.health p v) ∨ ∃ p0 xs, T (.healthGroup p0 xs) ∧ p0 ≤ p ∧ xs[p - p0]? = some v) ↔
      ∃ x, T x ∧ x.ratesAs p = some v := by
  constructor
  · rintro (h | ⟨p0, xs, h, hle, hv⟩)
    · exact ⟨_, h, by simp [Payload.ratesAs]⟩
    · exact ⟨_, h, by simp [Payload.ratesAs, hle, hv]⟩
  · rintro ⟨x, h, hx⟩
    cases x with
    | health p' v' =>
      obtain ⟨rfl, hv⟩ := Option.ite_none_right_eq_some.1 hx
      cases hv
      exact .inl h
    | healthGroup p0 xs =>
      obtain ⟨hle, hv⟩ := Option.ite_none_right_eq_some.1 hx
      exact .inr ⟨p0, xs, h, hle, hv⟩
    | _ => cases hx

theorem tells_target_iff {t : Nat} {d : TargetDyn} : T (.target t d) ↔ ∃ x, T x ∧ x.dynOf t = some d := by
  constructor
  · exact fun h => ⟨_, h, by simp [Payload.dynOf]⟩
  · rintro ⟨x, h, hx⟩
    cases x with
    | target t' d' =>
      obtain ⟨rfl, hd⟩ := Option.ite_none_right_eq_some.1 hx
      cases hd
      exact h
    | _ => cases hx

theorem tells_slot_iff {i : Nat} {m : SlotImage} : T (.slot i m) ↔ ∃ x, T x ∧ x.imageOf i = some m := by
  constructor
  · exact fun h => ⟨_, h, by simp [Payload.imageOf]⟩
  · rintro ⟨x, h, hx⟩
    cases x with
    | slot i' m' =>
      obtain ⟨rfl, hm⟩ := Option.ite_none_right_eq_some.1 hx
      cases hm
      exact h
    | _ => cases hx

theorem tells_slotCode_iff {c : Nat} : T (.slotCode c) ↔ ∃ x, T x ∧ x.codeOf = some c := by
  constructor
  · exact fun h => ⟨_, h, rfl⟩
  · rintro ⟨x, h, hx⟩
    cases x with
    | slotCode c' => cases hx; exact h
    | _ => cases hx

end

/-- Behind record `q` no record tells of the subject. -/
def LastTelling {α : Type} (told : Payload → Option α) (recs : List Record) (q : Nat) : Prop :=
  ∀ q' v, q < q' → ¬ ∃ x, Carries recs q' x ∧ told x = some v

theorem LastTelling.none {α : Type} {told : Payload → Option α} {recs : List Record} {q : Nat}
    (h : LastTelling told recs q) (q' : Nat) (y : Payload) (hq : q < q') (hy : Carries recs q' y) : told y = none :=
  Option.eq_none_iff_forall_ne_some.2 fun v hv => h q' v hq ⟨y, hy, hv⟩

/-- Record `q` of a half, counted in its run, carries a payload. -/
theorem carries_halfRecords_iff {cells : List RecCell} {n : Nat} (hlen : (halfRecords cells).length = n) (q : Nat)
    (x : Payload) : q < n ∧ (readAt cells q).map Record.payload = some x ↔ Carries (halfRecords cells) q x := by
  subst hlen
  constructor
  · rintro ⟨hq, hx⟩
    rw [Carries, getElem?_halfRecords hq, hx]
  · intro h
    obtain ⟨r, hr, -⟩ := Carries.iff.1 h
    have hq := (List.getElem?_eq_some_iff.1 hr).1
    exact ⟨hq, by rw [← getElem?_halfRecords hq]; exact h⟩

/-! ### The signature and the closing of a half (R154, R155) -/

theorem signatureMatches_iff (s : State) {cells : List RecCell} (hv : SnapshotWhole cells) :
    s.signatureMatches (halfRecords cells) = true ↔
      (readAt cells 0).map Record.payload = some (.snapBegin s.cfg.stagingStart s.cfg.sPhys s.cfg.sSp) := by
  obtain ⟨-, e, -, hrun, -⟩ := hv
  have hlen := (le_length_halfRecords_iff cells (e + 1)).2 hrun
  rw [← getElem?_halfRecords (by omega)]
  cases hrecs : halfRecords cells with
  | nil => rw [hrecs] at hlen; cases hlen
  | cons r t => simp [State.signatureMatches]

theorem shuts_iff (s : State) (h : Half) {n : Nat} (hv : SnapshotWhole (s.store.half h).cells)
    (hlen : (halfRecords (s.store.half h).cells).length = n) :
    s.shuts h = true ↔ (s.store.half h).cells[n]?.getD .blank ≠ .blank ∨
      ¬ (readAt (s.store.half h).cells 0).map Record.payload =
        some (.snapBegin s.cfg.stagingStart s.cfg.sPhys s.cfg.sSp) ∨ (s.store.half h).eraseCut = true := by
  rw [State.shuts, HalfState.closes, Bool.or_eq_true, Bool.or_eq_true, Bool.not_eq_true', tornAfter_iff, hlen,
    ← signatureMatches_iff s hv, Bool.not_eq_true, or_assoc]

/-! ### What replay of a half gives -/

section
variable {s : State} {h : Half} (hc : s.store.chosenHalf = some h)
include hc

theorem State.replay_core : s.replay.map = (s.restored (halfRecords (s.store.half h).cells)).map ∧
    s.replay.health = (s.restored (halfRecords (s.store.half h).cells)).health ∧
    s.replay.code = (s.restored (halfRecords (s.store.half h).cells)).code ∧
    s.replay.slots = (s.restored (halfRecords (s.store.half h).cells)).slots ∧
    s.replay.targets = (s.restored (halfRecords (s.store.half h).cells)).targets := by
  rw [State.replay_eq hc rfl]
  exact ⟨rfl, rfl, rfl, rfl, rfl⟩

theorem State.replay_frame : s.replay.phase = s.phase ∧ s.replay.cfg = s.cfg := by
  obtain ⟨m, p, x, sl, tg, c, hf⟩ := s.restored_frame (halfRecords (s.store.half h).cells)
  rw [State.replay_eq hc rfl, hf]
  exact ⟨rfl, rfl⟩

end

theorem State.freshStaging_dynAt (s : State) (u : Nat) :
    s.freshStaging.dynAt u = { TargetDyn.blank with floor := (s.dynAt u).floor } := by
  simp only [State.dynAt, State.freshStaging, List.getD_eq_getElem?_getD, List.getElem?_map]
  cases s.targets[u]? <;> rfl

theorem State.restored_floor (s : State) (recs : List Record) (u : Nat) :
    ((s.restored recs).dynAt u).floor = ((recs.foldl State.applyRecord s).dynAt u).floor := by
  unfold State.restored
  split
  · rfl
  · rw [State.freshStaging_dynAt]

theorem State.restored_map_wf {s : State} (hwf : tableWf (fun l => l) s.map = true) (recs : List Record) :
    tableWf (fun l => l) (s.restored recs).map = true := by
  unfold State.restored
  split
  · exact foldl_applyRecord_inv (I := fun u => tableWf (fun l => l) u.map = true) recs
      (fun u r _ hu => (u.applyRecord_map r hu 0).1) hwf
  · rfl

section
variable {s : State} {h : Half} (hc : s.store.chosenHalf = some h)
include hc

theorem State.replay_map_wf (hwf : tableWf (fun l => l) s.map = true) : tableWf (fun l => l) s.replay.map = true := by
  rw [(State.replay_core hc).1]
  exact State.restored_map_wf hwf _

/-- Whether a sector is mapped when the part runs. -/
theorem State.started_isMapped_iff (hwf : tableWf (fun l => l) s.map = true) (p : Nat) :
    s.replay.isMapped p = true ↔ ∃ l, s.afterIdleWait.physical l = p ∧ (l ≠ p ∨ l < s.cfg.sLog) := by
  rw [State.isMapped_iff (State.replay_map_wf hc hwf), (State.replay_frame hc).2]
  simp only [State.started_physical]

theorem State.mem_started_pool_iff (hwf : tableWf (fun l => l) s.map = true) (p : Nat) :
    p ∈ s.afterIdleWait.pool ↔ p < s.cfg.sPhys ∧ (s.afterIdleWait.healthOf p).retired = false ∧
      ¬ ∃ l, s.afterIdleWait.physical l = p ∧ (l ≠ p ∨ l < s.cfg.sLog) := by
  rw [State.mem_started_pool, (State.replay_frame hc).2, State.started_isMapped_iff hc hwf]

/-- R154: the floor that a target's last record carries is in force, whatever the signature. -/
theorem State.started_floor_of_last (hlen : s.targets.length = 16) {u q : Nat} {d : TargetDyn} (hu : u < 16)
    (hq : ∃ x, Carries (halfRecords (s.store.half h).cells) q x ∧ x.dynOf u = some d)
    (hlast : LastTelling (Payload.dynOf u) (halfRecords (s.store.half h).cells) q) :
    (s.afterIdleWait.dynAt u).floor = d.floor := by
  obtain ⟨x, hx, hd⟩ := hq
  have hdyn := replayed_dynAt (s := s) (hlen ▸ hu) hx hd hlast.none
  obtain ⟨-, -, -, -, htargets⟩ := State.replay_core hc
  rw [State.afterIdleWait_floor, State.dynAt, htargets, ← State.dynAt, State.restored_floor, hdyn]

/-! ### Another signature (R155) -/

theorem State.started_of_other_signature
    (hsig : ¬ s.signatureMatches (halfRecords (s.store.half h).cells) = true) :
    s.afterIdleWait.map = [] ∧ s.afterIdleWait.health = [] ∧ s.afterIdleWait.code = 0 ∧
    s.afterIdleWait.slots = [SlotRec.blank] ∧ s.afterIdleWait.NoRoles := by
  obtain ⟨hmap, hhealth, hcode, hslots, htargets⟩ := State.replay_core hc
  rw [State.restored, if_neg hsig] at hmap hhealth hcode hslots htargets
  have hroles : s.replay.NoRoles := fun u => by
    rw [State.dynAt, htargets, ← State.dynAt, State.freshStaging_dynAt]
    exact ⟨rfl, rfl, rfl, rfl⟩
  obtain ⟨hs, hr, -⟩ := State.afterIdleWait_of_fresh hslots hroles
  refine ⟨(State.started_map s).trans hmap, ?_, (State.started_code s).trans hcode, hs, hr⟩
  rw [State.started_health, State.pooled_health, hhealth]
  rfl

/-! ### The same signature (R154) -/

section
variable (hsig : s.signatureMatches (halfRecords (s.store.half h).cells) = true) {q : Nat}
include hsig

theorem State.started_physical_of_last (hwf : tableWf (fun l => l) s.map = true) {l p : Nat}
    (hq : ∃ x, Carries (halfRecords (s.store.half h).cells) q x ∧ x.mapsTo l = some p)
    (hlast : LastTelling (Payload.mapsTo l) (halfRecords (s.store.half h).cells) q) :
    s.afterIdleWait.physical l = p := by
  obtain ⟨x, hx, hp⟩ := hq
  rw [State.started_physical, State.physical, (State.replay_core hc).1, State.restored, if_pos hsig, ← State.physical]
  exact replayed_physical hwf hx hp hlast.none

theorem State.started_health_of_last (hmap : tableWf (fun l => l) s.map = true)
    (hwf : tableWf (fun _ => Health.blank) s.health = true) {p : Nat} {v : Health}
    (hq : ∃ x, Carries (halfRecords (s.store.half h).cells) q x ∧ x.ratesAs p = some v)
    (hlast : LastTelling (Payload.ratesAs p) (halfRecords (s.store.half h).cells) q) :
    (s.afterIdleWait.healthOf p).wear = v.wear ∧ (s.afterIdleWait.healthOf p).suspect = v.suspect ∧
    ((s.afterIdleWait.healthOf p).retired = true ↔ v.retired = true ∨
      (v.suspect = true ∧ ¬ ∃ l, s.afterIdleWait.physical l = p ∧ (l ≠ p ∨ l < s.cfg.sLog))) := by
  obtain ⟨x, hx, hp⟩ := hq
  have hv : s.replay.healthOf p = v := by
    rw [State.healthOf, (State.replay_core hc).2.1, State.restored, if_pos hsig, ← State.healthOf]
    exact replayed_healthOf hwf hx hp hlast.none
  rw [← State.started_isMapped_iff hc hmap, State.started_healthOf, hv]
  refine ⟨Health.retireIf_wear .., Health.retireIf_suspect .., ?_⟩
  rw [Health.retireIf_retired, Bool.not_eq_true', Bool.not_eq_true]

theorem State.started_code_of_last {c : Nat}
    (hq : ∃ x, Carries (halfRecords (s.store.half h).cells) q x ∧ x.codeOf = some c)
    (hlast : LastTelling Payload.codeOf (halfRecords (s.store.half h).cells) q) : s.afterIdleWait.code = c := by
  obtain ⟨x, hx, hcode⟩ := hq
  obtain ⟨-, -, hcore, -⟩ := State.replay_core hc
  rw [State.started_code, hcore, State.restored, if_pos hsig]
  exact replayed_code hx hcode hlast.none

/-- R154: behind the last SLOT_CODE record, a slot that no role field keeps is what its last record says. -/
theorem State.started_slot_of_last (hlen : s.targets.length = 16) {q0 c i : Nat} {m : SlotImage}
    (h0 : Carries (halfRecords (s.store.half h).cells) q0 (.slotCode c))
    (hlast0 : LastTelling Payload.codeOf (halfRecords (s.store.half h).cells) q0) (hlt : q0 < q) (hi : i < 2 ^ c)
    (hq : Carries (halfRecords (s.store.half h).cells) q (.slot i m))
    (hlast : LastTelling (Payload.imageOf i) (halfRecords (s.store.half h).cells) q) (hm : m.state.quiet) :
    (s.afterIdleWait.slotAt i).state = m.state ∧ (s.afterIdleWait.slotAt i).summary = m.summary ∧
    (m.state = .rejected → (s.afterIdleWait.slotAt i).reason = some .rollback) := by
  have hslot : s.replay.slotAt i = m.toSlot := by
    obtain ⟨-, -, -, hslots, -⟩ := State.replay_core hc
    rw [State.slotAt, hslots, State.restored, if_pos hsig, ← State.slotAt]
    exact replayed_slotAt h0 hlast0.none hlt hi hq hlast.none
  have hquiet : (s.replay.slotAt i).state.quiet := by rw [hslot]; exact hm
  obtain ⟨hstate, hsummary, hreason⟩ := s.afterIdleWait_of_quiet ((s.replay_targets_length).trans hlen) hquiet
  rw [hstate, hsummary, hreason, hslot]
  exact ⟨rfl, rfl, fun hrej => if_pos hrej⟩

end

end

end Sys2Proof.Machine
end

section
/-! The end of the start-up's wait (R184 to R187), settled. -/

namespace Sys2Proof.Machine

open Sys2Proof

theorem HalfState.atStart_false (x : HalfState) : x.atStart false = { x with
    cond := if x.cells.all (fun c => c == .blank) = true ∧ x.eraseCut = false then .blank else .erasing } := by
  rw [HalfState.atStart, allBlank]
  cases x.cells.all fun c => c == .blank <;> cases x.eraseCut <;> rfl

/-! ### No valid half (R153, R155) -/

section
variable {s : State} (hc : s.store.chosenHalf = none)
include hc

theorem State.replay_dynAt_of_no_half (u : Nat) : (s.replay.dynAt u) = TargetDyn.blank := by
  rw [State.replay_of_none s hc, State.updStore_dynAt, State.dynAt, List.getD_eq_getElem?_getD, List.getElem?_map]
  cases s.targets[u]? <;> rfl

theorem State.started_fresh :
    s.afterIdleWait.slots = [SlotRec.blank] ∧ s.afterIdleWait.log = s.log ∧
    ∀ u, (s.afterIdleWait.dynAt u).floor = 0 ∧ (s.afterIdleWait.dynAt u).booted = none := by
  have hslots : s.replay.slots = [SlotRec.blank] := by rw [State.replay_of_none s hc]; rfl
  have hlog : s.replay.log = s.log := by rw [State.replay_of_none s hc]; rfl
  have hroles : s.replay.NoRoles := fun u => by
    rw [State.replay_dynAt_of_no_half hc]
    exact ⟨rfl, rfl, rfl, rfl⟩
  obtain ⟨hs, hr, hl⟩ := State.afterIdleWait_of_fresh hslots hroles
  refine ⟨hs, hl.trans ((State.booting_log s).trans hlog), fun u => ⟨?_, (hr u).2.2.2⟩⟩
  rw [State.afterIdleWait_floor, State.replay_dynAt_of_no_half hc]
  rfl

theorem State.started_fresh_frame : s.afterIdleWait.phase = s.phase ∧ s.afterIdleWait.map = [] ∧
    s.afterIdleWait.code = 0 ∧ s.afterIdleWait.hrstDriven = s.hrstDriven ∧ s.afterIdleWait.portOpen = s.portOpen ∧
    s.afterIdleWait.cfg = s.cfg := by
  rw [State.started_phase, State.started_map, State.started_code, State.started_hrstDriven, State.started_portOpen,
    State.started_cfg, State.replay_of_none s hc]
  exact ⟨rfl, rfl, rfl, rfl, rfl, rfl⟩

theorem State.started_fresh_store :
    s.afterIdleWait.store.current = none ∧ s.afterIdleWait.store.nextSeq = 0 ∧
    s.afterIdleWait.store.compaction = .due ∧ s.afterIdleWait.store.replayed = none ∧
    s.afterIdleWait.store.half0 = s.store.half0.atStart false ∧
    s.afterIdleWait.store.half1 = s.store.half1.atStart false := by
  rw [Store.eq_of_idle s.started_store, State.replay_of_none s hc]
  exact ⟨rfl, rfl, rfl, rfl, rfl, rfl⟩

end

/-! ### The statement -/

/-- Settles O57. A busy byte changes nothing; the byte with busy 0 lets the part start, and what it starts with is read off
replay: the records of the chosen half by the last that tells of a subject, or fresh state; the sectors and the journal,
which nothing of start-up behind replay touches; the slots that reconciliation and the boot event pass over; and, with no
boot-mapped target, each target's turn of the reconciliation. -/
theorem idleWaitEnds : Obligations.IdleWaitEnds := by
  intro s answer hp hi hcomp
  refine ⟨fun op ho hb => exec_flashIdleWaitEnd_of_busy hp hi ho hb, ?_, ?_, ?_⟩
  · intro hb hv0 hv1 restarted
    obtain ⟨m, f, k, hexec⟩ := exec_flashIdleWaitEnd_of_idle hp hi hb
    have hc : (s.awake m f k).store.chosenHalf = none := Store.chosenHalf_of_none hv0 hv1
    obtain ⟨hphase, hmap, hcode, hhrst, hport, hcfg⟩ := State.started_fresh_frame hc
    obtain ⟨hslots, hlog, hdyn⟩ := State.started_fresh hc
    obtain ⟨hcur, hseq, hdue, hrep, h0, h1⟩ := State.started_fresh_store hc
    exact ⟨_, hexec, hphase, hmap, hcode, hslots, hdyn, hcur, hseq, hdue, hrep, h0.trans (HalfState.atStart_false _),
      h1.trans (HalfState.atStart_false _), State.afterIdleWait_boot _, hhrst, hport, hcfg, hlog⟩
  · intro h n hb hwf hlen cells other same torn shut tells maps rates hv hlater hrun hend
    obtain ⟨-, hmap, hhealth, -⟩ := hwf
    obtain ⟨m, f, k, hexec⟩ := exec_flashIdleWaitEnd_of_idle hp hi hb
    have hc : (s.awake m f k).store.chosenHalf = some h :=
      Store.chosenHalf_of_later hv fun ho => (later_iff _ _).2 (hlater ho)
    have hn : (halfRecords cells).length = n := length_halfRecords hrun hend
    have htells (q : Nat) (x : Payload) : tells q x ↔ Carries (halfRecords cells) q x := carries_halfRecords_iff hn q x
    have hsame : same ↔ (s.awake m f k).signatureMatches (halfRecords cells) = true :=
      (signatureMatches_iff (s.awake m f k) hv).symm
    have hshut : (s.awake m f k).shuts h = true ↔ shut := shuts_iff (s.awake m f k) h hv hn
    have hmaps (q l p : Nat) : maps q l p ↔ ∃ x, Carries (halfRecords cells) q x ∧ x.mapsTo l = some p :=
      (tells_map_iff (T := tells q)).trans (exists_congr fun x => and_congr_left' (htells q x))
    have hrates (q p : Nat) (v : Health) :
        rates q p v ↔ ∃ x, Carries (halfRecords cells) q x ∧ x.ratesAs p = some v :=
      (tells_health_iff (T := tells q)).trans (exists_congr fun x => and_congr_left' (htells q x))
    have htargets (q u : Nat) (d : TargetDyn) :
        tells q (.target u d) ↔ ∃ x, Carries (halfRecords cells) q x ∧ x.dynOf u = some d :=
      (htells q _).trans tells_target_iff
    have hslots (q i : Nat) (x : SlotImage) :
        tells q (.slot i x) ↔ ∃ y, Carries (halfRecords cells) q y ∧ y.imageOf i = some x :=
      (htells q _).trans tells_slot_iff
    have hcodes (q c : Nat) : tells q (.slotCode c) ↔ ∃ y, Carries (halfRecords cells) q y ∧ y.codeOf = some c :=
      (htells q _).trans tells_slotCode_iff
    have hgo := State.started_goesOn hc
    have hrebuilt := (s.awake m f k).afterIdleWait_rebuilt
    have hcopy : (s.awake m f k).replay.snapCopy = s.replay.snapCopy := by rw [State.replay_awake]; rfl
    refine ⟨_, hexec, (State.started_phase _).trans (State.replay_frame hc).1, State.started_strikes _, hgo.current,
      hgo.nextFree.trans hn, by rw [hgo.nextSeq]; exact congrArg _ (congrArg _ hn), hgo.chosen,
      hgo.other.trans (HalfState.atStart_false _), by rw [hgo.closed, hshut],
      fun hs => ?_, fun hs => ?_, fun hdue => hgo.due (hdue.imp hshut.2 fun hlt => by rwa [← hn] at hlt),
      fun hs hfree => ?_, fun u q d hu hq hlast => ?_, State.mem_started_pool_iff hc hmap, fun i c x hx => ?_,
      hrebuilt.count, hrebuilt.waits, fun hs => ?_,
      fun hs => ⟨fun q l p hq hlast => ?_, fun q p x hq hlast => ?_, fun q0 c h0 hlast0 => ⟨?_, ?_⟩⟩⟩
    · rw [hgo.replayed, if_pos (hshut.2 hs), hcopy]
    · rw [hgo.replayed, if_neg fun e => hs (hshut.1 e)]
    · exact (hgo.calm (Bool.eq_false_iff.2 fun e => hs (hshut.1 e)) (by rwa [← hn] at hfree)).trans hcomp
    · exact State.started_floor_of_last hc hlen hu ((htargets ..).1 hq)
        fun q' d' hlt hx => hlast q' d' hlt ((htargets ..).2 hx)
    · rw [State.chunkAt, SlotRec.chunkAt] at hx
      split at hx
      · cases hx
      · exact hrebuilt.chunk i x (List.mem_of_getElem? hx)
    · obtain ⟨hm, hh, hcode, hsl, hroles⟩ := State.started_of_other_signature hc fun e => hs (hsame.2 e)
      exact ⟨hm, hh, hcode, hsl, fun u => ⟨(hroles u).1, (hroles u).2.1, (hroles u).2.2.1⟩⟩
    · exact State.started_physical_of_last hc (hsame.1 hs) hmap ((hmaps ..).1 hq)
        fun q' p' hlt hx => hlast q' p' hlt ((hmaps ..).2 hx)
    · exact State.started_health_of_last hc (hsame.1 hs) hmap hhealth ((hrates ..).1 hq)
        fun q' v' hlt hx => hlast q' v' hlt ((hrates ..).2 hx)
    · exact State.started_code_of_last hc (hsame.1 hs) ((hcodes ..).1 h0)
        fun q' c' hlt hx => hlast0 q' c' hlt ((hcodes ..).2 hx)
    · intro q i x hlt hq hi hlast hquiet
      exact State.started_slot_of_last hc (hsame.1 hs) hlen ((htells ..).1 h0)
        (fun q' c' hlt hy => hlast0 q' c' hlt ((hcodes ..).2 hy)) hlt hi ((htells ..).1 hq)
        (fun q' m' hlt hy => hlast q' m' hlt ((hslots ..).2 hy)) hquiet
  · intro u hb hboot hlen hu q d keeps trial active fallback
    obtain ⟨m, f, k, hexec⟩ := exec_flashIdleWaitEnd_of_idle hp hi hb
    have hreplay : (s.awake m f k).replay = q.awake m f k := s.replay_awake m f k
    have hdyn := State.started_dynAt (s := s.awake m f k) hboot hlen hu
    have hoffer := State.started_target_offered (s := s.awake m f k) hboot hu
    rw [hreplay] at hdyn hoffer
    refine ⟨_, hexec, hdyn, hoffer, fun i hi => ?_⟩
    have hslot := State.started_slotAt (s := s.awake m f k) hboot hlen hu (i := i) (by rwa [hreplay])
    have hsoffer := State.started_slot_offered (s := s.awake m f k) hboot (i := i) (by rwa [hreplay])
    rw [hreplay] at hslot hsoffer
    intro r a
    have hturn (n1 n2 n3 : Bool) (h1 : names trial i = n1) (h2 : names active i = n2) (h3 : names fallback i = n3) :
        a.state = (r.turned n1 n2 n3 d.floor).state ∧ a.decayed = (r.turned n1 n2 n3 d.floor).decayed ∧
        a.reason = (r.turned n1 n2 n3 d.floor).reason ∧ a.summary = (r.turned n1 n2 n3 d.floor).summary := by
      subst h1 h2 h3
      exact hslot
    refine ⟨fun ht ha hf => ?_, fun ha ht hf => ?_, fun hf ht ha => ?_, fun ht ha hf => ?_, hsoffer⟩
    · obtain ⟨hstate, hdecayed, -⟩ := hturn true false false (names_eq_true ht) (names_eq_false ha) (names_eq_false hf)
      rw [hstate, hdecayed]
      exact r.turned_trial d.floor
    · obtain ⟨hstate, hdecayed, -⟩ := hturn false true false (names_eq_false ht) (names_eq_true ha) (names_eq_false hf)
      rw [hstate, hdecayed]
      exact r.turned_active d.floor
    · obtain ⟨hstate, hdecayed, -⟩ := hturn false false true (names_eq_false ht) (names_eq_false ha) (names_eq_true hf)
      rw [hstate, hdecayed]
      exact r.turned_fallback d.floor
    · obtain ⟨hstate, hdecayed, hreason, hsummary⟩ :=
        hturn false false false (names_eq_false ht) (names_eq_false ha) (names_eq_false hf)
      rw [hstate, hdecayed, hreason, hsummary]
      exact ⟨r.turned_leaves d.floor, r.turned_sealed d.floor, r.turned_filling_below d.floor,
        r.turned_filling_least d.floor, r.turned_quiet d.floor⟩

end Sys2Proof.Machine
end

section
/-! The verdicts of manifest jobs (4.4, 4.6): the end of the job, the checks in order, and what the sweep and the engine
that follow leave of the slot judged. -/

namespace Sys2Proof.Machine

open Sys2Proof

/-! ### The verdict's step (R74, R80, R88) -/

/-- The part when the last word of job `j` is in: its read is on the memory side, and the engine has no job. -/
def State.jobEnded (j : Job) (s : State) : State :=
  { s with hostOut := [], memOut := (s.begin.endJob j).memOut, job := none, freeCount := s.freeCount + 1 }

section
variable {s : State} {j : Job}

theorem State.begin_endJob : s.begin.endJob j = s.jobEnded j := by
  unfold State.jobEnded State.endJob
  split <;> rfl

theorem exec_admissionVerdict (h : s.verdictJob .admission = some j) :
    exec (.admissionVerdict []) s =
      .next ((s.jobEnded j).admissionOutcome j.slot (s.manifestWords j) (s.foldMatches j)).resettle := by
  have hb : (s.begin.drift []).verdictJob .admission = some j := h
  show execAdmissionVerdict [] s = _
  simp only [execAdmissionVerdict, hb]
  rw [← State.begin_endJob]
  rfl

theorem exec_reloadVerdict (h : s.verdictJob .reload = some j) :
    exec (.reloadVerdict []) s =
      .next ((s.jobEnded j).reloadOutcome j.slot (s.manifestWords j) (s.foldMatches j)).resettle := by
  have hb : (s.begin.drift []).verdictJob .reload = some j := h
  show execReloadVerdict [] s = _
  simp only [execReloadVerdict, hb]
  rw [← State.begin_endJob]
  rfl

end

/-! ### The checks in order (R64, R74, R80) -/

/-- One check of a list: the reason where it fails, the checks after it where it passes. -/
theorem firstFailing_cons {good : Bool} {r : Reason} {t : List (Bool × Reason)} {x : Option Reason} {q : Prop}
    [Decidable q] (h : ¬ good = true ↔ q) (ht : firstFailing t = x) :
    firstFailing ((good, r) :: t) = if q then some r else x := by
  subst ht
  simp only [firstFailing, ← h, ite_not]

theorem formatGood_eq (w : List Word) (l : Nat) :
    formatGood w l = (w.getD 0 0 == 0x314D4B48#32 && decide (10 ≤ l) && decide (l ≤ 1024) && decide (0 < field w 4) &&
      field w 4 % 4 == 0 && l == 9 + chunkCount (field w 4)) := by
  simp only [formatGood, lengthInRange, manifestMagic, Bool.and_assoc]

section
variable (s : State) (i : Nat) (w : List Word)

theorem State.admissionForm_iff :
    (decide ((s.slotAt i).captured = some (w.getD 0 0, w.getD 1 0)) && formatGood w (field w 1)) = true ↔
      w.getD 0 0 = 0x314D4B48#32 ∧ (s.slotAt i).captured = some (w.getD 0 0, w.getD 1 0) ∧
        10 ≤ field w 1 ∧ field w 1 ≤ 1024 ∧ 0 < field w 4 ∧ field w 4 % 4 = 0 ∧
        field w 1 = 9 + chunkCount (field w 4) := by
  simp only [formatGood_eq, Bool.and_eq_true, decide_eq_true_eq, beq_iff_eq]
  tauto

theorem State.targetKnown_iff (t : Nat) :
    (decide (t < 16) && (s.staticAt t).inUse) = true ↔ t < 16 ∧ (s.staticAt t).inUse = true := by
  rw [Bool.and_eq_true, decide_eq_true_eq]

/-- R74, check 4: the key slot is one of the eight, ACTIVE, and in the target's mask. -/
theorem State.keyTaken_iff (k : Nat) (mask : BitVec 8) :
    (decide (k < 8) && (match s.keyAt k with | .active _ => true | _ => false) && mask.getLsbD k) = true ↔
      k < 8 ∧ (∃ v, s.keyAt k = .active v) ∧ mask.getLsbD k = true := by
  rw [Bool.and_eq_true, Bool.and_eq_true, decide_eq_true_eq, and_assoc]
  cases s.keyAt k <;> simp

/-- R74, check 6: the base lies from 2 to P − 1. -/
theorem baseGood_iff (b : Nat) : (decide (2 ≤ b) && decide (b < foldModulus)) = true ↔ 2 ≤ b ∧ b ≤ 4294967290 := by
  rw [Bool.and_eq_true, decide_eq_true_eq, decide_eq_true_eq, foldModulus]
  omega

end

/-! ### The slot judged, past the sweep and the engine (R104, R106) -/

section
variable {s : State} {i : Nat}

/-- What every joining of an eligible chunk keeps of the slots, the sweeps and the engine keep. -/
theorem State.resettle_induction {P : List SlotRec → Prop} (h0 : P s.slots)
    (hj : ∀ (v : State) (p : Nat × Nat), P v.slots → p ∈ v.eligibleChunks → ∀ u : State, P u.slots →
      P (u.joinQueue { kind := .chunk, slot := p.1, chunk := p.2 }).slots) : P s.resettle.slots := by
  have hsweep (v : State) (hv : P v.slots) : P v.sweep.slots :=
    State.sweep_induction (P := fun u => P u.slots) hv fun u p hp hu => hj v p hv hp u hu
  have hs : P s.sweep.slots := hsweep s h0
  unfold State.resettle State.startJob
  generalize s.sweep = v at hs ⊢
  split
  · exact hs
  · split
    · exact hs
    · split
      · exact hs
      · split
        · exact hs
        · split
          · next e q _ => exact hsweep { v with job := some (v.entryStart e), verifyQueue := q } hs
          · exact hs

/-- The sweeps take COMPLETE chunks alone: a slot that has none stays as it is. -/
theorem State.resettle_slotAt_of_no_complete (h : ∀ c ∈ (s.slotAt i).chunks, c.state ≠ .complete) :
    s.resettle.slotAt i = s.slotAt i := by
  refine State.resettle_induction (P := fun l => l.getD i SlotRec.blank = s.slotAt i) rfl fun v p hv hp u hu => ?_
  have hne : p.1 ≠ i := by
    rintro rfl
    obtain ⟨c, hc, hst⟩ := State.complete_of_eligible hp
    have hvs : v.slotAt p.1 = s.slotAt p.1 := hv
    rw [State.chunkAt, hvs, SlotRec.chunkAt] at hc
    split at hc
    · cases hc
    · exact h c (List.mem_of_getElem? hc) hst
  exact (u.slotAt_updChunk_ne hne ..).trans hu

theorem SlotRec.updChunk_reload (r : SlotRec) (c : Nat) (f : Chunk → Chunk) : (r.updChunk c f).reload = r.reload := by
  unfold SlotRec.updChunk
  split <;> rfl

theorem State.resettle_reload (s : State) (i : Nat) : (s.resettle.slotAt i).reload = (s.slotAt i).reload := by
  refine State.resettle_induction (P := fun l => (l.getD i SlotRec.blank).reload = (s.slotAt i).reload) rfl
    fun v p _ _ u hu => ?_
  have hjoin := u.slotAt_updSlot p.1 i (SlotRec.updChunk p.2 fun c => { c with queued := true })
  refine (congrArg SlotRec.reload hjoin).trans (Eq.trans ?_ hu)
  split
  · exact SlotRec.updChunk_reload ..
  · rfl

/-- Queued marks leave a chunk's state, origin and page mask. -/
theorem State.MarksOnly.exists_chunk {t : State} (h : s.MarksOnly t) {k : Nat} {x : Chunk}
    (hx : s.chunkAt i k = some x) :
    ∃ y, t.chunkAt i k = some y ∧ y.state = x.state ∧ y.origin = x.origin ∧ y.mask = x.mask := by
  rcases h.chunkAt_eq i k with e | e <;> rw [hx] at e
  · exact ⟨x, e, rfl, rfl, rfl⟩
  · exact ⟨_, e, rfl, rfl, rfl⟩

/-! ### A slot judged, with its log entry and its SLOT record (R144, R175) -/

theorem State.appendLog_offerSlot_slotAt (e : LogEntry) (o : Owner) (hi : i < s.slots.length) :
    ((s.appendLog e).offerSlot o i).slotAt i = { s.slotAt i with journaled := (s.slotAt i).state } :=
  State.offerSlot_slotAt o hi

theorem State.appendLog_offerSlot_getLast (e : LogEntry) (o : Owner) :
    ((s.appendLog e).offerSlot o i).log.getLast? = some { e with seq := s.nextLogSeq } := by
  rw [State.offerSlot, State.updSlot_log, State.offer_log, State.appendLog_getLast]

end

end Sys2Proof.Machine
end

section
/-! Admission (4.4, 4.5): what the rejection and the admission of a slot leave, and the settlement of O47. -/

namespace Sys2Proof.Machine

open Sys2Proof

section
variable {s : State} {i : Nat} {w : List Word}

/-! ### A slot rejected (R77) -/

theorem State.rejectAdmission_slotAt (r : Reason) (hi : i < s.slots.length) :
    (s.rejectAdmission i r w).slotAt i =
      { s.slotAt i with state := .rejected, reason := some r, headerMask := 0, captured := none } :=
  ((s.dropManifest i).slotAt_updSlot i i _).trans (if_pos ⟨rfl, hi⟩)

theorem State.rejectAdmission_getLast (r : Reason) :
    (s.rejectAdmission i r w).log.getLast? = some { LogEntry.of .rejected with
      seq := s.nextLogSeq, reason := some r, slot := some i,
      target := if targetField w < 16 then some (targetField w) else none, value := some (field w 3) } :=
  State.appendLog_getLast ..

theorem State.rejectAdmission_store (r : Reason) : (s.rejectAdmission i r w).store = s.store := by
  rw [State.rejectAdmission, State.appendLog_store, State.rejectHeader, State.updSlot_store, State.dropManifest]

theorem State.rejectAdmission_targets (r : Reason) : (s.rejectAdmission i r w).targets = s.targets := by
  rw [State.rejectAdmission, State.appendLog_targets, State.rejectHeader, State.updSlot_targets,
    State.dropManifest_targets]

/-! ### A slot admitted (R76) -/

/-- R76: the chunk table of slot `i` at admission. -/
def State.newChunks (i : Nat) (w : List Word) (s : State) : List Chunk :=
  (List.range' 1 (summaryOf w).chunks).map (s.newChunk i)

/-- R76: the slot as it is admitted, before its log entry and its record. -/
def State.admitted (i : Nat) (w : List Word) (s : State) : State :=
  (s.dropManifest i).updSlot i fun r =>
    { r with
      state := .filling, summary := some (summaryOf w), headerMask := 0, captured := none, reason := none,
      decayed := false, chunks := s.newChunks i w }

theorem State.admitSlot_eq :
    s.admitSlot i w = ((s.admitted i w).appendLog { LogEntry.of .admitted with
      slot := some i, target := some (targetField w), value := some (field w 3) }).offerSlot .nobody i := rfl

theorem State.admitted_length : (s.admitted i w).slots.length = s.slots.length :=
  (s.dropManifest i).slots_length_updSlot i _

theorem State.admitted_slotAt (hi : i < s.slots.length) :
    (s.admitted i w).slotAt i =
      { s.slotAt i with
        state := .filling, summary := some (summaryOf w), headerMask := 0, captured := none, reason := none,
        decayed := false, chunks := s.newChunks i w } :=
  ((s.dropManifest i).slotAt_updSlot i i _).trans (if_pos ⟨rfl, hi⟩)

theorem State.admitSlot_slotAt (hi : i < s.slots.length) :
    (s.admitSlot i w).slotAt i = { (s.admitted i w).slotAt i with journaled := .filling } := by
  rw [State.admitSlot_eq, State.appendLog_offerSlot_slotAt _ _ (by rwa [State.admitted_length]),
    State.admitted_slotAt hi]

theorem State.admitSlot_getLast :
    (s.admitSlot i w).log.getLast? = some { LogEntry.of .admitted with
      seq := s.nextLogSeq, slot := some i, target := some (targetField w), value := some (field w 3) } :=
  State.appendLog_offerSlot_getLast (s := s.admitted i w) ..

theorem State.admitSlot_targets : (s.admitSlot i w).targets = s.targets := by
  simp [State.admitSlot_eq, State.offerSlot, State.admitted]

theorem State.admitSlot_offers (hi : i < s.slots.length) :
    (s.admitSlot i w).store.offers = s.store.offers ++
      [{ payload := .slot i { state := .filling, decayed := false, summary := some (summaryOf w) },
         owner := .nobody }] := by
  have himage : ((s.admitted i w).slotAt i).image ((s.admitted i w).slotAt i).state =
      { state := .filling, decayed := false, summary := some (summaryOf w) } := by
    rw [State.admitted_slotAt hi]
    rfl
  rw [State.admitSlot_eq, State.offerSlot_offers, ← himage]
  rfl

/-- R76: no chunk is COMPLETE at admission, so that the sweep takes none. -/
theorem State.newChunks_not_complete : ∀ c ∈ s.newChunks i w, c.state ≠ .complete := by
  intro c hc
  obtain ⟨k, -, rfl⟩ := List.mem_map.1 hc
  unfold State.newChunk
  dsimp only
  split <;> exact nofun

/-! ### The verdict (R74) -/

variable {j : Job}

/-- R74, R77: an admission job of which a check fails. -/
theorem exec_admissionVerdict_failed {x : Reason} (hv : s.verdictJob .admission = some j)
    (hi : j.slot < s.slots.length)
    (h : s.admissionFailure j.slot (s.manifestWords j) (s.foldMatches j) = some x) :
    let i := j.slot
    let w := s.manifestWords j
    ∃ t, exec (.admissionVerdict []) s = .next t ∧
      t.slotAt i = { s.slotAt i with state := .rejected, reason := some x, headerMask := 0, captured := none } ∧
      t.log.getLast? = some { LogEntry.of .rejected with
        seq := s.nextLogSeq, reason := some x, slot := some i,
        target := if targetField w < 16 then some (targetField w) else none, value := some (field w 3) } ∧
      t.flash = s.flash ∧ t.store = s.store ∧ t.targets = s.targets ∧ t.map = s.map := by
  intro i w
  have hout : (s.jobEnded j).admissionOutcome i w (s.foldMatches j) = (s.jobEnded j).rejectAdmission i x w := by
    have hend : (s.jobEnded j).admissionFailure i w (s.foldMatches j) = some x := h
    rw [State.admissionOutcome, hend]
  have hstep := exec_admissionVerdict hv
  rw [hout] at hstep
  have hslot := State.rejectAdmission_slotAt (s := s.jobEnded j) (w := w) x hi
  generalize hu : (s.jobEnded j).rejectAdmission i x w = u at hstep hslot
  refine ⟨_, hstep, ?_, ?_, ?_, ?_, ?_, ?_⟩
  · rw [u.resettle_marksOnly.slotAt_eq i (by rw [hslot]; exact nofun), hslot]
    rfl
  · rw [u.resettle_log, ← hu]
    exact State.rejectAdmission_getLast x
  · rw [u.resettle_flash, ← hu, (State.rejectAdmission_books _).flash]
    rfl
  · rw [u.resettle_store, ← hu, State.rejectAdmission_store]
    rfl
  · rw [u.resettle_targets, ← hu, State.rejectAdmission_targets]
    rfl
  · rw [u.resettle_map, ← hu, (State.rejectAdmission_books _).map]
    rfl

/-- R74, R76: an admission job whose checks all pass. -/
theorem exec_admissionVerdict_passed (hv : s.verdictJob .admission = some j) (hi : j.slot < s.slots.length)
    (h : s.admissionFailure j.slot (s.manifestWords j) (s.foldMatches j) = none) :
    let i := j.slot
    let w := s.manifestWords j
    ∃ t, exec (.admissionVerdict []) s = .next t ∧
      t.slotAt i =
        { s.slotAt i with
          state := .filling, journaled := .filling, summary := some (summaryOf w), headerMask := 0, captured := none,
          reason := none, decayed := false, chunks := s.newChunks i w } ∧
      t.log.getLast? = some { LogEntry.of .admitted with
        seq := s.nextLogSeq, slot := some i, target := some (targetField w), value := some (field w 3) } ∧
      t.store.offers = s.store.offers ++
        [{ payload := .slot i { state := .filling, decayed := false, summary := some (summaryOf w) },
           owner := .nobody }] ∧
      t.flash = s.flash ∧ t.map = s.map ∧ t.targets = s.targets := by
  intro i w
  have hout : (s.jobEnded j).admissionOutcome i w (s.foldMatches j) = (s.jobEnded j).admitSlot i w := by
    have hend : (s.jobEnded j).admissionFailure i w (s.foldMatches j) = none := h
    rw [State.admissionOutcome, hend]
  have hstep := exec_admissionVerdict hv
  rw [hout] at hstep
  have hslot := State.admitSlot_slotAt (s := s.jobEnded j) (w := w) hi
  rw [State.admitted_slotAt (s := s.jobEnded j) hi] at hslot
  generalize hu : (s.jobEnded j).admitSlot i w = u at hstep hslot
  refine ⟨_, hstep, ?_, ?_, ?_, ?_, ?_, ?_⟩
  · rw [State.resettle_slotAt_of_no_complete (by rw [hslot]; exact State.newChunks_not_complete), hslot]
    rfl
  · rw [u.resettle_log, ← hu]
    exact State.admitSlot_getLast
  · rw [u.resettle_store, ← hu]
    exact State.admitSlot_offers (s := s.jobEnded j) hi
  · rw [u.resettle_flash, ← hu, (State.admitSlot_books _).flash]
    rfl
  · rw [u.resettle_map, ← hu, (State.admitSlot_books _).map]
    rfl
  · rw [u.resettle_targets, ← hu, State.admitSlot_targets]
    rfl

end

/-- Settles O47, by the first of the eight checks that fails. -/
theorem admissionDecided : Obligations.AdmissionDecided := by
  unfold Obligations.AdmissionDecided
  classical
  intro s j hv hi i w f target chunks c1 c2 c3 c4 c5 c6 c7 c8 rejected
  have hfail : s.admissionFailure i w (s.foldMatches j) =
      if ¬ c1 then some .badFormat else if ¬ c2 then some .unknownTarget else if ¬ c3 then some .wrongClass
      else if ¬ c4 then some .keyRefused else if ¬ c5 then some .tagMismatch else if ¬ c6 then some .badBase
      else if ¬ c7 then some .tooLarge else if ¬ c8 then some .rollback else none :=
    firstFailing_cons (s.admissionForm_iff i w).not <| firstFailing_cons (s.targetKnown_iff target).not <|
      firstFailing_cons beq_iff_eq.not <| firstFailing_cons (s.keyTaken_iff (f 6) _).not <|
      firstFailing_cons Iff.rfl <| firstFailing_cons (baseGood_iff (f 5)).not <|
      firstFailing_cons decide_eq_true_iff.not <| firstFailing_cons decide_eq_true_iff.not rfl
  have hreject {x : Reason} (hx : s.admissionFailure i w (s.foldMatches j) = some x) : rejected x := by
    obtain ⟨t, ht, hslot, hrest⟩ := exec_admissionVerdict_failed hv hi hx
    exact ⟨t, ht, congrArg SlotRec.state hslot, congrArg SlotRec.reason hslot, congrArg SlotRec.captured hslot,
      congrArg SlotRec.headerMask hslot, hrest⟩
  refine ⟨fun h1 => hreject (by simp [hfail, h1]), fun h1 h2 => hreject (by simp [hfail, h1, h2]),
    fun h1 h2 h3 => hreject (by simp [hfail, h1, h2, h3]), fun h1 h2 h3 h4 => hreject (by simp [hfail, h1, h2, h3, h4]),
    fun h1 h2 h3 h4 h5 => hreject (by simp [hfail, h1, h2, h3, h4, h5]),
    fun h1 h2 h3 h4 h5 h6 => hreject (by simp [hfail, h1, h2, h3, h4, h5, h6]),
    fun h1 h2 h3 h4 h5 h6 h7 => hreject (by simp [hfail, h1, h2, h3, h4, h5, h6, h7]),
    fun h1 h2 h3 h4 h5 h6 h7 h8 => hreject (by simp [hfail, h1, h2, h3, h4, h5, h6, h7, h8]),
    fun h1 h2 h3 h4 h5 h6 h7 h8 => ?_⟩
  have hpass : s.admissionFailure i w (s.foldMatches j) = none := by simp [hfail, h1, h2, h3, h4, h5, h6, h7, h8]
  obtain ⟨t, ht, hslot, hlog, hoffers, hrest⟩ := exec_admissionVerdict_passed hv hi hpass
  exact ⟨t, ht, congrArg SlotRec.state hslot, congrArg SlotRec.summary hslot, congrArg SlotRec.decayed hslot,
    congrArg SlotRec.chunks hslot, congrArg SlotRec.captured hslot, congrArg SlotRec.headerMask hslot, hlog, hoffers,
    hrest⟩

end Sys2Proof.Machine
end

section
/-! Reload (4.6): what a passed and a failed reload leave of the slot, and the settlement of O48. -/

namespace Sys2Proof.Machine

open Sys2Proof

/-! ### Chunks after a passed reload (R81, R99) -/

section
variable {r : SlotRec} {x : Chunk} {n : Nat}

theorem Chunk.reloaded_verified {st : SlotState} (h : st ≠ .filling) : (x.reloaded st n).state = .verified := by
  rw [Chunk.reloaded, if_neg h]

theorem Chunk.reloaded_stale (hs : x.state = .stale) (he : x.hostErased = false) :
    x.reloaded .filling n = { x with state := .complete, mask := fullMask n, origin := .recovered, queued := false } := by
  rw [Chunk.reloaded, if_pos rfl, if_pos ⟨hs, he⟩]

theorem Chunk.reloaded_kept (h : x.state ≠ .stale ∨ x.hostErased = true) : x.reloaded .filling n = x := by
  rw [Chunk.reloaded, if_pos rfl, if_neg]
  rintro ⟨hs, he⟩
  rcases h with h | h
  · exact h hs
  · rw [he] at h
    cases h

theorem SlotRec.reloadPassed_verified (h : r.state ≠ .filling) : ∀ c ∈ r.reloadPassed.chunks, c.state = .verified := by
  intro c hc
  obtain ⟨p, -, rfl⟩ := List.mem_map.1 hc
  exact Chunk.reloaded_verified h

theorem SlotRec.reloadPassed_chunkAt {c : Nat} {m : Summary} (hm : r.summary = some m) (hx : r.chunkAt c = some x) :
    r.reloadPassed.chunkAt c = some (x.reloaded r.state (m.pagesNeeded c)) := by
  unfold SlotRec.chunkAt at hx ⊢
  split at hx
  · cases hx
  · next hc =>
    have hc1 : c - 1 + 1 = c := by omega
    rw [if_neg hc]
    simp [SlotRec.reloadPassed, hx, hm, hc1]

end

section
variable {s : State} {i : Nat}

theorem State.reloadPassedSlot_slotAt (hi : i < s.slots.length) :
    (s.reloadPassedSlot i).slotAt i = (s.slotAt i).reloadPassed :=
  ((s.dropManifest i).slotAt_updSlot i i _).trans (if_pos ⟨rfl, hi⟩)

/-! ### A failed reload by the slot's state (R82, R132) -/

/-- R82: a slot that a failed reload makes FAILED, as the journal then holds it. -/
def SlotRec.reloadLost (r : SlotRec) : SlotRec :=
  { r with
    state := .failed, journaled := .failed, decayed := false, reload := false, chunks := r.chunks.map Chunk.dropped }

/-- R82: a slot that a failed reload makes DECAYED, as the journal then holds it. -/
def SlotRec.reloadDecayed (r : SlotRec) : SlotRec :=
  { r with journaled := r.state, decayed := true, reload := false, chunks := r.chunks.map Chunk.dropped }

/-- R82: the slot's reload is over, and its mark is cleared. -/
def State.reloadCleared (i : Nat) (s : State) : State := (s.dropManifest i).updSlot i SlotRec.reloadFailed

theorem State.reloadCleared_length : (s.reloadCleared i).slots.length = s.slots.length :=
  (s.dropManifest i).slots_length_updSlot i _

theorem State.reloadCleared_slotAt (hi : i < s.slots.length) :
    (s.reloadCleared i).slotAt i = { s.slotAt i with reload := false } :=
  ((s.dropManifest i).slotAt_updSlot i i _).trans (if_pos ⟨rfl, hi⟩)

theorem State.failSlot_nextLogSeq : (s.failSlot i).nextLogSeq = s.nextLogSeq := by
  rw [State.failSlot, State.updSlot_nextLogSeq, State.dropSlotJobs, State.updSlot_nextLogSeq, State.dropEntries]

theorem State.reloadFailedSlot_of_filling_sealed (x : Reason)
    (h : (s.slotAt i).state = .filling ∨ (s.slotAt i).state = .sealed) :
    s.reloadFailedSlot i x = (((s.reloadCleared i).failSlot i).appendLog
      (s.slotEntry .rejected i (some x) none)).offerSlot .nobody i := by
  rcases h with h | h <;> rw [State.reloadFailedSlot, h] <;> rfl

theorem State.reloadFailedSlot_of_trial (x : Reason) (h : (s.slotAt i).state = .trial) :
    s.reloadFailedSlot i x = (s.reloadCleared i).trialEndedByCheck i x none := by
  rw [State.reloadFailedSlot, h]
  rfl

theorem State.reloadFailedSlot_of_active_fallback (x : Reason)
    (h : (s.slotAt i).state = .active ∨ (s.slotAt i).state = .fallback) :
    s.reloadFailedSlot i x = (((s.reloadCleared i).markDecayed i).appendLog
      (s.slotEntry .imageDecayed i (some x) none)).offerSlot .nobody i := by
  rcases h with h | h <;> rw [State.reloadFailedSlot, h] <;> rfl

/-- R82: a FILLING or SEALED slot becomes FAILED. -/
theorem State.reloadFailedSlot_slotAt_failed (x : Reason) (hi : i < s.slots.length)
    (h : (s.slotAt i).state = .filling ∨ (s.slotAt i).state = .sealed) :
    (s.reloadFailedSlot i x).slotAt i = (s.slotAt i).reloadLost := by
  have hi1 : i < (s.reloadCleared i).slots.length := by rwa [State.reloadCleared_length]
  have hi2 : i < ((s.reloadCleared i).failSlot i).slots.length := by rwa [State.failSlot_length]
  rw [State.reloadFailedSlot_of_filling_sealed x h, State.appendLog_offerSlot_slotAt _ _ hi2, State.failSlot_slotAt,
    if_pos ⟨rfl, hi1⟩, State.reloadCleared_slotAt hi]
  rfl

theorem State.reloadFailedSlot_getLast_rejected (x : Reason)
    (h : (s.slotAt i).state = .filling ∨ (s.slotAt i).state = .sealed) :
    (s.reloadFailedSlot i x).log.getLast? = some { s.slotEntry .rejected i (some x) none with seq := s.nextLogSeq } := by
  rw [State.reloadFailedSlot_of_filling_sealed x h, State.appendLog_offerSlot_getLast, State.failSlot_nextLogSeq]
  rfl

/-- R82: an ACTIVE or FALLBACK slot keeps its state and takes the DECAYED mark. -/
theorem State.reloadFailedSlot_slotAt_decayed (x : Reason) (hi : i < s.slots.length)
    (h : (s.slotAt i).state = .active ∨ (s.slotAt i).state = .fallback) :
    (s.reloadFailedSlot i x).slotAt i = (s.slotAt i).reloadDecayed := by
  have hi1 : i < (s.reloadCleared i).slots.length := by rwa [State.reloadCleared_length]
  have hi2 : i < ((s.reloadCleared i).markDecayed i).slots.length := by
    rwa [State.markDecayed, State.slots_length_updSlot, State.dropSlotJobs, State.slots_length_updSlot]
  rw [State.reloadFailedSlot_of_active_fallback x h, State.appendLog_offerSlot_slotAt _ _ hi2, State.markDecayed_slotAt,
    if_pos ⟨rfl, hi1⟩, State.reloadCleared_slotAt hi]
  rfl

/-! ### A trial ended by a check (R132) -/

theorem State.trialEndedByCheck_slotAt (x : Reason) (c : Option Nat) (hi : i < s.slots.length) :
    (s.trialEndedByCheck i x c).slotAt i =
      { s.slotAt i with
        state := .failed, journaled := .failed, decayed := false, chunks := (s.slotAt i).chunks.map Chunk.dropped } := by
  have hi2 : i < (s.failSlot i).slots.length := by rwa [State.failSlot_length]
  have hslots : (s.trialEndedByCheck i x c).slots = ((s.failSlot i).offerSlot .nobody i).slots := by
    simp [State.trialEndedByCheck, State.offerTarget, State.offerSlot]
  have hslot : (s.trialEndedByCheck i x c).slotAt i = ((s.failSlot i).offerSlot .nobody i).slotAt i :=
    congrArg (List.getD · i SlotRec.blank) hslots
  rw [hslot, State.offerSlot_slotAt .nobody hi2, State.failSlot_slotAt, if_pos ⟨rfl, hi⟩]

theorem State.trialEndedByCheck_dynAt {m : Summary} (x : Reason) (c : Option Nat)
    (hm : (s.slotAt i).summary = some m) (ht : m.target < s.targets.length) :
    (s.trialEndedByCheck i x c).dynAt m.target = (s.dynAt m.target).endTrial := by
  have htarget : (s.slotAt i).target?.getD 16 = m.target := by rw [SlotRec.target?, hm]; rfl
  have hdyn : (s.trialEndedByCheck i x c).targets = ((s.failSlot i).updDyn m.target TargetDyn.endTrial).targets := by
    simp [State.trialEndedByCheck, State.offerTarget, State.offerSlot, htarget]
  rw [State.dynAt, hdyn]
  exact ((s.failSlot i).dynAt_updDyn ..).trans (if_pos ⟨rfl, ht⟩)

theorem State.trialEndedByCheck_getLast (x : Reason) (c : Option Nat) :
    (s.trialEndedByCheck i x c).log.getLast? =
      some { s.slotEntry .trialFailed i (some x) c with seq := s.nextLogSeq } := by
  rw [State.trialEndedByCheck, State.offerTarget, State.offer_log, State.offerSlot, State.updSlot_log, State.offer_log,
    State.appendLog_getLast, State.updDyn_nextLogSeq, State.failSlot_nextLogSeq]

/-- The log entry of a slot with an image. -/
theorem State.slotEntry_of_summary {m : Summary} (kind : LogKind) (x : Option Reason) (c : Option Nat)
    (hm : (s.slotAt i).summary = some m) :
    s.slotEntry kind i x c = { LogEntry.of kind with
      reason := x, slot := some i, target := some m.target, chunk := c, value := some m.version } := by
  rw [State.slotEntry, SlotRec.target?, SlotRec.version, hm]
  rfl

/-- R82, R132: a TRIAL slot becomes FAILED, and its target's trial ends. -/
theorem State.reloadFailedSlot_trial_effect {m : Summary} (x : Reason) (hi : i < s.slots.length)
    (h : (s.slotAt i).state = .trial) (hm : (s.slotAt i).summary = some m) (ht : m.target < s.targets.length) :
    (s.reloadFailedSlot i x).slotAt i = (s.slotAt i).reloadLost ∧
      (s.reloadFailedSlot i x).dynAt m.target = (s.dynAt m.target).endTrial ∧
      (s.reloadFailedSlot i x).log.getLast? =
        some { LogEntry.of .trialFailed with
          seq := s.nextLogSeq, reason := some x, slot := some i, target := some m.target, value := some m.version } := by
  have hslot := State.reloadCleared_slotAt hi
  have hi1 : i < (s.reloadCleared i).slots.length := by rwa [State.reloadCleared_length]
  have hm1 : ((s.reloadCleared i).slotAt i).summary = some m := by rw [hslot]; exact hm
  rw [State.reloadFailedSlot_of_trial x h, State.trialEndedByCheck_slotAt x none hi1,
    State.trialEndedByCheck_dynAt (s := s.reloadCleared i) x none hm1 ht, State.trialEndedByCheck_getLast,
    State.slotEntry_of_summary _ _ _ hm1, hslot]
  exact ⟨rfl, rfl, rfl⟩

/-! ### The verdict (R80) -/

variable {j : Job}

/-- R80, R81: a reload job whose checks all pass. -/
theorem exec_reloadVerdict_passed (hv : s.verdictJob .reload = some j)
    (h : s.reloadFailure j.slot (s.manifestWords j) (s.foldMatches j) = none) :
    exec (.reloadVerdict []) s = .next ((s.jobEnded j).reloadPassedSlot j.slot).resettle := by
  have hend : (s.jobEnded j).reloadFailure j.slot (s.manifestWords j) (s.foldMatches j) = none := h
  rw [exec_reloadVerdict hv, State.reloadOutcome, hend]

/-- R80, R82: a reload job of which a check fails. -/
theorem exec_reloadVerdict_failed {x : Reason} (hv : s.verdictJob .reload = some j)
    (h : s.reloadFailure j.slot (s.manifestWords j) (s.foldMatches j) = some x) :
    exec (.reloadVerdict []) s = .next ((s.jobEnded j).reloadFailedSlot j.slot x).resettle := by
  have hend : (s.jobEnded j).reloadFailure j.slot (s.manifestWords j) (s.foldMatches j) = some x := h
  rw [exec_reloadVerdict hv, State.reloadOutcome, hend]

/-- R81: a passed reload clears the slot's mark, logs nothing and offers no record; the sweep that follows may queue chunks
of a FILLING slot. -/
theorem exec_reloadVerdict_passed_effect (hv : s.verdictJob .reload = some j) (hi : j.slot < s.slots.length)
    (h : s.reloadFailure j.slot (s.manifestWords j) (s.foldMatches j) = none) :
    let r := s.slotAt j.slot
    ∃ t, exec (.reloadVerdict []) s = .next t ∧ (t.slotAt j.slot).state = r.state ∧
      (t.slotAt j.slot).reload = false ∧ (r.state ≠ .filling → t.slotAt j.slot = r.reloadPassed) ∧
      (∀ c x, r.reloadPassed.chunkAt c = some x →
        ∃ y, t.chunkAt j.slot c = some y ∧ y.state = x.state ∧ y.origin = x.origin ∧ y.mask = x.mask) ∧
      t.log = s.log ∧ t.store = s.store ∧ t.flash = s.flash := by
  intro r
  have hslot : ((s.jobEnded j).reloadPassedSlot j.slot).slotAt j.slot = r.reloadPassed :=
    State.reloadPassedSlot_slotAt (s := s.jobEnded j) hi
  have hmarks := ((s.jobEnded j).reloadPassedSlot j.slot).resettle_marksOnly
  refine ⟨_, exec_reloadVerdict_passed hv h, ?_, ?_, fun hne => ?_, fun c x hx => hmarks.exists_chunk ?_,
    State.resettle_log _, State.resettle_store _, State.resettle_flash _⟩
  · rw [hmarks.state_eq, hslot]
    rfl
  · rw [State.resettle_reload, hslot]
    rfl
  · rw [hmarks.slotAt_eq j.slot (by rw [hslot]; exact hne), hslot]
  · rw [State.chunkAt, hslot, hx]

/-- R82: after a failed reload the slot is in no state that the sweep takes chunks of, and stays as the failure leaves it. -/
theorem exec_reloadVerdict_failed_effect {x : Reason} {r : SlotRec} (hv : s.verdictJob .reload = some j)
    (h : s.reloadFailure j.slot (s.manifestWords j) (s.foldMatches j) = some x)
    (hr : ((s.jobEnded j).reloadFailedSlot j.slot x).slotAt j.slot = r) (hne : r.state ≠ .filling) :
    ∃ t, exec (.reloadVerdict []) s = .next t ∧ t.slotAt j.slot = r ∧
      t.log = ((s.jobEnded j).reloadFailedSlot j.slot x).log ∧
      t.targets = ((s.jobEnded j).reloadFailedSlot j.slot x).targets ∧ t.flash = s.flash := by
  subst hr
  exact ⟨_, exec_reloadVerdict_failed hv h, (State.resettle_marksOnly _).slotAt_eq j.slot hne, State.resettle_log _,
    State.resettle_targets _, (State.resettle_flash _).trans (State.reloadFailedSlot_books _).flash⟩

end

/-- Settles O48, by the first of the three checks that fails and the state of the slot. -/
theorem reloadDecided : Obligations.ReloadDecided := by
  unfold Obligations.ReloadDecided
  intro s j hv i r w f chunks c1 c2 c3 failure
  have hfail : s.reloadFailure i w (s.foldMatches j) = failure :=
    firstFailing_cons (by rw [formatGood_eq]; exact Bool.eq_false_iff.symm) <|
      firstFailing_cons Bool.eq_false_iff.symm <| firstFailing_cons Bool.eq_false_iff.symm rfl
  have hlt (h : r.state ≠ .empty) : i < s.slots.length := State.lt_length_of_state h
  refine ⟨fun hn hst => ?_, fun hn hst => ?_, fun x m hx hst hm ht => ?_, fun x hx hst => ?_, fun x hx hst => ?_⟩
  · have hne : r.state ≠ .empty ∧ r.state ≠ .filling := by
      rcases hst with h | h | h | h <;> rw [h] <;> exact ⟨nofun, nofun⟩
    obtain ⟨t, ht, hstate, hreload, hslot, -, hrest⟩ :=
      exec_reloadVerdict_passed_effect hv (hlt hne.1) (hfail.trans hn)
    refine ⟨t, ht, hstate, hreload, ?_, hrest⟩
    have hslot : t.slotAt i = _ := hslot hne.2
    rw [hslot]
    exact SlotRec.reloadPassed_verified hne.2
  · obtain ⟨t, ht, hstate, hreload, -, hchunk, hrest⟩ :=
      exec_reloadVerdict_passed_effect hv (hlt (by rw [hst]; exact nofun)) (hfail.trans hn)
    refine ⟨t, ht, hstate.trans hst, hreload, fun c x m hx hm => ?_, hrest⟩
    obtain ⟨y, hy, hys, hyo, hym⟩ := hchunk c _ (SlotRec.reloadPassed_chunkAt hm hx)
    have hst : (s.slotAt j.slot).state = .filling := hst
    rw [hst] at hys hyo hym
    refine ⟨y, hy, fun hs he => ?_, fun hk => ?_⟩
    · rw [Chunk.reloaded_stale hs he] at hys hyo hym
      exact ⟨hys, hyo, hym⟩
    · rw [Chunk.reloaded_kept hk] at hys hyo hym
      exact ⟨hys, hyo, hym⟩
  · obtain ⟨hslot, hdyn, hlog⟩ := State.reloadFailedSlot_trial_effect (s := s.jobEnded j) x
      (hlt (by rw [hst]; exact nofun)) hst hm ht
    obtain ⟨t, hstep, hts, htl, htd, hflash⟩ := exec_reloadVerdict_failed_effect hv (hfail.trans hx) hslot nofun
    refine ⟨t, hstep, congrArg SlotRec.state hts, congrArg SlotRec.reload hts, ?_, ?_, hflash⟩
    · rw [State.dynAt, htd]
      exact hdyn
    · rw [htl]
      exact hlog
  · have hi := hlt (by rcases hst with h | h <;> rw [h] <;> exact nofun)
    have hslot := State.reloadFailedSlot_slotAt_failed (s := s.jobEnded j) x hi hst
    obtain ⟨t, hstep, hts, htl, -, hflash⟩ := exec_reloadVerdict_failed_effect hv (hfail.trans hx) hslot nofun
    refine ⟨t, hstep, congrArg SlotRec.state hts, congrArg SlotRec.reload hts, ?_, hflash⟩
    rw [htl]
    exact State.reloadFailedSlot_getLast_rejected (s := s.jobEnded j) x hst
  · have hne : r.state ≠ .empty ∧ r.state ≠ .filling := by rcases hst with h | h <;> rw [h] <;> exact ⟨nofun, nofun⟩
    have hslot := State.reloadFailedSlot_slotAt_decayed (s := s.jobEnded j) x (hlt hne.1) hst
    obtain ⟨t, hstep, hts, -, -, hflash⟩ := exec_reloadVerdict_failed_effect hv (hfail.trans hx) hslot hne.2
    exact ⟨t, hstep, (congrArg SlotRec.state hts).trans rfl, congrArg SlotRec.decayed hts, congrArg SlotRec.reload hts,
      hflash⟩

end Sys2Proof.Machine
end

section
/-! The verify reads of the fold unit (5.1, 5.2): the words that a read takes, what the fold makes of them, and where
the host's cut falls. -/

namespace Sys2Proof.Machine

open Sys2Proof

/-! ### The words of a read (R84, R87) -/

/-- The word that the flash holds at word index `n` of a logical sector. -/
def State.storedWord (s : State) (l n : Nat) : Word :=
  let byte (o : Nat) : Byte := cellAt s.flash.cells (s.translate l (4 * n + o))
  wordOfBytes (byte 0) (byte 1) (byte 2) (byte 3)

/-- A job in its fold, with its next `n` words folded in (step 2 of R84) and its index moved on past them. -/
def State.foldedJob (s : State) (n : Nat) (j : Job) : Job :=
  { j with
    index := j.index + n
    acc := (List.range n).foldl
      (fun a k => foldStep j.base a (s.storedWord j.sector (j.offset / 4 + (j.index + k))).toNat) j.acc }

section
variable {s : State} {j : Job}

theorem State.readWord_of_idle (hf : s.flash.op = none) (i l n : Nat) : s.readWord i l n = s.storedWord l n := by
  simp [State.readWord, State.flashByte, hf, State.storedWord]

theorem State.jobWants_iff_of_fold (hp : j.pass = .fold) : s.jobWants j = true ↔ j.index < j.count := by
  simp [State.jobWants, hp]

theorem State.absorb_of_fold (hf : s.flash.op = none) (hp : j.pass = .fold) (i : Nat) :
    s.absorb (s.readWord i j.sector (j.offset / 4 + j.index)) j = s.foldedJob 1 j := by
  rw [s.readWord_of_idle hf, State.absorb]
  split
  next h => exact absurd (hp.symm.trans h) nofun
  next => rfl
  next h => exact absurd (hp.symm.trans h) nofun

theorem State.foldedJob_succ (n : Nat) : s.foldedJob (n + 1) j = s.foldedJob n (s.foldedJob 1 j) := by
  simp [State.foldedJob, List.range_succ_eq_map, List.foldl_map, Nat.add_assoc, Nat.add_comm 1]

/-- R87: a read within the words of the fold takes every word it has room for. -/
theorem State.readWords_of_fold (hf : s.flash.op = none) (hp : j.pass = .fold) {n : Nat}
    (hn : j.index + n ≤ j.count) (c : Nat) : s.readWords n c j = (c + n, s.foldedJob n j) := by
  induction n generalizing c j with
  | zero => rfl
  | succ n ih =>
    have hw : s.jobWants j = true := (State.jobWants_iff_of_fold hp).2 (by omega)
    have hnext : (s.foldedJob 1 j).index + n ≤ (s.foldedJob 1 j).count := by
      simp only [State.foldedJob]
      omega
    have hsame : (s.foldedJob 1 j).pass = j.pass := rfl
    simp only [State.readWords, hw, if_true, State.absorb_of_fold hf hp, hsame]
    rw [ih (j := s.foldedJob 1 j) hp hnext, ← State.foldedJob_succ, Nat.add_assoc, Nat.add_comm 1 n]

/-- A read of a job in any pass takes no word back, and none beyond those it has room for. -/
theorem State.readWords_bounds (n c : Nat) : c ≤ (s.readWords n c j).1 ∧ (s.readWords n c j).1 ≤ c + n := by
  induction n generalizing c j with
  | zero => exact ⟨Nat.le_refl c, Nat.le_refl c⟩
  | succ n ih =>
    rw [State.readWords]
    split
    · dsimp only
      split
      · obtain ⟨hlow, hhigh⟩ :=
          ih (j := s.absorb (s.readWord (4 * c) j.sector (j.offset / 4 + j.index)) j) (c + 1)
        omega
      · dsimp only
        omega
    · dsimp only
      omega

theorem State.readWords_pos (hw : s.jobWants j = true) (n : Nat) : 0 < (s.readWords (n + 1) 0 j).1 := by
  rw [State.readWords, if_pos hw]
  dsimp only
  split
  · exact (State.readWords_bounds n 1).1
  · exact Nat.one_pos

/-! ### The read on the memory side (R23, R87) -/

/-- R87: a read of `n` words and `part` bytes of the word after them, within the words of the fold: the whole words are
folded in, and the bytes of the word in which the read was cut are discarded. -/
theorem State.verifyRead_of_fold (hr : s.readReady = true) (hj : s.job = some j) (hp : j.pass = .fold)
    (hf : s.flash.op = none) {limit n part : Nat} (hb : s.readBytes limit = 4 * n + part) (hpart : part < 4)
    (hpos : 0 < 4 * n + part) (hn : j.index + n ≤ j.count) (hroom : part = 0 ∨ j.index + n < j.count) :
    s.verifyRead limit =
      { s.sendWordRead (j.sector, j.offset / 4 + j.index) (4 * n + part) (part != 0) with
        job := some (s.foldedJob n j), freeCount := s.freeCount + 1 } := by
  have hw : s.jobWants j = true := (State.jobWants_iff_of_fold hp).2 (by omega)
  have hwords : s.readWords ((4 * n + part) / 4) 0 j = (n, s.foldedJob n j) := by
    rw [show (4 * n + part) / 4 = n by omega, State.readWords_of_fold hf hp hn, Nat.zero_add]
  have hgoes : part = 0 ∨ s.readGoesOn j (s.foldedJob n j) = true :=
    hroom.imp_right fun h => by
      simp [State.readGoesOn, (State.jobWants_iff_of_fold (s := s) (j := s.foldedJob n j) hp).2 h,
        show (s.foldedJob n j).pass = j.pass from rfl]
  have htail : (if s.readGoesOn j (s.foldedJob n j) && decide (4 * n + part - 4 * n < 4)
      then 4 * n + part - 4 * n else 0) = part := by
    rw [Nat.add_sub_cancel_left]
    rcases hgoes with rfl | hg
    · exact ite_self 0
    · simp [hg, hpart]
  have hcut : (part != 0 || n == 0) = (part != 0) := by
    by_cases h : part = 0
    · simp [h, show n ≠ 0 by omega]
    · simp [h]
  simp only [State.verifyRead, hj, hr, hw, Bool.and_self, if_true, hb, hwords, htail, hcut]

/-- A limit of whole words is read as it stands, whether or not the host can cut the read. -/
theorem State.readBytes_words {n : Nat} (hn : 0 < n) : s.readBytes (4 * n) = 4 * n := by
  unfold State.readBytes
  split
  · rfl
  · omega

/-- What a read does rests on the bytes it takes alone. -/
theorem State.verifyRead_congr {a b : Nat} (h : s.readBytes a = s.readBytes b) : s.verifyRead a = s.verifyRead b := by
  simp only [State.verifyRead, h]

/-- A read of whole words, at least one, is sent uncut or not sent at all. -/
theorem State.verifyRead_uncut {limit n : Nat} (hb : s.readBytes limit = 4 * (n + 1)) (m : MemTxn)
    (hm : m ∈ (s.verifyRead limit).memOut) : m ∈ s.memOut ∨ m.cut = false := by
  unfold State.verifyRead at hm
  simp only [hb] at hm
  split at hm
  · exact .inl hm
  next j _ =>
    split at hm
    next hw =>
      rw [Nat.mul_div_cancel_left _ (by decide : 0 < 4)] at hm
      have hpos : 0 < (s.readWords (n + 1) 0 j).1 := State.readWords_pos (Bool.and_eq_true_iff.1 hw).2 n
      have hle : (s.readWords (n + 1) 0 j).1 ≤ 0 + (n + 1) := (State.readWords_bounds (n + 1) 0).2
      generalize (s.readWords (n + 1) 0 j).1 = taken at hm hpos hle
      refine (List.mem_append.1 hm).imp_right fun h => ?_
      rw [List.mem_singleton.1 h]
      simp only [ownTxn, Bool.or_eq_false_iff, bne_eq_false_iff_eq, beq_eq_false_iff_ne]
      refine ⟨?_, by omega⟩
      split
      next hlast =>
        have : 4 * (n + 1) - 4 * taken < 4 := of_decide_eq_true (Bool.and_eq_true_iff.1 hlast).2
        omega
      · rfl
    next =>
      rw [show decide (4 * (n + 1) < 4) = false by simp, Bool.and_false] at hm
      exact .inl hm

end

/-! ### The statement -/

theorem exec_verifyRead (bytes : Nat) (d : Drift) (s : State) :
    exec (.verifyRead bytes d) s = .next ((s.begin.drift d).verifyRead bytes) := rfl

/-- No drift: the flash reads as it did. -/
theorem State.drift_nil (s : State) : s.drift [] = s := rfl

/-- R24: a verify read is made in an idle gap. -/
theorem State.idleGap_of_readReady {s : State} (h : s.readReady = true) : s.idleGap = true := by
  simp only [State.readReady, Bool.and_eq_true] at h
  obtain ⟨⟨hgap, -⟩, -⟩ := h
  exact hgap

/-- The part after a verify read of `n` words and `part` bytes of the word after them, cut there if there are any. -/
def State.foldRead (s : State) (j : Job) (n part : Nat) : State :=
  { s with
    hostOut := []
    memOut := [ownTxn (ownReadEntry s.cfg) (some (s.translate j.sector (4 * (j.offset / 4 + j.index))))
      (4 * n + part) (part != 0)]
    job := some (s.foldedJob n j)
    freeCount := s.freeCount + 1 }

theorem exec_verifyRead_of_fold {s : State} {j : Job} (hr : s.readReady = true) (hj : s.job = some j)
    (hp : j.pass = .fold) (hf : s.flash.op = none) {n part : Nat}
    (hb : s.readBytes (4 * n + part) = 4 * n + part) (hpart : part < 4) (hpos : 0 < 4 * n + part)
    (hn : j.index + n ≤ j.count) (hroom : part = 0 ∨ j.index + n < j.count) :
    exec (.verifyRead (4 * n + part) []) s = .next (s.foldRead j n part) := by
  rw [exec_verifyRead, State.drift_nil,
    State.verifyRead_of_fold (s := s.begin) hr hj hp hf hb hpart hpos hn hroom]
  rfl

/-- Settles O46: a read within the fold's words, whole or cut in a word, and the reads that nothing can cut. -/
theorem wordsFolded : Obligations.WordsFolded := by
  intro s
  refine ⟨?_, fun hd bytes d => ?_⟩
  · intro j n hr hj hp hn ho hf byte word folded
    have hfolded (part : Nat) : s.foldRead j n part = folded (4 * n + part) (part != 0) := by
      simp only [State.foldRead, State.foldedJob, folded, ho, Nat.zero_div, Nat.zero_add]
      rfl
    refine ⟨fun hpos => ?_, fun part hd hlt hpos hpart => ?_⟩
    · rw [← Nat.add_zero (4 * n), exec_verifyRead_of_fold hr hj hp hf (State.readBytes_words hpos) (by decide)
        (by omega) hn (.inl rfl), hfolded 0]
      rfl
    · have ha : s.accepts = true := by
        rw [State.accepts_of_idleGap (State.idleGap_of_readReady hr), hd, Bool.not_false]
      rw [exec_verifyRead_of_fold hr hj hp hf (State.readBytes_of_accepts ha _) hpart (by omega) hn (.inr hlt),
        hfolded part, show (part != 0) = true by simp [hpos.ne']]
  · have hwords : (s.begin.drift d).readBytes bytes = 4 * ((bytes - 1) / 4 + 1) := State.readBytes_of_driven hd bytes
    refine ⟨congrArg Host.Outcome.next (State.verifyRead_congr ?_), _, exec_verifyRead .., fun m hm => ?_⟩
    · rw [hwords, State.readBytes_words (Nat.succ_pos _)]
    · exact (State.verifyRead_uncut hwords m hm).resolve_left List.not_mem_nil

end Sys2Proof.Machine
end

section
/-! The bounds of the lists (R103, R145, R174, 3.1, 8.1) under the shared operations: the log, the slots and the targets, the
engine's lists, the verdicts, the owners of programs and erases, and boot events. -/

namespace Sys2Proof.Machine

open Sys2Proof

theorem State.bounded_ite {c : Prop} [Decidable c] {s t : State} (hs : s.bounded) (ht : t.bounded) :
    (if c then s else t).bounded := by
  split
  · exact hs
  · exact ht

theorem State.joinQueue_verifyQueue_length (s : State) (e : Entry) :
    (s.joinQueue e).verifyQueue.length = s.verifyQueue.length + 1 :=
  List.length_append

theorem State.bounded.foldl {α : Type} {s : State} (h : s.bounded) {f : State → α → State} {l : List α}
    (hf : ∀ (u : State) (x : α), u.bounded → (f u x).bounded) : (l.foldl f s).bounded :=
  List.foldlRecOn l f h fun u hu x _ => hf u x hu

section
variable {s : State} (h : s.bounded)

include h

/-! ### The basic updates -/

theorem State.bounded.log_le : s.log.length ≤ 64 := h.1
theorem State.bounded.verifyQueue_le : s.verifyQueue.length ≤ 32 := h.2.1

/-- 3.1, 8.1: the slot records and the targets may change, but not how many there are. -/
theorem State.bounded.setRecords {l : List SlotRec} {ts : List TargetDyn} (hl : l.length = s.slots.length)
    (hts : ts.length = s.targets.length) : State.bounded { s with slots := l, targets := ts } := by
  obtain ⟨hlog, hverify, hqueue, hwait, hslots, htargets⟩ := h
  exact ⟨hlog, hverify, hqueue, hwait, hl.trans hslots, hts.trans htargets⟩

/-- R145: the store may change, but not the offers to the journal. -/
theorem State.bounded.setStore {st : Store} (hq : st.queue = s.store.queue) (hw : st.waiting = s.store.waiting) :
    State.bounded { s with store := st } := by
  obtain ⟨hlog, hverify, hqueue, hwait, hslots, htargets⟩ := h
  exact ⟨hlog, hverify, hq ▸ hqueue, hq ▸ hw ▸ hwait, hslots, htargets⟩

theorem State.bounded.setVerifyQueue {q : List Entry} (hq : q.length ≤ 32) :
    State.bounded { s with verifyQueue := q } := by
  obtain ⟨hlog, -, hrest⟩ := h
  exact ⟨hlog, hq, hrest⟩

theorem State.bounded.setLog {l : List LogEntry} (hl : l.length ≤ 64) : State.bounded { s with log := l } := by
  obtain ⟨-, hrest⟩ := h
  exact ⟨hl, hrest⟩

theorem State.bounded.appendLog {e : LogEntry} : (s.appendLog e).bounded :=
  h.setLog (s.appendLog_length e h.log_le)

theorem State.bounded.offer {o : Owner} {p : Payload} : (s.offer o p).bounded := by
  obtain ⟨hlog, hverify, hqueue, hwait, hrecords⟩ := h
  obtain ⟨hqueue', hwait'⟩ := s.offer_capacity o p hqueue hwait
  exact ⟨hlog, hverify, hqueue', hwait', hrecords⟩

theorem State.bounded.updSlot {i : Nat} {f : SlotRec → SlotRec} : (s.updSlot i f).bounded :=
  h.setRecords (s.slots_length_updSlot i f) rfl

theorem State.bounded.updChunk {i c : Nat} {f : Chunk → Chunk} : (s.updChunk i c f).bounded := h.updSlot

theorem State.bounded.updDyn {t : Nat} {f : TargetDyn → TargetDyn} : (s.updDyn t f).bounded :=
  h.setRecords rfl (List.length_modify ..)

theorem State.bounded.offerSlot {o : Owner} {i : Nat} : (s.offerSlot o i).bounded := h.offer.updSlot

theorem State.bounded.offerTarget {o : Owner} {t : Nat} : (s.offerTarget o t).bounded := h.offer

theorem State.bounded.offerInOrder {o : Owner} {slots targets : List Nat} :
    (s.offerInOrder o slots targets).bounded :=
  ((h.foldl fun _ _ hu => hu.offerSlot).foldl fun _ _ hu => hu.offerTarget).foldl fun _ _ hu => hu.offerSlot

/-! ### Sectors (3.5) -/

theorem State.bounded.setHealth {p : Nat} {x : Health} : (s.setHealth p x).bounded := h

theorem State.bounded.setStrikes {p n : Nat} : (s.setStrikes p n).bounded := h

theorem State.bounded.clearClean {l : Nat} : (s.clearClean l).bounded := h

theorem State.bounded.markSuspect {r : Reason} {p l : Nat} {a : Option Nat} : (s.markSuspect r p l a).bounded :=
  State.bounded_ite h h.appendLog.setHealth.setStrikes.offer

theorem State.bounded.strike {p l : Nat} : (s.strike p l).bounded :=
  State.bounded_ite h (State.bounded_ite h.markSuspect h.setStrikes)

theorem State.bounded.eraseChunk {l : Nat} {f : Chunk → Chunk} : (s.eraseChunk l f).bounded := by
  unfold State.eraseChunk
  split
  · exact h
  · exact State.bounded_ite h.updChunk h

/-! ### The engine's lists (6.4, 6.5) -/

theorem State.bounded.joinQueue {e : Entry} (hq : s.verifyQueue.length < 32) : (s.joinQueue e).bounded :=
  h.updChunk.setVerifyQueue ((s.joinQueue_verifyQueue_length e).trans_le hq)

/-- R103, R104: the sweep takes no more chunks than the verify queue has room for. -/
theorem State.bounded.sweep : s.sweep.bounded := by
  have hjoin (l : List (Nat × Nat)) (u : State) (hu : u.bounded) (hl : u.verifyQueue.length + l.length ≤ 32) :
      (l.foldl (fun s p => s.joinQueue { kind := .chunk, slot := p.1, chunk := p.2 }) u).bounded := by
    induction l generalizing u with
    | nil => exact hu
    | cons p l ih =>
      rw [List.length_cons] at hl
      refine ih _ (hu.joinQueue (by omega)) ?_
      rw [State.joinQueue_verifyQueue_length]
      omega
  have hverify := h.verifyQueue_le
  refine hjoin _ s h ?_
  rw [List.length_take, queueCapacity]
  omega

theorem State.bounded.startJob : s.startJob.bounded := by
  unfold State.startJob
  split
  · exact h
  · split
    · exact h
    · split
      · exact h
      · split
        · exact h
        · split
          · next e q hq =>
            have hverify := h.verifyQueue_le
            rw [hq, List.length_cons] at hverify
            exact State.bounded.sweep (s := { s with job := some (s.entryStart e), verifyQueue := q })
              (h.setVerifyQueue (by omega))
          · exact h

theorem State.bounded.resettle : s.resettle.bounded := h.sweep.startJob

theorem State.bounded.dropEntries {f : Nat → Nat → Bool} : (s.dropEntries f).bounded :=
  h.setVerifyQueue ((List.length_filter_le ..).trans h.verifyQueue_le)

theorem State.bounded.dropSlotJobs {i : Nat} : (s.dropSlotJobs i).bounded := h.dropEntries.updSlot

theorem State.bounded.dropChunkJob {i c : Nat} : (s.dropChunkJob i c).bounded := h.dropEntries.updChunk

theorem State.bounded.dropManifest {i : Nat} : (s.dropManifest i).bounded := h

theorem State.bounded.endJob {j : Job} : (s.endJob j).bounded := by
  unfold State.endJob
  split <;> exact h

theorem State.bounded.restartSecondPass {f : Nat → Bool} : (s.restartSecondPass f).bounded := by
  unfold State.restartSecondPass
  split
  · exact State.bounded_ite h h
  · exact h

theorem State.bounded.verifyRead {n : Nat} : (s.verifyRead n).bounded := by
  unfold State.verifyRead
  dsimp only
  split
  · exact h
  · exact State.bounded_ite h (State.bounded_ite h h)

theorem State.bounded.patrolStep : s.patrolStep.bounded := by
  unfold State.patrolStep
  split
  · exact h
  · next p _ =>
    split
    · next hq =>
      exact State.bounded.startJob (s := { s.joinQueue { kind := .patrol, slot := p.1, chunk := p.2 } with
        patrolSlot := (s.pointerAfter p).1, patrolChunk := (s.pointerAfter p).2 }) (h.joinQueue hq)
    · exact h

/-! ### Admission, reload and chunk work (chapters 4, 6 and 7) -/

theorem State.bounded.rejectHeader {i : Nat} {r : Reason} : (s.rejectHeader i r).bounded := h.dropManifest.updSlot

theorem State.bounded.failSlot {i : Nat} : (s.failSlot i).bounded := h.dropSlotJobs.updSlot

theorem State.bounded.markDecayed {i : Nat} : (s.markDecayed i).bounded := h.dropSlotJobs.updSlot

theorem State.bounded.reloadPassedSlot {i : Nat} : (s.reloadPassedSlot i).bounded := h.dropManifest.updSlot

theorem State.bounded.trialEndedByCheck {i : Nat} {r : Reason} {c : Option Nat} :
    (s.trialEndedByCheck i r c).bounded :=
  h.failSlot.updDyn.appendLog.offerSlot.offerTarget

theorem State.bounded.reloadFailedSlot {i : Nat} {r : Reason} : (s.reloadFailedSlot i r).bounded := by
  have h1 : ((s.dropManifest i).updSlot i SlotRec.reloadFailed).bounded := h.dropManifest.updSlot
  unfold State.reloadFailedSlot
  dsimp only
  split
  case _ | _ => exact h1.failSlot.appendLog.offerSlot
  · exact h1.trialEndedByCheck
  case _ | _ => exact h1.markDecayed.appendLog.offerSlot
  all_goals exact h1

theorem State.bounded.admissionOutcome {i : Nat} {w : List Word} {tag : Bool} :
    (s.admissionOutcome i w tag).bounded := by
  unfold State.admissionOutcome
  split
  · exact h.dropManifest.updSlot.appendLog.offerSlot
  · exact h.rejectHeader.appendLog

theorem State.bounded.reloadOutcome {i : Nat} {w : List Word} {tag : Bool} : (s.reloadOutcome i w tag).bounded := by
  unfold State.reloadOutcome
  split
  · exact h.reloadPassedSlot
  · exact h.reloadFailedSlot

theorem State.bounded.chunkMismatched {r : Reason} {i c p : Nat} : (s.chunkMismatched r i c p).bounded :=
  h.updChunk.appendLog.strike

theorem State.bounded.sealIfVerified {i : Nat} : (s.sealIfVerified i).bounded :=
  State.bounded_ite h.updSlot.appendLog.offerSlot h

theorem State.bounded.chunkVerdict {i c p : Nat} {m : Bool} : (s.chunkVerdict i c p m).bounded := by
  unfold State.chunkVerdict
  split
  · exact h
  · refine State.bounded_ite (State.bounded_ite h.updChunk.setStrikes.sealIfVerified ?_) h
    split
    · exact h.chunkMismatched
    · exact h.updChunk

theorem State.bounded.patrolVerdict {i c p : Nat} {m : Bool} : (s.patrolVerdict i c p m).bounded := by
  have h1 : (s.chunkMismatched .patrol i c p).bounded := h.chunkMismatched
  unfold State.patrolVerdict
  split
  · exact h
  · refine State.bounded_ite (State.bounded_ite h.updChunk.setStrikes ?_) h
    dsimp only
    split
    · exact h1.failSlot.offerSlot
    · exact h1.trialEndedByCheck
    case _ | _ => exact h1.markDecayed.appendLog.offerSlot
    all_goals exact h1

/-! ### Programs and erases and their owners (R16, R19, R35) -/

theorem State.bounded.headerProgramEnded {i : Nat} : (s.headerProgramEnded i).bounded := by
  rw [State.headerProgramEnded_eq]
  exact h

theorem State.bounded.offerChunk {i c : Nat} : (s.offerChunk i c).bounded := by
  unfold State.offerChunk
  split
  · exact h
  · split
    · next hc =>
      obtain ⟨-, -, -, hroom⟩ := hc
      exact h.joinQueue hroom
    · exact h

theorem State.bounded.chunkProgramFailed {i c p a : Nat} : (s.chunkProgramFailed i c p a).bounded :=
  State.bounded_ite h.updChunk.appendLog h

theorem State.bounded.programEnded {op : OpRecord} {failed : Bool} : (s.programEnded op failed).bounded := by
  unfold State.programEnded
  extract_lets s0
  have h0 : s0.bounded := h
  split
  · exact h0
  · extract_lets suspect
    have hs {u : State} (hu : u.bounded) : (suspect u).bounded := State.bounded_ite hu.markSuspect hu
    split
    · exact hs h0
    · exact State.bounded_ite (hs h0).headerProgramEnded.resettle
        (State.bounded_ite (hs h0.chunkProgramFailed).resettle h0.offerChunk.resettle)

theorem State.bounded.eraseEnded {op : OpRecord} {failed : Bool} : (s.eraseEnded op failed).bounded := by
  unfold State.eraseEnded
  extract_lets s0
  have h0 : s0.bounded := h
  split
  · exact h0
  · exact State.bounded_ite h0.clearClean.markSuspect.eraseChunk h0

theorem State.bounded.takeSector {i k : Nat} : (s.takeSector i k).bounded := by
  unfold State.takeSector State.takeHeaderErase
  refine State.bounded_ite ?_ (State.bounded_ite h.dropChunkJob.updChunk h)
  dsimp only
  split
  · exact h.dropManifest.updSlot
  · exact State.bounded_ite h.updSlot h.updSlot.offerSlot
  · exact h

theorem State.bounded.takeDecision {d : Decision} {a : Nat} : (s.takeDecision d a).bounded := by
  unfold State.takeDecision
  extract_lets entry _ s1
  have h1 : s1.bounded := by
    unfold s1
    split
    · exact h.appendLog.offer.offer
    · exact h.appendLog
    · exact h.offer
    · exact h
  split
  · exact h1
  · exact h1.offer

theorem State.bounded.applyDecision {d : Decision} : (s.applyDecision d).bounded := by
  unfold State.applyDecision
  split <;> exact h

theorem State.bounded.discardWear {d : Decision} : (s.discardWear d).bounded := by
  unfold State.discardWear
  split <;> exact h

theorem State.bounded.stagingForwarded {d : Decision} : (s.stagingForwarded d).bounded :=
  State.bounded.eraseChunk (s := ((s.applyDecision d).countWear d.target).setClean d.logical) h.applyDecision

theorem State.bounded.stagingDiscarded {d : Decision} : (s.stagingDiscarded d).bounded :=
  h.applyDecision.discardWear.clearClean.eraseChunk

theorem State.bounded.forwardErase {t : MemTxn} {op : OpRecord} {d : Option Decision} :
    (s.forwardErase t op d).bounded := by
  unfold State.forwardErase
  extract_lets _ s1
  have h1 : s1.bounded := h
  split
  · exact h1
  · exact h1.stagingForwarded

theorem State.bounded.acceptErase {tx : HostTxn} {op : OpRecord} {d : Option Decision} {cut : Bool} :
    (s.acceptErase tx op d cut).bounded :=
  State.bounded_ite h (State.bounded_ite h h.forwardErase)

theorem State.bounded.takeProgram {i k page : Nat} : (s.takeProgram i k page).bounded :=
  State.bounded_ite h.updSlot h.updChunk

theorem State.bounded.capture {i a : Nat} {data : List Byte} : (s.capture i a data).bounded :=
  State.bounded_ite h.updSlot h.rejectHeader.appendLog.resettle

/-! ### Boot events (8.5) -/

omit h in
theorem bootClosed_bounded : BootClosed State.bounded where
  boot _ _ h := h
  dyn _ _ _ _ h := h.updDyn
  log _ _ h := h.appendLog
  offer _ _ _ h := h.offer
  offerSlot _ _ _ h := h.offerSlot
  decayed _ _ h := h.markDecayed
  scan _ _ _ h := h

theorem State.bounded.bootTrialFails {t i : Nat} {r : Option Reason} {c : Option Nat} :
    (s.bootTrialFails t i r c).bounded :=
  bootClosed_bounded.boot _ _ h.failSlot.dropManifest.updSlot.updDyn.appendLog

theorem State.bounded.beginBoot {startup : Bool} : (s.beginBoot startup).bounded :=
  bootClosed_bounded.beginBoot h (fun _ _ _ _ _ hu _ => hu.bootTrialFails) startup

theorem State.bounded.scanEnds {c : Scan} {pass : Bool} {r : Option Reason} {k : Option Nat} :
    (s.scanEnds c pass r k).bounded := by
  unfold State.scanEnds
  extract_lets s1
  have h1 : s1.bounded := h
  split
  · exact h1
  · split
    · exact bootClosed_bounded.trialScanned h1 (fun _ _ => h1.bootTrialFails) ..
    · exact bootClosed_bounded.activeScanned h1 ..
    · exact bootClosed_bounded.fallbackScanned h1 ..

theorem State.bounded.scanManifestVerdict {c : Scan} {w : List Word} {tag : Bool} :
    (s.scanManifestVerdict c w tag).bounded := by
  unfold State.scanManifestVerdict
  extract_lets s0 s1
  have h0 : s0.bounded := h
  split
  · exact h0.dropManifest.updSlot.scanEnds
  · have h1 : s1.bounded := State.bounded_ite h0.reloadPassedSlot h0
    exact State.bounded_ite h1 h1.scanEnds

theorem State.bounded.scanChunkVerdict {c : Scan} {p : Nat} {m : Bool} : (s.scanChunkVerdict c p m).bounded := by
  unfold State.scanChunkVerdict
  extract_lets s0 s1
  have h0 : s0.bounded := h
  have h1 : s1.bounded := h0.updChunk.setStrikes
  exact State.bounded_ite (State.bounded_ite h1.scanEnds h1) h0.dropChunkJob.chunkMismatched.scanEnds

end

end Sys2Proof.Machine
end

section
/-! Every command keeps the lists within their capacities: the host's transactions, the requests, the record store's steps and
start-up, and the settlement of O3. -/

namespace Sys2Proof.Machine

open Sys2Proof

section
variable {s : State} (h : s.bounded)

include h

/-! ### The flash and the tracker (R1, R16, R17) -/

theorem State.bounded.flashObserved {raw : Byte} : (s.flashObserved raw).bounded := by
  unfold State.flashObserved
  split
  · exact h
  · exact State.bounded_ite h h

theorem State.bounded.observe {raw : Byte} : (s.observe raw).bounded := by
  have h1 : (s.flashObserved raw).bounded := h.flashObserved
  unfold State.observe
  dsimp only
  split
  · exact State.bounded_ite h1 h1.programEnded
  · exact State.bounded_ite h1 h1.eraseEnded
  · exact h1
  · exact h1

theorem State.bounded.observeEnd {b : Byte} : (s.observeEnd b).bounded := State.bounded_ite h h.observe

theorem State.bounded.setTracker {x : Tracker} : State.bounded { s with tracker := x } := h

theorem State.bounded.sendProgram {tx : HostTxn} {a : Nat} : (s.sendProgram tx a).bounded := h

theorem State.bounded.setLatch {v : Bool} : (s.setLatch v).bounded := h

theorem State.bounded.setFlags {e p : Bool} : State.bounded { s with echo := e, pendingWD := p } := h

theorem State.bounded.setPendingWD {p : Bool} : State.bounded { s with pendingWD := p } := h

theorem State.bounded.setHostOut {out : List Byte} {n : Nat} :
    State.bounded { s with hostOut := out, freeCount := n } := h

theorem State.bounded.send {m : MemTxn} : (s.send m).bounded := h

theorem State.bounded.statusByte {b : Byte} : (s.statusByte b).bounded := h.observe (raw := s.flashAnswer b)

theorem State.bounded.pollBytes (bs : List Byte) (n : Nat) : (State.pollBytes bs n s).2.bounded := by
  induction bs generalizing n s with
  | nil => exact h
  | cons b bs ih =>
    unfold State.pollBytes
    split
    · exact ih h.observe _
    · exact h

theorem State.bounded.idleBytes (bs : List Byte) (n : Nat) : (State.idleBytes bs n s).2.2.bounded := by
  induction bs generalizing n s with
  | nil => exact h
  | cons b bs ih =>
    unfold State.idleBytes
    extract_lets raw
    split
    · exact ih h.flashObserved _
    · exact h.flashObserved

theorem State.bounded.releaseGuard : s.releaseGuard.bounded := by
  unfold State.releaseGuard
  split
  · exact State.bounded_ite h h
  · exact h

theorem State.bounded.forwardHeld {op : OpRecord} {x : Hold} {cut : SendCut} : (s.forwardHeld op x cut).bounded := by
  unfold State.forwardHeld
  dsimp only
  split
  · exact h
  · exact h
  · exact State.bounded.forwardErase
      (s := (s.send (ownTxn (firstOfClass s.cfg.profile .writeEnable) none 0 false)).setLatch true) h

theorem State.bounded.unheld : s.unheld.bounded := by
  obtain ⟨hlog, hverify, hqueue, hwait, hrecords⟩ := h
  refine ⟨hlog, hverify, (List.length_map ..).trans_le hqueue, ?_, hrecords⟩
  exact hwait.imp (fun hw => List.map_eq_nil_iff.2 hw) (List.length_map ..).trans

theorem State.bounded.discardHeld : s.discardHeld.bounded := by
  by_cases ht : ∃ op x, s.tracker = .eraseHeld op x
  · obtain ⟨op, x, ht⟩ := ht
    rw [s.discardHeld_of_held ht]
    split
    · exact h.unheld
    · exact h.unheld.stagingDiscarded
  · rw [s.discardHeld_of_not_held fun op x e => ht ⟨op, x, e⟩]
    exact h

/-! ### Reads (R29) -/

theorem State.bounded.touchPage {p o : Nat} {page : List Byte} : (s.touchPage p o page).bounded := by
  unfold State.touchPage
  extract_lets s1
  have h1 : s1.bounded := State.bounded_ite h h
  exact State.bounded_ite h1 h1

theorem State.bounded.partByte {a : Nat} : (s.partByte a).2.bounded := by
  unfold State.partByte State.windowByte
  split
  · split
    · exact h
    · split
      · exact h
      · exact h.touchPage
  · exact h

theorem State.bounded.serve (tx : HostTxn) (n i a : Nat) (prev : Option Nat) : (s.serve tx n i a prev).bounded := by
  induction n generalizing i a prev s with
  | zero => exact h
  | succ n ih =>
    unfold State.serve
    refine ih ?_ _ _ _
    split
    · exact h.partByte (a := a)
    · exact h
    · exact h

theorem State.bounded.readRuns {tx : HostTxn} {len : Nat} : (s.readRuns tx len).bounded := by
  unfold State.readRuns
  extract_lets a src s1
  refine State.bounded_ite h ?_
  have h1 : s1.bounded := by
    unfold s1
    clear_value src
    cases src <;> exact h
  exact h1.serve tx len 0 a (runTag src a)

/-! ### Writes (R11, R30 to R39) -/

theorem State.bounded.refuseWrite {r : Reason} {op : Byte} {a : Option Nat} : (s.refuseWrite r op a).bounded :=
  State.bounded.appendLog (s := { s with echo := true, pendingWD := true }) h

theorem State.bounded.refuseHeld {op : Byte} {a : Option Nat} : (s.refuseHeld op a).bounded :=
  State.bounded.appendLog (s := { s with echo := false }) h

theorem State.bounded.takeWrite {op : Byte} {a : Option Nat} {f : State → State}
    (hf : ∀ u : State, u.bounded → (f u).bounded) : (s.takeWrite op a f).bounded := by
  unfold State.takeWrite
  split
  · exact h
  · exact h
  · exact h.refuseHeld
  · exact hf { s with echo := false } h

theorem State.bounded.stagingErase {tx : HostTxn} {a : Nat} {cut : Bool} : (s.stagingErase tx a cut).bounded := by
  unfold State.stagingErase
  dsimp only
  split
  · exact h.refuseWrite
  · next i k _ =>
    split
    · exact h.refuseWrite
    · exact (h.takeSector (i := i) (k := k)).takeDecision.acceptErase.resettle

theorem State.bounded.idleEraseSector {tx : HostTxn} {a : Nat} {cut : Bool} :
    (s.idleEraseSector tx a cut).bounded := by
  unfold State.idleEraseSector
  split
  · exact h.acceptErase
  · exact h.stagingErase
  all_goals exact h.refuseWrite

theorem State.bounded.idleEraseLarge {tx : HostTxn} {a : Nat} {cut : Bool} :
    (s.idleEraseLarge tx a cut).bounded :=
  State.bounded_ite h.acceptErase h.refuseWrite

theorem State.bounded.stagingProgram {tx : HostTxn} {a : Nat} : (s.stagingProgram tx a).bounded := by
  unfold State.stagingProgram
  extract_lets l p
  split
  · exact h.refuseWrite
  · next i k _ =>
    split
    · exact h.refuseWrite
    · extract_lets s1 s2
      have h1 : s1.bounded := h.takeProgram.sendProgram.clearClean
      have h2 : s2.bounded := h1.setTracker
      exact State.bounded_ite h2.capture h2

/-! ### Requests (8.3, chapter 10) -/

theorem State.bounded.refuseRequest {r : ReqReason} : (s.refuseRequest r).bounded := h

theorem State.bounded.requestPending : s.requestPending.bounded := h

theorem State.bounded.requestAwaits : s.requestAwaits.bounded := State.bounded_ite h h

theorem State.bounded.putKeyRow {r : KeyRow} : (s.putKeyRow r).bounded :=
  State.bounded.setStore (s := { s with
    keys := r.keys, locked := r.locked, lastOutcome := .pending, lastReason := none }) h rfl rfl

/-- 3.1: under another slot code there are as many slot records as it says. -/
theorem State.bounded.setCode {c : Nat} {l : List SlotRec} {ts : List TargetDyn} (hl : l.length = 2 ^ c)
    (hts : ts.length = s.targets.length) : State.bounded { s with code := c, slots := l, targets := ts } := by
  obtain ⟨hlog, hverify, hqueue, hwait, -, htargets⟩ := h
  exact ⟨hlog, hverify, hqueue, hwait, hl, hts.trans htargets⟩

theorem State.bounded.changeSlotCode {c : Nat} : (s.changeSlotCode c).bounded :=
  (h.setCode (List.length_replicate ..) rfl).setVerifyQueue (Nat.zero_le 32)

theorem State.bounded.confirmDrops {i : Nat} : (s.confirmDrops i).bounded := h.dropSlotJobs.dropManifest.updSlot

theorem State.bounded.confirmLog {before : State} {i : Nat} : (s.confirmLog before i).bounded := by
  unfold State.confirmLog
  split
  · exact h.appendLog
  · exact h.appendLog
  · exact h

theorem State.bounded.confirmRoles {i t floor : Nat} : (s.confirmRoles i t floor).bounded := by
  unfold State.confirmRoles
  extract_lets d s1 s2
  have h1 : s1.bounded := by
    unfold s1
    split
    · exact h
    · exact State.bounded_ite h.updSlot h.updSlot.confirmDrops
  have h2 : s2.bounded := by
    unfold s2
    split
    · exact h1
    · exact h1.updSlot
  exact h2.updSlot.updDyn

theorem State.bounded.outdate {floor j : Nat} : (s.outdate floor j).bounded := h.confirmDrops.updSlot

theorem State.bounded.emptySlot {i : Nat} : (s.emptySlot i).bounded :=
  have h1 := h.dropManifest.dropSlotJobs.updSlot
  State.bounded_ite h1.updDyn h1

theorem State.bounded.reqActivate {a : Word} : (s.reqActivate a).bounded := by
  refine State.bounded_ite h (State.bounded_ite h (State.bounded_ite h ?_))
  split
  · exact h.updSlot.updDyn.appendLog.offerTarget.offerSlot.requestPending
  · exact h.refuseRequest

theorem State.bounded.reqConfirm {a : Word} : (s.reqConfirm a).bounded := by
  unfold State.reqConfirm
  extract_lets i r t floor below s1 changed _ s2 s3
  refine State.bounded_ite h (State.bounded_ite h (State.bounded_ite h ?_))
  have h1 : s1.bounded := h.confirmRoles.foldl fun _ _ hu => hu.outdate
  have h3 : s3.bounded := h1.appendLog.foldl fun _ _ hu => hu.confirmLog
  exact h3.offerInOrder.requestPending.resettle

theorem State.bounded.reqAbandon {a : Word} : (s.reqAbandon a).bounded :=
  State.bounded_ite h (State.bounded_ite h h.updSlot.updDyn.appendLog.offerTarget.offerSlot.requestPending)

theorem State.bounded.reqDiscard {a : Word} : (s.reqDiscard a).bounded := by
  unfold State.reqDiscard
  extract_lets i r s1 s2 s3
  refine State.bounded_ite h (State.bounded_ite h (State.bounded_ite h ?_))
  have h2 : s2.bounded := State.bounded_ite h.emptySlot h.emptySlot.offerSlot
  have h3 : s3.bounded := State.bounded_ite h2.offerTarget h2
  exact h3.requestAwaits.resettle

theorem State.bounded.reqClearStaging : s.reqClearStaging.bounded :=
  (h.foldl fun _ _ hu => hu.emptySlot).offerInOrder.requestAwaits.resettle

theorem State.bounded.reqSetSlotCode {a : Word} : (s.reqSetSlotCode a).bounded :=
  State.bounded_ite h (State.bounded_ite h (State.bounded_ite h h.changeSlotCode.offer.requestPending))

theorem State.bounded.reqLogFree {n : Word} : (s.reqLogFree n).bounded :=
  State.bounded_ite h (State.bounded_ite h
    (h.setLog ((List.drop_sublist ..).length_le.trans h.log_le)))

theorem State.bounded.reqAckAlert : s.reqAckAlert.bounded :=
  State.bounded_ite (s := { s with alertPending := false }) h h

theorem State.bounded.reqKeyWrite {a v : Word} : (s.reqKeyWrite a v).bounded :=
  State.bounded_ite h (State.bounded_ite h (State.bounded_ite h h.putKeyRow.restartSecondPass))

theorem State.bounded.reqKeyRevoke {a : Word} : (s.reqKeyRevoke a).bounded := by
  refine State.bounded_ite h ?_
  split
  · exact h.putKeyRow.restartSecondPass
  · exact h.refuseRequest

theorem State.bounded.reqTargetWrite {a c f : Word} : (s.reqTargetWrite a c f).bounded :=
  State.bounded_ite h (State.bounded_ite h (State.bounded_ite h (State.bounded_ite h (h.setStore rfl rfl))))

theorem State.bounded.reqConfigWrite {i n v : Word} : (s.reqConfigWrite i n v).bounded := by
  unfold State.reqConfigWrite
  split
  · exact h.refuseRequest
  · exact State.bounded_ite h (h.setStore rfl rfl)

theorem State.bounded.reqLock : s.reqLock.bounded := State.bounded_ite h h.putKeyRow

theorem State.bounded.reqFactoryClear : s.reqFactoryClear.bounded := by
  have hfloors : State.bounded { s with targets := s.targets.map fun d => { d with floor := 0 } } :=
    h.setRecords rfl (List.length_map ..)
  exact (hfloors.putKeyRow.foldl fun _ _ hu => hu.offerTarget).restartSecondPass

omit h in
theorem State.reset_bounded : State.reset.bounded :=
  ⟨Nat.zero_le 64, Nat.zero_le 32, Nat.zero_le 16, .inl rfl, rfl, rfl⟩

omit h in
/-- R181: a part reset loses every list. -/
theorem State.partReset_bounded (s : State) (b : Bool) : (s.partReset b).bounded := State.reset_bounded.setStore rfl rfl

theorem requestRule_bounded {code a1 a2 a3 a4 : Word} {act : State → State}
    (hr : requestRule code a1 a2 a3 a4 = some act) : (act s).bounded := by
  unfold requestRule at hr
  split at hr <;> cases hr
  · exact h.reqActivate
  · exact h.reqConfirm
  · exact h.reqAbandon
  · exact h.reqDiscard
  · exact h.reqClearStaging
  · exact h.reqSetSlotCode
  · exact h.reqLogFree
  · exact h.reqAckAlert
  · exact s.requestDone.partReset_bounded false
  · exact h.reqKeyWrite
  · exact h.reqKeyRevoke
  · exact h.reqTargetWrite
  · exact h.reqConfigWrite
  · exact h.reqLock
  · exact h.reqFactoryClear

theorem State.bounded.takeRequest {image : List Byte} {serial code : Word} {act : State → State}
    (ha : ∀ u : State, u.bounded → (act u).bounded) : (s.takeRequest image serial code act).bounded :=
  State.bounded_ite h (ha { s with reqPage := image, lastSerial := some serial, lastCode := some code } h)

theorem State.bounded.judgeRecord {image : List Byte} : (s.judgeRecord image).bounded := by
  refine h.takeRequest fun u hu => ?_
  split
  · cases hr : imageRule image with
    | none => exact hu.refuseRequest
    | some act => exact requestRule_bounded hu hr
  · exact hu.refuseRequest

/-- A request row of the table keeps the bounds, as the rule of its code does. -/
theorem State.bounded.requestRow {serial code a1 a2 a3 a4 : Word} {act : State → State}
    (hr : requestRule code a1 a2 a3 a4 = some act) : (s.begin.request serial code a1 a2 a3 a4 act).bounded :=
  State.bounded_ite
    (State.bounded.takeRequest (s := { s.begin with echo := false }) h fun _ hu => requestRule_bounded hu hr) h

theorem State.bounded.idleProgram {tx : HostTxn} {a : Nat} : (s.idleProgram tx a).bounded := by
  unfold State.idleProgram
  split
  · exact h
  · exact h.stagingProgram
  · exact State.bounded_ite h.judgeRecord h.refuseWrite
  all_goals exact h.refuseWrite

/-! ### Steps of the record store (chapter 9) -/

theorem State.bounded.updStore {f : Store → Store} (hf : s.store.SameWork (f s.store)) : (s.updStore f).bounded :=
  h.setStore hf.queue hf.waiting

/-- R145: a record leaves the queue, and the first waiting offer takes its place. -/
theorem State.bounded.popQueue : (s.updStore Store.popQueue).bounded := by
  obtain ⟨hlog, hverify, hqueue, hwait, hrecords⟩ := h
  have hpop : s.store.popQueue.queue.length ≤ 16 ∧
      (s.store.popQueue.waiting = [] ∨ s.store.popQueue.queue.length = 16) := by
    unfold Store.popQueue
    split
    · next hw =>
      rw [List.length_drop]
      exact ⟨by omega, .inl hw⟩
    · next hw =>
      have hfull := hwait.resolve_left (by simp [hw])
      rw [List.length_append, List.length_drop, List.length_singleton]
      exact ⟨by omega, .inr (by omega)⟩
  exact ⟨hlog, hverify, hpop.1, hpop.2, hrecords⟩

omit h in
theorem Store.makeDue_queue (st : Store) : st.makeDue.queue = st.queue ∧ st.makeDue.waiting = st.waiting := by
  unfold Store.makeDue
  split
  · obtain ⟨hq, hw, -⟩ := st.updHalf_sameWork (h := st.receiving) (f := HalfState.startErase)
    exact ⟨hq, hw⟩
  · exact ⟨rfl, rfl⟩

omit h in
theorem Store.popQueue_updHalf (st : Store) (half : Half) (f : HalfState → HalfState) :
    (st.updHalf half f).popQueue = st.popQueue.updHalf half f := by
  cases hw : st.waiting <;> cases half <;> simp [Store.popQueue, Store.updHalf, hw]

omit h in
/-- R146: of the offers, the end of a record's write takes the record written. -/
theorem Store.endRecord_queue (st : Store) (half : Half) (pos : Nat) (r : Record) :
    (st.endRecord half pos r).queue = st.popQueue.queue ∧ (st.endRecord half pos r).waiting = st.popQueue.waiting := by
  have hpop (f : HalfState → HalfState) : (st.updHalf half f).popQueue.queue = st.popQueue.queue ∧
      (st.updHalf half f).popQueue.waiting = st.popQueue.waiting := by
    obtain ⟨hq, hw, -⟩ := st.popQueue.updHalf_sameWork (h := half) (f := f)
    rw [Store.popQueue_updHalf]
    exact ⟨hq, hw⟩
  unfold Store.endRecord
  extract_lets _ st1
  split
  · obtain ⟨hq, hw⟩ := st1.makeDue_queue
    exact ⟨hq.trans (hpop _).1, hw.trans (hpop _).2⟩
  · exact hpop _

theorem State.bounded.recordWritten : s.recordWritten.bounded := by
  unfold State.recordWritten
  split
  · next half pos r _ =>
    obtain ⟨hq, hw⟩ := s.store.endRecord_queue half pos r
    rw [State.completeRequest_eq, State.releaseHold_eq]
    exact h.popQueue.setStore (st := s.store.endRecord half pos r) hq hw
  · exact h

theorem State.bounded.rowWritten : s.rowWritten.bounded := by
  unfold State.rowWritten
  split
  · next w _ =>
    rw [State.completeRequest_eq]
    exact h.setStore (st := { s.store.storeRow w with port := none }) (by cases w <;> rfl) (by cases w <;> rfl)
  · exact h

theorem State.bounded.startCompaction : s.startCompaction.bounded := by
  unfold State.startCompaction
  split
  · exact State.bounded_ite (h.updStore ⟨rfl, rfl, rfl⟩) (h.updStore s.store.updHalf_sameWork)
  · exact h

theorem State.bounded.writeSnapshot : s.writeSnapshot.bounded := by
  unfold State.writeSnapshot
  split
  · split
    · exact State.bounded_ite (h.setStore rfl rfl) h
    · next hp => exact h.updStore (Store.endSnapshot_sameWork _ hp)
    · exact h
    · exact h
  · exact h

theorem State.bounded.storeStep {f : State → State} (hf : ∀ u : State, u.bounded → (f u).bounded) :
    (s.storeStep f).bounded :=
  State.bounded_ite (hf s.begin h) h

/-! ### Start-up (R153 to R156, R185 to R187) -/

theorem State.bounded.applyRecord {r : Record} : (s.applyRecord r).bounded := by
  unfold State.applyRecord
  cases r.payload with
  | slot i m => exact State.bounded_ite h.updSlot h
  | target t d => exact h.updDyn
  | slotCode c => exact h.setCode (List.length_replicate ..) rfl
  | _ => exact h

theorem State.bounded.freshStaging : s.freshStaging.bounded :=
  h.setCode (c := 0) (l := [SlotRec.blank]) rfl (List.length_map ..)

theorem State.bounded.replay : s.replay.bounded := by
  unfold State.replay
  split
  · have hblank : State.bounded { s.freshStaging with targets := s.targets.map fun _ => TargetDyn.blank } :=
      h.freshStaging.setRecords rfl (by simp [State.freshStaging])
    exact hblank.setStore rfl rfl
  · extract_lets cells recs s1 same s2 closed
    have h1 : s1.bounded := h.foldl fun _ _ hu => hu.applyRecord
    have h2 : s2.bounded := State.bounded_ite h1 h1.freshStaging
    refine h2.updStore ?_
    extract_lets st1
    split <;> exact ⟨rfl, rfl, rfl⟩

theorem reconcileField_bounded {replayed : State} {t : Nat} {st : SlotState} {f : Option Nat} :
    (reconcileField replayed t st f s).bounded := by
  unfold reconcileField
  split
  · exact h
  · exact State.bounded_ite h.updSlot h

theorem State.bounded.reconcileSlots {t floor : Nat} {named : List Nat} :
    (s.reconcileSlots t named floor).bounded :=
  h.setRecords (by rw [List.length_map, List.length_zipIdx]) rfl

theorem State.bounded.reconcileTarget {t : Nat} : (s.reconcileTarget t).bounded :=
  (reconcileField_bounded (reconcileField_bounded (reconcileField_bounded h))).reconcileSlots.updDyn

theorem State.bounded.reconcile : s.reconcile.bounded :=
  (h.foldl fun _ _ hu => hu.reconcileTarget).offerInOrder

theorem State.bounded.rebuild : s.rebuild.bounded :=
  State.bounded.setRecords (s := { s with manifestJobs := s.rebuild.manifestJobs }) h (List.length_map ..) rfl

theorem State.bounded.afterIdleWait : s.afterIdleWait.bounded :=
  have hpool : s.replay.completeRetired.rebuildPool.bounded := h.replay
  hpool.reconcile.rebuild.beginBoot.resettle

/-! ### Every command -/

/-- A verdict: the job ends, its outcome keeps the bounds, and the engine goes on. -/
theorem State.bounded.verdict {d : Drift} {j : Job} {f : State → State}
    (hf : ∀ u : State, u.bounded → (f u).bounded) : (f ((s.begin.drift d).endJob j)).resettle.bounded :=
  (hf _ (State.bounded.endJob (s := s.begin.drift d) h)).resettle

end

/-- The command answers a next state within the bounds. -/
def InBounds (o : Host.Outcome State Fault Refusal) : Prop := ∃ t, o = .next t ∧ t.bounded

section
variable {s : State} (h : s.bounded)

include h

theorem execStatusRead_inBounds (tx : HostTxn) (answers : List Byte) : InBounds (execStatusRead tx answers s) := by
  refine ⟨_, rfl, State.bounded_ite ?_ h⟩
  have hsent : (s.begin.send (forwardTxn tx none answers.length)).bounded := h
  exact hsent.foldl fun _ _ hu => hu.statusByte

theorem execProgramEnd_inBounds (b : Byte) : InBounds (execProgramEnd b s) := by
  refine ⟨_, rfl, ?_⟩
  split
  · exact State.bounded.observeEnd (s := s.begin) h
  · exact h

theorem execEraseEnd_inBounds (b : Byte) : InBounds (execEraseEnd b s) := by
  refine ⟨_, rfl, ?_⟩
  split
  · exact State.bounded.observeEnd (s := s.begin) h
  · exact h

theorem execHeldEraseForward_inBounds (e : Nat) (cut : SendCut) : InBounds (execHeldEraseForward e cut s) := by
  refine ⟨_, rfl, ?_⟩
  split
  · exact State.bounded_ite (State.bounded.forwardHeld (s := s.begin.tick e) h) h
  · exact h

theorem execAdmissionVerdict_inBounds (d : Drift) : InBounds (execAdmissionVerdict d s) := by
  refine ⟨_, rfl, ?_⟩
  split
  · exact h
  · exact h.verdict fun _ hu => hu.admissionOutcome

theorem execReloadVerdict_inBounds (d : Drift) : InBounds (execReloadVerdict d s) := by
  refine ⟨_, rfl, ?_⟩
  split
  · exact h
  · exact h.verdict fun _ hu => hu.reloadOutcome

theorem execChunkVerdict_inBounds (d : Drift) : InBounds (execChunkVerdict d s) := by
  refine ⟨_, rfl, ?_⟩
  split
  · exact h
  · exact h.verdict fun _ hu => hu.chunkVerdict

theorem execPatrolVerdict_inBounds (d : Drift) : InBounds (execPatrolVerdict d s) := by
  refine ⟨_, rfl, ?_⟩
  split
  · exact h
  · exact h.verdict fun _ hu => hu.patrolVerdict

theorem execBootScanManifestVerdict_inBounds (d : Drift) : InBounds (execBootScanManifestVerdict d s) := by
  refine ⟨_, rfl, ?_⟩
  split
  · exact h.verdict fun _ hu => hu.scanManifestVerdict
  · exact h

theorem execBootScanChunkVerdict_inBounds (d : Drift) : InBounds (execBootScanChunkVerdict d s) := by
  refine ⟨_, rfl, ?_⟩
  split
  · exact h.verdict fun _ hu => hu.scanChunkVerdict
  · exact h

theorem execPatrolTick_inBounds (e : Nat) : InBounds (execPatrolTick e s) := by
  refine ⟨_, rfl, ?_⟩
  split
  · next t _ _ =>
    exact State.bounded_ite (State.bounded.patrolStep (s := { s.begin.tick e with
      nextTick := some (t + (s.begin.tick e).cfg.settings.patrolPeriod * 1000) }) h) h
  · exact h

theorem execHostResetSeen_inBounds : InBounds (execHostResetSeen s) :=
  ⟨_, rfl, State.bounded_ite
    (State.bounded.discardHeld (s := { s.begin with hrstDriven := true, portOpen := false }) h).beginBoot.resettle h⟩

theorem execHrstRelease_inBounds (e : Nat) : InBounds (execHrstRelease e s) := by
  obtain ⟨hq, hw, -⟩ := s.store.startEnded_sameWork
  exact ⟨_, rfl, State.bounded_ite (h.setStore hq hw) h⟩

theorem execFlashIdleWaitEnd_inBounds (answers : List Byte) : InBounds (execFlashIdleWaitEnd answers s) := by
  refine ⟨_, rfl, State.bounded_ite ?_ h⟩
  extract_lets r s1
  have h1 : s1.bounded := State.bounded.idleBytes (s := s.begin) h answers 0
  exact State.bounded_ite (State.bounded.afterIdleWait (s := { s1 with phase := .running }) h1) h1

/-- Every command answers a next state, and keeps the lists within their capacities. -/
theorem exec_inBounds (c : Instr) : InBounds (exec c s) := by
  have hb : s.begin.bounded := h
  have hstore {f : State → State} (hf : ∀ u : State, u.bounded → (f u).bounded) : InBounds (.next (s.storeStep f)) :=
    ⟨_, rfl, h.storeStep hf⟩
  cases c with
  | read tx len d => exact ⟨_, rfl, State.bounded_ite (State.bounded.readRuns (s := s.begin.drift d) h) h⟩
  | statusRead tx answers => exact execStatusRead_inBounds h tx answers
  | program tx => exact ⟨_, rfl, State.bounded_ite (hb.takeWrite fun _ hu => hu.idleProgram) h⟩
  | eraseSector tx e cut =>
    exact ⟨_, rfl, State.bounded_ite
      (State.bounded.takeWrite (s := s.begin.tick e) h fun _ hu => hu.idleEraseSector) h⟩
  | eraseLarge tx e cut =>
    exact ⟨_, rfl, State.bounded_ite
      (State.bounded.takeWrite (s := s.begin.tick e) h fun _ hu => hu.idleEraseLarge) h⟩
  | eraseChip tx => exact ⟨_, rfl, State.bounded_ite (hb.takeWrite fun _ hu => hu.refuseWrite) h⟩
  | writeEnable tx => exact ⟨_, rfl, State.bounded_ite hb.send.setLatch.setFlags h⟩
  | writeDisable tx => exact ⟨_, rfl, State.bounded_ite hb.send.setLatch.setPendingWD h⟩
  | pass tx answers => exact ⟨_, rfl, State.bounded_ite hb.send.setLatch.setHostOut h⟩
  | block tx len => exact ⟨_, rfl, State.bounded_ite h h⟩
  | transactionDropped tx => exact ⟨_, rfl, h⟩
  | activate | confirm | abandon | discard | clearStaging | setSlotCode | logFree | ackAlert | reload | keyWrite
  | keyRevoke | targetWrite | configWrite | lock | factoryClear => exact ⟨_, rfl, h.requestRow rfl⟩
  | requestNotCarried image =>
    exact ⟨_, rfl, State.bounded_ite (State.bounded.judgeRecord (s := { s.begin with echo := false }) h) h⟩
  | programEnd b => exact execProgramEnd_inBounds h b
  | eraseEnd b => exact execEraseEnd_inBounds h b
  | statusPoll answers => exact ⟨_, rfl, State.bounded_ite (hb.pollBytes answers 0).send h⟩
  | pendingWriteDisable cut =>
    exact ⟨_, rfl, State.bounded_ite (State.bounded_ite hb.send hb.send.setLatch.setPendingWD) h⟩
  | guardRelease e => exact ⟨_, rfl, State.bounded.releaseGuard (s := s.begin.tick e) h⟩
  | heldEraseForward e cut => exact execHeldEraseForward_inBounds h e cut
  | verifyRead n d => exact ⟨_, rfl, State.bounded.verifyRead (s := s.begin.drift d) h⟩
  | admissionVerdict d => exact execAdmissionVerdict_inBounds h d
  | reloadVerdict d => exact execReloadVerdict_inBounds h d
  | chunkVerdict d => exact execChunkVerdict_inBounds h d
  | patrolTick e => exact execPatrolTick_inBounds h e
  | patrolVerdict d => exact execPatrolVerdict_inBounds h d
  | hostResetSeen => exact execHostResetSeen_inBounds h
  | bootScanManifestVerdict d => exact execBootScanManifestVerdict_inBounds h d
  | bootScanChunkVerdict d => exact execBootScanChunkVerdict_inBounds h d
  | hrstRelease e => exact execHrstRelease_inBounds h e
  | recordWriteBegin => exact hstore fun u hu => hu.updStore u.store.beginRecord_sameWork
  | recordWriteEnd => exact hstore fun _ hu => hu.recordWritten
  | rowWriteBegin => exact hstore fun u hu => hu.updStore u.store.beginRow_sameWork
  | rowWriteEnd => exact hstore fun _ hu => hu.rowWritten
  | compactionStart => exact hstore fun _ hu => hu.startCompaction
  | snapshotRecordWrite => exact hstore fun _ hu => hu.writeSnapshot
  | halfEraseEnd half => exact hstore fun u hu => hu.updStore u.store.updHalf_sameWork
  | powerOn b => exact ⟨_, rfl, s.partReset_bounded b⟩
  | resetInAssert b => exact ⟨_, rfl, State.bounded_ite h (s.partReset_bounded b)⟩
  | startup => exact ⟨_, rfl, State.bounded_ite h h⟩
  | flashIdleWaitEnd answers => exact execFlashIdleWaitEnd_inBounds h answers
  | powerLoss b => exact ⟨_, rfl, s.partReset_bounded b⟩
  | hrstNSeenHigh => exact ⟨_, rfl, State.bounded_ite h h⟩

end

/-- Settles O3: a step is the front command's, and every command keeps the bounds. -/
theorem boundsKept : Obligations.BoundsKept := by
  intro s hs t' ht'
  unfold step at ht'
  split at ht'
  · cases ht'
    exact hs
  · next c rest _ =>
    obtain ⟨t, ht, hbounds⟩ := exec_inBounds (s := { s with pending := rest }) hs c
    cases ht.symm.trans ht'
    exact hbounds

end Sys2Proof.Machine
end

section
/-! The verdict of a CHUNK job (6.6): what a match and a mismatch leave of the chunk, the sealing of a slot whose last chunk
has matched, and the settlement of O49 and O50. -/

namespace Sys2Proof.Machine

open Sys2Proof

/-! ### Chunks and strikes under the verdict's operations -/

section
variable (s : State)

theorem State.chunkAt_updSlot_of_chunks (i : Nat) {f : SlotRec → SlotRec} (hf : ∀ r, (f r).chunks = r.chunks)
    (j c : Nat) : (s.updSlot i f).chunkAt j c = s.chunkAt j c := by
  have hchunks : ((s.updSlot i f).slotAt j).chunks = (s.slotAt j).chunks := by
    rw [State.slotAt_updSlot]
    split
    · exact hf _
    · rfl
  rw [State.chunkAt, SlotRec.chunkAt, hchunks]
  rfl

theorem State.offerSlot_chunkAt (o : Owner) (i j c : Nat) : (s.offerSlot o i).chunkAt j c = s.chunkAt j c :=
  State.chunkAt_updSlot_of_chunks (s.offer o _) i (f := fun r => { r with journaled := r.state }) (fun _ => rfl) j c

theorem State.strike_slots (p l : Nat) : (s.strike p l).slots = s.slots := by
  unfold State.strike
  split
  · rfl
  · split
    · exact State.markSuspect_slots ..
    · rfl

theorem State.strike_targets (p l : Nat) : (s.strike p l).targets = s.targets := by
  unfold State.strike
  split
  · rfl
  · split
    · rw [State.markSuspect_eq]
    · rfl

theorem State.sealIfVerified_chunkAt (i j c : Nat) : (s.sealIfVerified i).chunkAt j c = s.chunkAt j c := by
  unfold State.sealIfVerified
  split
  · exact (State.offerSlot_chunkAt _ .nobody i j c).trans
      (s.chunkAt_updSlot_of_chunks i (f := fun r => { r with state := .sealed }) (fun _ => rfl) j c)
  · rfl

theorem State.sealIfVerified_strikes (i : Nat) : (s.sealIfVerified i).strikes = s.strikes := by
  unfold State.sealIfVerified
  split <;> rfl

theorem State.chunkMismatched_targets (r : Reason) (i c p : Nat) : (s.chunkMismatched r i c p).targets = s.targets :=
  State.strike_targets ..

theorem State.chunkVerdict_targets (i c p : Nat) (m : Bool) : (s.chunkVerdict i c p m).targets = s.targets := by
  unfold State.chunkVerdict
  split
  · rfl
  · split
    · split
      · unfold State.sealIfVerified
        split <;> simp [State.offerSlot, State.updChunk]
      · split
        · exact s.chunkMismatched_targets ..
        · rfl
    · rfl

end

/-- R109: the chunk becomes VERIFIED, and the sector it was read from has its strikes cleared. -/
def State.chunkVerified (i c p : Nat) (s : State) : State :=
  (s.updChunk i c fun k => { k with state := .verified, queued := false }).setStrikes p 0

/-! ### The verdict by its cases (R109 to R112) -/

section
variable {s : State} {i c p : Nat} {k : Chunk}

theorem State.chunkVerdict_of_match (hk : s.chunkAt i c = some k) (hf : (s.slotAt i).state = .filling)
    (hc : k.state = .complete) : s.chunkVerdict i c p true = (s.chunkVerified i c p).sealIfVerified i := by
  simp only [State.chunkVerdict, hk, hf, hc, and_self, if_true]
  rfl

theorem State.chunkVerdict_of_written (hk : s.chunkAt i c = some k) (hf : (s.slotAt i).state = .filling)
    (hc : k.state = .complete) (ho : k.origin = .written) :
    s.chunkVerdict i c p false = s.chunkMismatched .fold i c p := by
  simp [State.chunkVerdict, hk, hf, hc, ho]

theorem State.chunkVerdict_of_recovered (hk : s.chunkAt i c = some k) (hf : (s.slotAt i).state = .filling)
    (hc : k.state = .complete) (ho : k.origin = .recovered) :
    s.chunkVerdict i c p false = s.updChunk i c fun k => { k with state := .stale, queued := false } := by
  simp [State.chunkVerdict, hk, hf, hc, ho]

/-- R112: the verdict on any other chunk is discarded. -/
theorem State.chunkVerdict_discarded (hk : s.chunkAt i c = some k)
    (h : (s.slotAt i).state ≠ .filling ∨ k.state ≠ .complete) (m : Bool) : s.chunkVerdict i c p m = s := by
  have hn : ¬ ((s.slotAt i).state = .filling ∧ k.state = .complete) := fun ⟨hf, hc⟩ => h.elim (· hf) (· hc)
  simp [State.chunkVerdict, hk, hn]

theorem State.updChunk_chunkAt_state (hk : s.chunkAt i c = some k) (f : Chunk → Chunk) :
    ((s.updChunk i c f).chunkAt i c).map Chunk.state = some (f k).state := by
  rw [State.chunkAt_updChunk, if_pos ⟨rfl, rfl⟩, hk]
  rfl

theorem State.chunkMismatched_chunkAt_state (hk : s.chunkAt i c = some k) (r : Reason) :
    ((s.chunkMismatched r i c p).chunkAt i c).map Chunk.state = some .mismatch := by
  have hslots : (s.chunkMismatched r i c p).slots =
      (s.updChunk i c fun k => { k with state := .mismatch, queued := false }).slots := State.strike_slots ..
  rw [State.chunkAt, State.slotAt, hslots]
  exact State.updChunk_chunkAt_state hk _

theorem State.sealed_chunkVerified_chunkAt_state (hk : s.chunkAt i c = some k) :
    (((s.chunkVerified i c p).sealIfVerified i).chunkAt i c).map Chunk.state = some .verified := by
  rw [State.sealIfVerified_chunkAt]
  exact State.updChunk_chunkAt_state hk _

theorem State.sealed_chunkVerified_strikesOf (h : tableWf (fun _ => 0) s.strikes = true) :
    ((s.chunkVerified i c p).sealIfVerified i).strikesOf p = 0 := by
  rw [State.strikesOf, State.sealIfVerified_strikes]
  exact State.strikesOf_setStrikes (s.updChunk i c _) h p 0

end

section
variable {s : State} {j : Job}

theorem exec_chunkVerdict (h : s.verdictJob .chunk = some j) :
    exec (.chunkVerdict []) s =
      .next ((s.jobEnded j).chunkVerdict j.slot j.chunk (s.physical j.sector) (s.foldMatches j)).resettle := by
  have hb : (s.begin.drift []).verdictJob .chunk = some j := h
  show execChunkVerdict [] s = _
  simp only [execChunkVerdict, hb]
  rw [← State.begin_endJob]
  rfl

@[simp] theorem State.resettle_strikes (s : State) : s.resettle.strikes = s.strikes := by rw [State.resettle_eq]

/-- What a verdict, the sweep and the engine leave of the part. -/
theorem State.chunkVerdict_resettle_frame (s : State) (i c p : Nat) (m : Bool) :
    let t := (s.chunkVerdict i c p m).resettle
    t.flash = s.flash ∧ t.map = s.map ∧ t.pool = s.pool ∧ t.tracker = s.tracker ∧ t.targets = s.targets := by
  have h : s.Books (s.chunkVerdict i c p m).resettle := s.chunkVerdict_books.trans (State.resettle_books _)
  exact ⟨h.flash, h.map, (State.resettle_pool _).trans (s.chunkVerdict_pool ..), h.tracker,
    (State.resettle_targets _).trans (s.chunkVerdict_targets ..)⟩

/-- The sweep and the engine leave every chunk in its state. -/
theorem State.resettle_chunkAt_state (s : State) (i c : Nat) :
    (s.resettle.chunkAt i c).map Chunk.state = (s.chunkAt i c).map Chunk.state :=
  s.resettle_marksOnly.chunk_map Chunk.state (fun _ => rfl) i c

end

/-- Settles O49, by the cases of the verdict; what follows it changes no chunk's state. -/
theorem chunkDecided : Obligations.ChunkDecided := by
  intro s j k hv hk hwf good p
  obtain ⟨-, -, -, hstrikes⟩ := hwf
  obtain ⟨hflash, hmap, hpool, htracker, htargets⟩ :=
    (s.jobEnded j).chunkVerdict_resettle_frame j.slot j.chunk p good
  have hku : (s.jobEnded j).chunkAt j.slot j.chunk = some k := hk
  refine ⟨_, exec_chunkVerdict hv, hflash, hmap, hpool, htracker, htargets, fun hf hc => ?_, fun hd => ?_⟩
  · have hfu : ((s.jobEnded j).slotAt j.slot).state = .filling := hf
    rw [State.resettle_chunkAt_state, State.strikesOf, State.resettle_strikes, State.resettle_log]
    refine ⟨fun hg => ?_, fun hg ho => ?_, fun hg ho => ?_⟩
    · rw [show s.foldMatches j = true from hg, State.chunkVerdict_of_match hku hfu hc]
      exact ⟨State.sealed_chunkVerified_chunkAt_state hku, State.sealed_chunkVerified_strikesOf hstrikes⟩
    · rw [show s.foldMatches j = false from hg, State.chunkVerdict_of_written hku hfu hc ho]
      exact State.chunkMismatched_chunkAt_state hku .fold
    · rw [show s.foldMatches j = false from hg, State.chunkVerdict_of_recovered hku hfu hc ho]
      exact ⟨State.updChunk_chunkAt_state hku _, rfl, rfl⟩
  · rw [State.resettle_chunkAt_state, State.resettle_strikes, State.resettle_log, State.resettle_store,
      State.chunkVerdict_discarded hku hd]
    exact ⟨congrArg (Option.map Chunk.state) hk, rfl, rfl, rfl⟩

/-! ### The sealing of a slot (R113) -/

section
variable {s : State} {i c p : Nat} {k : Chunk}

/-- A property of every numbered chunk is one of every chunk record. -/
theorem State.forall_mem_chunks {P : Chunk → Prop} (h : ∀ c x, s.chunkAt i c = some x → P x) :
    ∀ x ∈ (s.slotAt i).chunks, P x := by
  intro x hx
  obtain ⟨n, hn⟩ := List.mem_iff_getElem?.1 hx
  exact h (n + 1) x hn

/-- A chunk lies in a slot record. -/
theorem State.lt_length_of_chunkAt (h : s.chunkAt i c = some k) : i < s.slots.length := by
  by_contra hi
  rw [State.chunkAt, State.slotAt_of_length_le (Nat.le_of_not_lt hi), SlotRec.chunkAt_blank] at h
  cases h

theorem State.sealIfVerified_of_verified (h : ∀ x ∈ (s.slotAt i).chunks, x.state = .verified) :
    s.sealIfVerified i =
      ((s.updSlot i fun r => { r with state := .sealed }).appendLog (s.slotEntry .sealed i none none)).offerSlot
        .nobody i :=
  if_pos (List.all_eq_true.2 fun x hx => beq_iff_eq.2 (h x hx))

/-- R113: a slot whose every chunk is VERIFIED is SEALED, with its log entry and a SLOT record that says so. -/
theorem State.sealIfVerified_effect (h : ∀ x ∈ (s.slotAt i).chunks, x.state = .verified) (hi : i < s.slots.length) :
    (s.sealIfVerified i).slotAt i = { s.slotAt i with state := .sealed, journaled := .sealed } ∧
    (s.sealIfVerified i).log.getLast? = some { s.slotEntry .sealed i none none with seq := s.nextLogSeq } ∧
    (s.sealIfVerified i).store.offers = s.store.offers ++
      [{ payload := .slot i { state := .sealed, decayed := (s.slotAt i).decayed, summary := (s.slotAt i).summary },
         owner := .nobody }] := by
  have hslot : (s.updSlot i fun r => { r with state := .sealed }).slotAt i = { s.slotAt i with state := .sealed } := by
    rw [State.slotAt_updSlot, if_pos ⟨rfl, hi⟩]
  have himage : ((s.updSlot i fun r => { r with state := .sealed }).slotAt i).image
      ((s.updSlot i fun r => { r with state := .sealed }).slotAt i).state =
        { state := .sealed, decayed := (s.slotAt i).decayed, summary := (s.slotAt i).summary } := by
    rw [hslot]
    rfl
  rw [State.sealIfVerified_of_verified h]
  refine ⟨?_, State.appendLog_offerSlot_getLast .., ?_⟩
  · rw [State.appendLog_offerSlot_slotAt _ _ ((s.slots_length_updSlot ..).symm ▸ hi), hslot]
  · rw [State.offerSlot_offers, ← himage]
    rfl

theorem State.chunkVerified_slotAt (hi : i < s.slots.length) :
    (s.chunkVerified i c p).slotAt i =
      (s.slotAt i).updChunk c fun k => { k with state := .verified, queued := false } :=
  (s.slotAt_updSlot i i _).trans (if_pos ⟨rfl, hi⟩)

theorem SlotRec.updChunk_summary (r : SlotRec) (c : Nat) (f : Chunk → Chunk) :
    (r.updChunk c f).summary = r.summary := by
  unfold SlotRec.updChunk
  split <;> rfl

/-- Once the last chunk is VERIFIED, all are. -/
theorem State.chunkVerified_all (h : ∀ d x, s.chunkAt i d = some x → d ≠ c → x.state = .verified) :
    ∀ x ∈ ((s.chunkVerified i c p).slotAt i).chunks, x.state = .verified := by
  refine State.forall_mem_chunks fun d x hx => ?_
  have hx' : (s.updChunk i c fun k => { k with state := .verified, queued := false }).chunkAt i d = some x := hx
  rw [State.chunkAt_updChunk] at hx'
  split at hx'
  · obtain ⟨y, -, rfl⟩ := Option.map_eq_some_iff.1 hx'
    rfl
  · next hd => exact h d x hx' fun e => hd ⟨rfl, e.symm⟩

end

/-- Settles O50: with the last chunk VERIFIED the slot is SEALED, and the sweep and the engine leave a SEALED slot alone. -/
theorem lastMatchSeals : Obligations.LastMatchSeals := by
  intro s j k hv hk hg hf hc hrest
  set i := j.slot
  have hlt : i < s.slots.length := State.lt_length_of_chunkAt hk
  set w := (s.jobEnded j).chunkVerified i j.chunk (s.physical j.sector) with hw
  have hslot : w.slotAt i = (s.slotAt i).updChunk j.chunk fun k => { k with state := .verified, queued := false } :=
    State.chunkVerified_slotAt (s := s.jobEnded j) hlt
  have hsummary : (w.slotAt i).summary = (s.slotAt i).summary := by rw [hslot, SlotRec.updChunk_summary]
  have hdecayed : (w.slotAt i).decayed = (s.slotAt i).decayed := by rw [hslot, SlotRec.updChunk_decayed]
  obtain ⟨hsealed, hlog, hoffers⟩ := State.sealIfVerified_effect (s := w) (i := i)
    (State.chunkVerified_all (s := s.jobEnded j) hrest) (((s.jobEnded j).slots_length_updSlot ..).symm ▸ hlt)
  have hstep := exec_chunkVerdict hv
  rw [hg, State.chunkVerdict_of_match (s := s.jobEnded j) hk hf hc] at hstep
  have hkeep : (w.sealIfVerified i).resettle.slotAt i = _ :=
    ((w.sealIfVerified i).resettle_marksOnly.slotAt_eq i (by rw [hsealed]; exact nofun)).trans hsealed
  refine ⟨_, hstep, congrArg SlotRec.state hkeep, congrArg SlotRec.journaled hkeep, ?_, ?_⟩
  · rw [State.resettle_log, hlog, State.slotEntry, SlotRec.target?, SlotRec.version, hsummary]
    rfl
  · rw [State.resettle_store, hoffers, hsummary, hdecayed]
    rfl

end Sys2Proof.Machine
end

section
/-! The patrol tick (7.1): what a due tick does to the queue, the pointer and an idle engine, and the settlement of O51. -/

namespace Sys2Proof.Machine

open Sys2Proof

/-- The part once a tick that was due at `due` has set the next one (R114). -/
def State.ticked (elapsed due : Nat) (s : State) : State :=
  { s with
    hostOut := [], memOut := [], clock := s.clock + elapsed,
    nextTick := some (due + s.cfg.settings.patrolPeriod * 1000) }

/-- R115: chunk `c` of slot `i` joins the queue's tail, and the pointer moves past it. -/
def State.patrolTaken (i c : Nat) (s : State) : State :=
  { s.joinQueue { kind := .patrol, slot := i, chunk := c } with
    patrolSlot := (s.pointerAfter (i, c)).1, patrolChunk := (s.pointerAfter (i, c)).2 }

section
variable {s : State}

/-- R114: a tick that is due takes the patrol's step. -/
theorem exec_patrolTick_due {elapsed due : Nat} (hp : s.phase = .running) (hn : s.nextTick = some due)
    (hd : due ≤ s.clock + elapsed) : exec (.patrolTick elapsed) s = .next (s.ticked elapsed due).patrolStep := by
  have htick : s.begin.tick elapsed = { s with hostOut := [], memOut := [], clock := s.clock + elapsed } := by
    simp [State.tick, State.begin, hp]
  show execPatrolTick elapsed s = _
  unfold execPatrolTick
  rw [htick]
  dsimp only
  split
  · next t _ ht =>
    cases hn.symm.trans ht
    rw [if_pos hd]
    rfl
  · next hno => exact absurd hn (hno due hp)

theorem State.patrolStep_of_none (h : s.walk.find? s.patrolEligible = none) : s.patrolStep = s := by
  simp [State.patrolStep, h]

/-- R115: a tick is skipped where the queue is full. -/
theorem State.patrolStep_of_full (h : 32 ≤ s.verifyQueue.length) : s.patrolStep = s := by
  unfold State.patrolStep
  split
  · rfl
  · exact if_neg (Nat.not_lt.2 h)

theorem State.patrolStep_of_room {i c : Nat} (h : s.walk.find? s.patrolEligible = some (i, c))
    (hq : s.verifyQueue.length < 32) : s.patrolStep = (s.patrolTaken i c).startJob := by
  simp only [State.patrolStep, h, queueCapacity, hq, if_true]
  rfl

/-- R115: the pointer moves to the slot's next chunk, or to chunk 1 of the next slot after its last. -/
theorem State.pointerAfter_eq (i c : Nat) : s.pointerAfter (i, c) =
    (if c < (s.slotAt i).chunks.length then i else (i + 1) % 2 ^ s.code,
      if c < (s.slotAt i).chunks.length then c + 1 else 1) := by
  unfold State.pointerAfter State.slotCount
  split <;> rfl

/-- R106: an engine with nothing to do puts the chunk taken in flight, from its first word. -/
theorem State.patrolTaken_startJob_idle {i c : Nat} (hq : s.verifyQueue = []) (hj : s.job = none) (hs : s.scan = none)
    (ha : s.aside = none) (hm : s.manifestJobs = []) :
    ∃ j, (s.patrolTaken i c).startJob.job = some j ∧ j.kind = .patrol ∧ j.slot = i ∧ j.chunk = c ∧ j.index = 0 := by
  have hqueue : (s.patrolTaken i c).verifyQueue = [{ kind := .patrol, slot := i, chunk := c }] :=
    congrArg (· ++ _) hq
  rw [State.startJob_of_queue (s := s.patrolTaken i c) hj hs ha hm hqueue, State.sweep_job]
  exact ⟨_, rfl, rfl, rfl, rfl, rfl⟩

/-- The taking of a chunk and the start of its job leave the timer, the log, the store and the flash. -/
theorem State.patrolTaken_startJob_frame (s : State) (i c : Nat) :
    let t := (s.patrolTaken i c).startJob
    t.nextTick = s.nextTick ∧ t.log = s.log ∧ t.store = s.store ∧ t.flash = s.flash := by
  rw [State.startJob_eq]
  exact ⟨rfl, rfl, rfl, rfl⟩

end

/-- Settles O51, by the outcomes of the tick: the walk finds nothing, the queue is full, the engine is busy, or it is idle. -/
theorem patrolTicks : Obligations.PatrolTicks := by
  intro elapsed s due hp hn hd ticked
  have hstep : exec (.patrolTick elapsed) s = .next ticked.patrolStep := exec_patrolTick_due hp hn hd
  rw [hstep]
  refine ⟨fun hnone => ?_, fun hfull => ?_, fun i c hfind hroom hbusy => ?_, fun i c hfind hq hj hs ha hm => ?_⟩
  · exact congrArg _ (State.patrolStep_of_none (s := ticked) hnone)
  · exact congrArg _ (State.patrolStep_of_full (s := ticked) hfull)
  · rw [State.patrolStep_of_room (s := ticked) hfind hroom, State.startJob_of_job (s := ticked.patrolTaken i c) hbusy,
      State.patrolTaken, State.pointerAfter_eq]
    rfl
  · have hroom : ticked.verifyQueue.length < 32 := by
      have hnil : ticked.verifyQueue = [] := hq
      rw [hnil]
      decide
    obtain ⟨j, hjob⟩ := State.patrolTaken_startJob_idle (s := ticked) (i := i) (c := c) hq hj hs ha hm
    obtain ⟨hjob, hkind, hslot, hchunk, hindex⟩ := hjob
    obtain ⟨htick, hlog, hstore, hflash⟩ := ticked.patrolTaken_startJob_frame i c
    exact ⟨_, j, congrArg _ (State.patrolStep_of_room (s := ticked) hfind hroom), hjob, hkind, hslot, hchunk, hindex,
      htick, hlog, hstore, hflash⟩

end Sys2Proof.Machine
end

section
/-! The release of HRST_N (8.5, 12.2): when the boot event is over, what the release leaves, and when the line counts as
seen high. -/

namespace Sys2Proof.Machine

open Sys2Proof

section
variable {s : State}

theorem State.begin_tick_of_running (hp : s.phase = .running) (elapsed : Nat) :
    s.begin.tick elapsed = { s with hostOut := [], memOut := [], clock := s.clock + elapsed } := by
  simp [State.tick, State.begin, hp]

theorem State.releaseReady_iff (hp : s.phase = .running) :
    s.releaseReady = true ↔
      s.hrstDriven = true ∧ (∃ b, s.boot = some b ∧ b.settled = true) ∧ s.store.owes .boot = false := by
  simp [State.releaseReady, hp, Option.any_eq_true, and_assoc]

theorem Store.startEnded_of_lists (st : Store) :
    st.startEnded = if st.queue = [] ∧ st.waiting = [] then { st with startHold := false } else st := by
  simp only [Store.startEnded, Store.offers, List.append_eq_nil_iff]

/-- R114, R138, R187: what the release leaves of the part, by the boot event that it ends. -/
theorem State.releaseHost_of_boot {b : BootEvent} (hb : s.boot = some b) :
    s.releaseHost = { s with
      hrstDriven := false, hrstSeenHigh := false, portOpen := true, boot := none
      store := if s.store.queue = [] ∧ s.store.waiting = [] then { s.store with startHold := false } else s.store
      nextTick :=
        if b.startup then
          if s.cfg.settings.patrolPeriod = 0 then none else some (s.clock + s.cfg.settings.patrolPeriod * 1000)
        else s.nextTick } := by
  simp only [State.releaseHost, Store.startEnded_of_lists, hb, Option.any_some]

/-- R138: the release takes effect exactly where the boot event is over. -/
theorem exec_hrstRelease (hp : s.phase = .running) (elapsed : Nat) :
    let u : State := { s with hostOut := [], memOut := [], clock := s.clock + elapsed }
    exec (.hrstRelease elapsed) s = .next (if s.releaseReady then u.releaseHost else u) := by
  show execHrstRelease elapsed s = _
  rw [execHrstRelease, State.begin_tick_of_running hp]
  rfl

/-- R133: the line is seen high only while the running part does not drive it. -/
theorem exec_hrstNSeenHigh (hp : s.phase = .running) :
    exec .hrstNSeenHigh s = .next (if s.hrstDriven then s.begin else { s.begin with hrstSeenHigh := true }) := by
  show execHrstNSeenHigh s = _
  rw [execHrstNSeenHigh, hp]
  cases s.hrstDriven <;> rfl

end

/-- Settles O55: the release by whether the boot event is over, the seen-high mark by whether the part drives the
line. -/
theorem hrstLines : Obligations.HrstLines := by
  intro elapsed s b hp
  refine ⟨fun hd hb hset howes => ?_, fun hb hopen => ?_, fun hd => ?_, fun hd => ?_⟩
  · have hready : s.releaseReady = true := (State.releaseReady_iff hp).2 ⟨hd, ⟨b, hb, hset⟩, howes⟩
    rw [exec_hrstRelease hp, if_pos hready]
    exact congrArg _ (State.releaseHost_of_boot
      (s := { s with hostOut := [], memOut := [], clock := s.clock + elapsed }) hb)
  · have hready : ¬ s.releaseReady = true := by
      rw [State.releaseReady_iff hp]
      rintro ⟨-, ⟨e, he, hset⟩, howes⟩
      obtain rfl : b = e := Option.some.inj (hb.symm.trans he)
      rcases hopen with h | h
      · rw [h] at hset
        cases hset
      · rw [h] at howes
        cases howes
    rw [exec_hrstRelease hp, if_neg hready]
  · rw [exec_hrstNSeenHigh hp, if_neg (Bool.eq_false_iff.1 hd)]
    rfl
  · rw [exec_hrstNSeenHigh hp, if_pos hd]
    rfl

end Sys2Proof.Machine
end

section
/-! The verdict of a PATROL job (7.1): what a match and a mismatch leave of a patrolled slot, and the settlement of
O52. -/

namespace Sys2Proof.Machine

open Sys2Proof

/-! ### A chunk's state under the operations on slots -/

/-- The state of chunk `c` of slot `i`, where there is one. -/
def State.chunkState (s : State) (i c : Nat) : Option ChunkState := (s.chunkAt i c).map Chunk.state

/-- The drop of a slot's jobs leaves every chunk in its state. -/
theorem SlotRec.chunkAt_state_of_dropped {r q : SlotRec} (h : q.chunks = r.chunks.map Chunk.dropped) (c : Nat) :
    (q.chunkAt c).map Chunk.state = (r.chunkAt c).map Chunk.state := by
  unfold SlotRec.chunkAt
  split
  · rfl
  · rw [h, List.getElem?_map, Option.map_map]
    rfl

section
variable (s : State) (i j c : Nat)

theorem State.markDecayed_chunkState : (s.markDecayed i).chunkState j c = s.chunkState j c := by
  rw [State.chunkState, State.chunkAt, State.markDecayed_slotAt]
  split
  · exact SlotRec.chunkAt_state_of_dropped rfl c
  · rfl

theorem State.failSlot_chunkState : (s.failSlot i).chunkState j c = s.chunkState j c := by
  rw [State.chunkState, State.chunkAt, State.failSlot_slotAt]
  split
  · exact SlotRec.chunkAt_state_of_dropped rfl c
  · rfl

theorem State.offerSlot_chunkState (o : Owner) : (s.offerSlot o i).chunkState j c = s.chunkState j c :=
  congrArg (Option.map Chunk.state) (s.offerSlot_chunkAt o i j c)

theorem State.trialEndedByCheck_chunkState (r : Reason) (k : Option Nat) :
    (s.trialEndedByCheck i r k).chunkState j c = s.chunkState j c :=
  (State.offerSlot_chunkState _ i j c .nobody).trans (s.failSlot_chunkState i j c)

theorem State.resettle_chunkState : s.resettle.chunkState j c = s.chunkState j c := s.resettle_chunkAt_state j c

end

/-! ### A chunk found not to match (R117) -/

section
variable {s : State} {i c p : Nat} {k : Chunk}

/-- A chunk that a check has found not to match. -/
def Chunk.mismatched (k : Chunk) : Chunk := { k with state := .mismatch, queued := false }

theorem State.chunkMismatched_slots (r : Reason) :
    (s.chunkMismatched r i c p).slots = (s.updChunk i c Chunk.mismatched).slots :=
  State.strike_slots ..

theorem State.chunkMismatched_length (r : Reason) : (s.chunkMismatched r i c p).slots.length = s.slots.length := by
  rw [State.chunkMismatched_slots]
  exact s.slots_length_updSlot ..

theorem State.chunkMismatched_slotAt (r : Reason) (hi : i < s.slots.length) :
    (s.chunkMismatched r i c p).slotAt i = (s.slotAt i).updChunk c Chunk.mismatched := by
  rw [State.slotAt, State.chunkMismatched_slots]
  exact (s.slotAt_updSlot i i _).trans (if_pos ⟨rfl, hi⟩)

theorem State.chunkMismatched_chunkState (hk : s.chunkAt i c = some k) (r : Reason) :
    (s.chunkMismatched r i c p).chunkState i c = some .mismatch :=
  State.chunkMismatched_chunkAt_state hk r

theorem State.chunkMismatched_dynAt (r : Reason) (t : Nat) : (s.chunkMismatched r i c p).dynAt t = s.dynAt t :=
  congrArg (List.getD · t TargetDyn.blank) (s.chunkMismatched_targets r i c p)

/-! ### The verdict by its cases (R116, R117) -/

/-- The states of a slot that is patrolled, without the reload and DECAYED marks. -/
theorem SlotRec.patrolled_of_state {r : SlotRec} (hr : r.reload = false) (hd : r.decayed = false)
    (h : r.state = .sealed ∨ r.state = .trial ∨ r.state = .active ∨ r.state = .fallback) : r.patrolled = true := by
  rcases h with h | h | h | h <;> simp [SlotRec.patrolled, hr, hd, h]

section
variable (hk : s.chunkAt i c = some k) (hp : (s.slotAt i).patrolled = true) (hv : k.state = .verified)
include hk hp hv

theorem State.patrolVerdict_of_match :
    s.patrolVerdict i c p true = (s.updChunk i c Chunk.dropped).setStrikes p 0 := by
  simp only [State.patrolVerdict, hk, hp, hv, and_self, if_true]
  rfl

theorem State.patrolVerdict_of_sealed (h : (s.slotAt i).state = .sealed) :
    s.patrolVerdict i c p false = ((s.chunkMismatched .patrol i c p).failSlot i).offerSlot .nobody i := by
  simp [State.patrolVerdict, hk, hp, hv, h]

theorem State.patrolVerdict_of_trial (h : (s.slotAt i).state = .trial) :
    s.patrolVerdict i c p false = (s.chunkMismatched .patrol i c p).trialEndedByCheck i .patrol (some c) := by
  simp [State.patrolVerdict, hk, hp, hv, h]

theorem State.patrolVerdict_of_active_fallback (h : (s.slotAt i).state = .active ∨ (s.slotAt i).state = .fallback) :
    s.patrolVerdict i c p false = (((s.chunkMismatched .patrol i c p).markDecayed i).appendLog
      (s.slotEntry .imageDecayed i (some .patrol) (some c))).offerSlot .nobody i := by
  rcases h with h | h <;> simp [State.patrolVerdict, hk, hp, hv, h]

end

end

/-! ### What a mismatch leaves (R117, R132) -/

section
variable {s : State} {i : Nat}

/-- R117: a slot that fails, with its SLOT record. -/
theorem State.failSlot_offerSlot_slotAt (o : Owner) (hi : i < s.slots.length) :
    ((s.failSlot i).offerSlot o i).slotAt i =
      { s.slotAt i with
        state := .failed, journaled := .failed, decayed := false
        chunks := (s.slotAt i).chunks.map Chunk.dropped } := by
  have hi1 : i < (s.failSlot i).slots.length := by rwa [State.failSlot_length]
  rw [State.offerSlot_slotAt o hi1, State.failSlot_slotAt, if_pos ⟨rfl, hi⟩]

/-- R117: a slot that takes the DECAYED mark, with its log entry and its SLOT record. -/
theorem State.markDecayed_offerSlot_slotAt (e : LogEntry) (o : Owner) (hi : i < s.slots.length) :
    (((s.markDecayed i).appendLog e).offerSlot o i).slotAt i =
      { s.slotAt i with
        journaled := (s.slotAt i).state, decayed := true, chunks := (s.slotAt i).chunks.map Chunk.dropped } := by
  have hi1 : i < (s.markDecayed i).slots.length := by
    rwa [State.markDecayed, State.slots_length_updSlot, State.dropSlotJobs, State.slots_length_updSlot]
  rw [State.appendLog_offerSlot_slotAt e o hi1, State.markDecayed_slotAt, if_pos ⟨rfl, hi⟩]

theorem State.markDecayed_offerSlot_chunkState (e : LogEntry) (o : Owner) (j c : Nat) :
    (((s.markDecayed i).appendLog e).offerSlot o i).chunkState j c = s.chunkState j c :=
  (State.offerSlot_chunkState _ i j c o).trans (s.markDecayed_chunkState i j c)

theorem State.failSlot_offerSlot_targets (s : State) (o : Owner) (i : Nat) :
    ((s.failSlot i).offerSlot o i).targets = s.targets :=
  ((s.failSlot i).offerSlot_journals o i).targets.trans (s.failSlot_targets i)

theorem State.markDecayed_targets (s : State) (i : Nat) : (s.markDecayed i).targets = s.targets := rfl

theorem State.markDecayed_offerSlot_targets (s : State) (e : LogEntry) (o : Owner) (i : Nat) :
    (((s.markDecayed i).appendLog e).offerSlot o i).targets = s.targets :=
  (((s.markDecayed i).appendLog e).offerSlot_journals o i).targets.trans (s.markDecayed_targets i)

/-- R132: a trial ended by a check logs one entry. -/
theorem State.trialEndedByCheck_nextLogSeq (x : Reason) (c : Option Nat) :
    (s.trialEndedByCheck i x c).nextLogSeq = s.nextLogSeq + 1 := by
  rw [State.trialEndedByCheck, State.offerTarget, State.offer_nextLogSeq, State.offerSlot, State.updSlot_nextLogSeq,
    State.offer_nextLogSeq, State.appendLog_nextLogSeq, State.updDyn_nextLogSeq, State.failSlot_nextLogSeq]

@[simp] theorem State.resettle_nextLogSeq (s : State) : s.resettle.nextLogSeq = s.nextLogSeq := by
  rw [State.resettle_eq]

end

section
variable {s : State} {i c p : Nat} {k : Chunk}
variable (hk : s.chunkAt i c = some k) (hp : (s.slotAt i).patrolled = true) (hv : k.state = .verified)
include hk hp hv

/-- R116: a match leaves the chunk VERIFIED, the slot in its state, and the sector read without strikes. -/
theorem State.patrolVerdict_match_effect (hf : tableWf (fun _ => 0) s.strikes = true) :
    let t := s.patrolVerdict i c p true
    t.chunkState i c = some .verified ∧ (t.slotAt i).state = (s.slotAt i).state ∧ t.strikesOf p = 0 ∧
      t.log = s.log ∧ t.store = s.store := by
  intro t
  have ht : t = (s.updChunk i c Chunk.dropped).setStrikes p 0 := State.patrolVerdict_of_match hk hp hv
  rw [ht]
  exact ⟨(State.updChunk_chunkAt_state hk Chunk.dropped).trans (congrArg some hv), s.slotAt_updChunk_state ..,
    State.strikesOf_setStrikes (s.updChunk i c _) hf p 0, rfl, rfl⟩

/-- R117: a mismatch in a SEALED slot makes it FAILED. -/
theorem State.patrolVerdict_sealed_effect (h : (s.slotAt i).state = .sealed) :
    let t := s.patrolVerdict i c p false
    t.chunkState i c = some .mismatch ∧ (t.slotAt i).state = .failed ∧ t.targets = s.targets := by
  intro t
  have hi : i < (s.chunkMismatched .patrol i c p).slots.length :=
    (State.chunkMismatched_length _).symm ▸ State.lt_length_of_chunkAt hk
  have ht : t = ((s.chunkMismatched .patrol i c p).failSlot i).offerSlot .nobody i :=
    State.patrolVerdict_of_sealed hk hp hv h
  rw [ht, State.offerSlot_chunkState, State.failSlot_chunkState, State.failSlot_offerSlot_slotAt _ hi]
  exact ⟨State.chunkMismatched_chunkState hk .patrol, rfl,
    (State.failSlot_offerSlot_targets _ .nobody i).trans (s.chunkMismatched_targets .patrol i c p)⟩

/-- R117, R132: a mismatch in a TRIAL slot makes it FAILED and ends its target's trial. -/
theorem State.patrolVerdict_trial_effect {m : Summary} (h : (s.slotAt i).state = .trial)
    (hm : (s.slotAt i).summary = some m) (hlt : m.target < s.targets.length) :
    let t := s.patrolVerdict i c p false
    t.chunkState i c = some .mismatch ∧ (t.slotAt i).state = .failed ∧
      t.dynAt m.target = (s.dynAt m.target).endTrial ∧
      t.log.getLast? = some { LogEntry.of .trialFailed with
        seq := t.nextLogSeq - 1, reason := some .patrol, slot := some i, target := some m.target, chunk := some c,
        value := some m.version } := by
  intro t
  have ht : t = (s.chunkMismatched .patrol i c p).trialEndedByCheck i .patrol (some c) :=
    State.patrolVerdict_of_trial hk hp hv h
  have hi : i < s.slots.length := State.lt_length_of_chunkAt hk
  have hi1 : i < (s.chunkMismatched .patrol i c p).slots.length := by rwa [State.chunkMismatched_length]
  have hm1 : ((s.chunkMismatched .patrol i c p).slotAt i).summary = some m := by
    rw [State.chunkMismatched_slotAt _ hi, SlotRec.updChunk_summary, hm]
  have hlt1 : m.target < (s.chunkMismatched .patrol i c p).targets.length := by rwa [State.chunkMismatched_targets]
  have hseq (n : Word) : n + 1 - 1 = n := by bv_omega
  rw [ht, State.trialEndedByCheck_chunkState, State.trialEndedByCheck_slotAt _ _ hi1,
    State.trialEndedByCheck_dynAt _ _ hm1 hlt1, State.trialEndedByCheck_getLast, State.slotEntry_of_summary _ _ _ hm1,
    State.chunkMismatched_dynAt, State.trialEndedByCheck_nextLogSeq, hseq]
  exact ⟨State.chunkMismatched_chunkState hk .patrol, rfl, rfl, rfl⟩

/-- R117: a mismatch in an ACTIVE or FALLBACK slot gives it the DECAYED mark in its state. -/
theorem State.patrolVerdict_active_fallback_effect
    (h : (s.slotAt i).state = .active ∨ (s.slotAt i).state = .fallback) :
    let t := s.patrolVerdict i c p false
    t.chunkState i c = some .mismatch ∧ (t.slotAt i).state = (s.slotAt i).state ∧ (t.slotAt i).decayed = true ∧
      t.targets = s.targets := by
  intro t
  have ht := State.patrolVerdict_of_active_fallback (p := p) hk hp hv h
  have hi : i < s.slots.length := State.lt_length_of_chunkAt hk
  have hi1 : i < (s.chunkMismatched .patrol i c p).slots.length := by rwa [State.chunkMismatched_length]
  rw [show t = _ from ht, State.markDecayed_offerSlot_chunkState, State.markDecayed_offerSlot_slotAt _ _ hi1,
    State.chunkMismatched_slotAt _ hi]
  exact ⟨State.chunkMismatched_chunkState hk .patrol, SlotRec.updChunk_state .., rfl,
    (State.markDecayed_offerSlot_targets _ _ .nobody i).trans (s.chunkMismatched_targets .patrol i c p)⟩

end

theorem exec_patrolVerdict {s : State} {j : Job} (h : s.verdictJob .patrol = some j) :
    exec (.patrolVerdict []) s =
      .next ((s.jobEnded j).patrolVerdict j.slot j.chunk (s.physical j.sector) (s.foldMatches j)).resettle := by
  have hb : (s.begin.drift []).verdictJob .patrol = some j := h
  show execPatrolVerdict [] s = _
  simp only [execPatrolVerdict, hb]
  rw [← State.begin_endJob]
  rfl

/-- Settles O52, by the verdict and the state of the slot; what follows the verdict leaves a slot that is not FILLING as
it is, and every chunk in its state. -/
theorem patrolDecided : Obligations.PatrolDecided := by
  intro s j k hv hk hwf hreload hdecayed hver good before chunkAfter
  obtain ⟨-, -, -, hstrikes⟩ := hwf
  have hpat (h : before = .sealed ∨ before = .trial ∨ before = .active ∨ before = .fallback) :
      ((s.jobEnded j).slotAt j.slot).patrolled = true := SlotRec.patrolled_of_state hreload hdecayed h
  have hku : (s.jobEnded j).chunkAt j.slot j.chunk = some k := hk
  have hbooks := (s.jobEnded j).patrolVerdict_books (i := j.slot) (c := j.chunk) (p := s.physical j.sector) (m := good)
  have hstep : exec (.patrolVerdict []) s = .next (State.patrolVerdict _ _ _ good _).resettle := exec_patrolVerdict hv
  have hflash := (State.resettle_flash _).trans hbooks.flash
  have hmarks := State.resettle_marksOnly ((s.jobEnded j).patrolVerdict j.slot j.chunk (s.physical j.sector) good)
  refine ⟨fun hg hst => ?_, fun hg hst => ?_, fun m hg hst hm ht => ?_, fun hg hst => ?_⟩ <;>
    rw [hg] at hstep hflash hmarks
  · obtain ⟨hchunk, hstate, hstrike, hlog, hstore⟩ :=
      State.patrolVerdict_match_effect (p := s.physical j.sector) hku (hpat hst) hver hstrikes
    refine ⟨_, hstep, (State.resettle_chunkState ..).trans hchunk, (hmarks.state_eq _).trans hstate, ?_,
      (State.resettle_log _).trans hlog, (State.resettle_store _).trans hstore, hflash⟩
    rw [State.strikesOf, State.resettle_strikes]
    exact hstrike
  · obtain ⟨hchunk, hstate, htargets⟩ :=
      State.patrolVerdict_sealed_effect (p := s.physical j.sector) hku (hpat (.inl hst)) hver hst
    exact ⟨_, hstep, (State.resettle_chunkState ..).trans hchunk, (hmarks.state_eq _).trans hstate, hflash,
      (State.resettle_targets _).trans htargets⟩
  · obtain ⟨hchunk, hstate, hdyn, hlog⟩ :=
      State.patrolVerdict_trial_effect (p := s.physical j.sector) hku (hpat (.inr (.inl hst))) hver hst hm ht
    refine ⟨_, hstep, (State.resettle_chunkState ..).trans hchunk, (hmarks.state_eq _).trans hstate, hflash, ?_, ?_⟩
    · rw [State.dynAt, State.resettle_targets]
      exact hdyn
    · rw [State.resettle_log, State.resettle_nextLogSeq]
      exact hlog
  · obtain ⟨hchunk, hstate, hdec, htargets⟩ :=
      State.patrolVerdict_active_fallback_effect (p := s.physical j.sector) hku (hpat (.inr (.inr hst))) hver hst
    have hne : before ≠ .filling := by rcases hst with h | h <;> rw [h] <;> exact nofun
    refine ⟨_, hstep, (State.resettle_chunkState ..).trans hchunk, (hmarks.state_eq _).trans hstate, ?_, hflash,
      (State.resettle_targets _).trans htargets⟩
    rw [hmarks.slotAt_eq j.slot (hstate.trans_ne hne)]
    exact hdec

end Sys2Proof.Machine
end

section
/-! The boot scan (7.2, 8.5): how its verdicts move the cursor, what the end of a scan makes of the boot event, and the
settlement of O53. -/

namespace Sys2Proof.Machine

open Sys2Proof

/-! ### A boot event settled (R138) -/

/-- From `s` to `t` records are offered; the scan cursor and the boot event stay. -/
structure State.OffersOnly (s t : State) : Prop where
  journals : s.Journals t
  scan : t.scan = s.scan
  boot : t.boot = s.boot

theorem State.OffersOnly.refl (s : State) : s.OffersOnly s := ⟨.refl s, rfl, rfl⟩

theorem State.OffersOnly.trans {s t u : State} (h : s.OffersOnly t) (g : t.OffersOnly u) : s.OffersOnly u :=
  ⟨h.journals.trans g.journals, g.scan.trans h.scan, g.boot.trans h.boot⟩

theorem State.Journals.decayed {s t : State} (h : s.Journals t) (i : Nat) :
    (t.slotAt i).decayed = (s.slotAt i).decayed := by
  rcases h.slot i with e | e <;> rw [e]
  rfl

section
variable (s : State)

theorem State.offerSlot_offersOnly (o : Owner) (i : Nat) : s.OffersOnly (s.offerSlot o i) :=
  ⟨s.offerSlot_journals o i, rfl, rfl⟩

theorem State.offerTarget_offersOnly (o : Owner) (t : Nat) : s.OffersOnly (s.offerTarget o t) :=
  ⟨s.offer_journals o _, rfl, rfl⟩

theorem State.foldl_offerSlot_offersOnly (o : Owner) (l : List Nat) :
    s.OffersOnly (l.foldl (fun s i => s.offerSlot o i) s) :=
  List.foldlRecOn l _ (.refl s) fun u hu i _ => hu.trans (u.offerSlot_offersOnly o i)

/-- R138: the booted slot is set, records are offered, and the event is settled. -/
theorem State.settleBoot_offers {s : State} (hb : s.boot.isSome = true) (t : Nat) (chosen : Option Nat) :
    ∃ v, (s.updDyn t fun d => { d with booted := chosen }).OffersOnly v ∧
      s.settleBoot t chosen = v.updBoot fun b => { b with settled := true } := by
  unfold State.settleBoot
  extract_lets s1
  split
  · next hn =>
    have hn : s.boot = none := hn
    rw [hn] at hb
    cases hb
  · next b _ =>
    extract_lets s2 s3
    have h2 : s1.OffersOnly s2 := by
      unfold s2
      split
      · exact .refl s1
      · exact s1.offerSlot_offersOnly _ _
    have h3 : s2.OffersOnly s3 := by
      unfold s3
      split
      · exact .refl s2
      · exact s2.offerTarget_offersOnly _ _
    exact ⟨_, (h2.trans h3).trans (s3.foldl_offerSlot_offersOnly .boot b.decayed), rfl⟩

/-- R138: a boot event that has chosen its slot, over a part that stays as it was but for the records offered. -/
theorem State.settleBoot_effect {s : State} (hb : s.boot.isSome = true) {t : Nat} (ht : t < s.targets.length)
    (chosen : Option Nat) :
    let v := s.settleBoot t chosen
    (∃ e, v.boot = some e ∧ e.settled = true) ∧ v.scan = s.scan ∧ v.log = s.log ∧
      v.dynAt t = { s.dynAt t with booted := chosen } ∧
      (∀ i, (v.slotAt i).state = (s.slotAt i).state ∧ (v.slotAt i).decayed = (s.slotAt i).decayed) := by
  obtain ⟨v, hv, heq⟩ := State.settleBoot_offers hb t chosen
  obtain ⟨b, hb⟩ := Option.isSome_iff_exists.1 hb
  have hboot : v.boot = some b := hv.boot.trans hb
  have hdyn : v.dynAt t = { s.dynAt t with booted := chosen } :=
    (hv.journals.dynAt t).trans ((s.dynAt_updDyn ..).trans (if_pos ⟨rfl, ht⟩))
  rw [heq]
  exact ⟨⟨{ b with settled := true }, by rw [State.updBoot, hboot]; rfl, rfl⟩, hv.scan, hv.journals.log, hdyn,
    fun i => ⟨hv.journals.state i, hv.journals.decayed i⟩⟩

end

/-! ### The end of a scan (R121, R135 to R137) -/

/-- The part with the scan's job and cursor gone (R121). -/
def State.scanCleared (s : State) : State := { s with scan := none, job := none }

section
variable {s : State} {b : BootEvent} {c : Scan} {u : Nat}

/-- What the boot event's operations keep, the failure of a trial included, holds at the end of a scan. -/
theorem BootClosed.scanEnds {P : State → Prop} (hP : BootClosed P) (hs : P s.scanCleared)
    (hf : ∀ (v : State) (t i : Nat) (r : Option Reason) (k : Option Nat), P v → P (v.bootTrialFails t i r k))
    (pass : Bool) (r : Option Reason) (k : Option Nat) : P (s.scanEnds c pass r k) := by
  unfold State.scanEnds
  extract_lets s1
  split
  · exact hs
  · split
    · exact hP.trialScanned hs (fun r k => hf _ _ _ r k hs) ..
    · exact hP.activeScanned hs ..
    · exact hP.fallbackScanned hs ..

/-- R120: no part of a boot event changes a chunk's state. -/
theorem bootClosed_chunkState (i k : Nat) (x : Option ChunkState) : BootClosed fun s => s.chunkState i k = x where
  boot _ _ := id
  dyn _ _ _ _ := id
  log _ _ := id
  offer _ _ _ := id
  offerSlot s o j := (s.offerSlot_chunkState j i k o).trans
  decayed s j := (s.markDecayed_chunkState j i k).trans
  scan _ _ _ := id

theorem State.bootTrialFails_chunkState (s : State) (t j : Nat) (r : Option Reason) (n : Option Nat) (i k : Nat) :
    (s.bootTrialFails t j r n).chunkState i k = s.chunkState i k := by
  rw [State.chunkState, State.chunkAt, State.bootTrialFails_slotAt]
  split
  · exact SlotRec.chunkAt_state_of_dropped rfl k
  · rfl

theorem State.scanEnds_chunkState (pass : Bool) (r : Option Reason) (n : Option Nat) (i k : Nat) :
    (s.scanEnds c pass r n).chunkState i k = s.chunkState i k :=
  (bootClosed_chunkState i k (s.chunkState i k)).scanEnds rfl
    (fun v t j r n hv => (v.bootTrialFails_chunkState t j r n i k).trans hv) pass r n

theorem State.scanEnds_of_target (hb : s.boot = some b) (hu : b.target = some u) (pass : Bool) (r : Option Reason)
    (k : Option Nat) : s.scanEnds c pass r k = match c.role with
      | .trial => s.scanCleared.trialScanned u c.slot pass r k
      | .active => s.scanCleared.activeScanned u c.slot pass r k
      | .fallback => s.scanCleared.fallbackScanned u c.slot pass r k := by
  have htarget : s.boot.bind BootEvent.target = some u := by rw [hb]; exact hu
  unfold State.scanEnds
  rw [htarget]
  rfl

/-- R135 to R137: a scan that passes gives the boot event its slot; a trial logs TRIAL_BOOTED, a fallback
RECOVERY_BOOT. -/
theorem State.scanEnds_passed_effect (hb : s.boot = some b) (hu : b.target = some u) (hlt : u < s.targets.length) :
    let t := s.scanEnds c true none none
    (∃ e, t.boot = some e ∧ e.settled = true) ∧ t.scan = none ∧ (t.dynAt u).booted = some c.slot ∧
      (∀ i, (t.slotAt i).state = (s.slotAt i).state) ∧
      (c.role = .trial → t.log.getLast? = some
        { s.slotEntry .trialBooted c.slot none none with
          seq := s.nextLogSeq, value := some (s.dynAt u).bootsLeft }) ∧
      (c.role = .active → t.log = s.log) ∧
      (c.role = .fallback → (t.dynAt u).recovery = true ∧
        t.log.getLast? = some { s.slotEntry .recoveryBoot c.slot none none with seq := s.nextLogSeq }) := by
  intro t
  have ht : t = _ := State.scanEnds_of_target hb hu true none none
  have hboot : s.scanCleared.boot.isSome = true := Option.isSome_of_eq_some hb
  cases hr : c.role with
  | trial =>
    obtain ⟨he, hscan, hlog, hdyn, hslot⟩ := State.settleBoot_effect
      (s := s.scanCleared.appendLog
        { s.slotEntry .trialBooted c.slot none none with value := some (s.dynAt u).bootsLeft })
      hboot hlt (some c.slot)
    rw [hr] at ht
    rw [show t = _ from ht]
    refine ⟨he, hscan, congrArg TargetDyn.booted hdyn, fun i => (hslot i).1, fun _ => ?_, nofun, nofun⟩
    exact (congrArg List.getLast? hlog).trans (State.appendLog_getLast ..)
  | active =>
    obtain ⟨he, hscan, hlog, hdyn, hslot⟩ := State.settleBoot_effect (s := s.scanCleared) hboot hlt (some c.slot)
    rw [hr] at ht
    rw [show t = _ from ht]
    exact ⟨he, hscan, congrArg TargetDyn.booted hdyn, fun i => (hslot i).1, nofun, fun _ => hlog, nofun⟩
  | fallback =>
    have hlt1 : u < (s.scanCleared.updDyn u fun d => { d with recovery := true }).targets.length :=
      (List.length_modify ..).symm ▸ hlt
    obtain ⟨he, hscan, hlog, hdyn, hslot⟩ := State.settleBoot_effect
      (s := (s.scanCleared.updDyn u fun d => { d with recovery := true }).appendLog
        (s.slotEntry .recoveryBoot c.slot none none)) hboot hlt1 (some c.slot)
    have hrec : ((s.scanCleared.updDyn u fun d => { d with recovery := true }).dynAt u).recovery = true := by
      rw [State.dynAt_updDyn, if_pos ⟨rfl, hlt⟩]
    rw [hr] at ht
    rw [show t = _ from ht]
    refine ⟨he, hscan, congrArg TargetDyn.booted hdyn, fun i => (hslot i).1, nofun, nofun, fun _ => ⟨?_, ?_⟩⟩
    · exact (congrArg TargetDyn.recovery hdyn).trans hrec
    · exact (congrArg List.getLast? hlog).trans (State.appendLog_getLast ..)

end

section
variable (s : State) (i : Nat) (r : Option Reason) (k : Option Nat)

/-- R136: the slot of a failed scan carries the DECAYED mark. -/
theorem State.bootDecays_decayed (hi : i < s.slots.length) : ((s.bootDecays i r k).slotAt i).decayed = true := by
  unfold State.bootDecays
  split
  · assumption
  · have hmark : ((s.markDecayed i).slotAt i).decayed = true := by rw [State.markDecayed_slotAt, if_pos ⟨rfl, hi⟩]
    exact hmark

theorem State.bootDecays_targets : (s.bootDecays i r k).targets = s.targets := by
  unfold State.bootDecays
  split
  · rfl
  · exact s.markDecayed_targets i

theorem State.markDecayed_scan (s : State) (i : Nat) : (s.markDecayed i).scan = s.scan := rfl

theorem State.bootDecays_scan : (s.bootDecays i r k).scan = s.scan := by
  unfold State.bootDecays
  split
  · rfl
  · exact s.markDecayed_scan i

end

section
variable {s : State} {b : BootEvent} {c : Scan} {u : Nat}

/-- R136, R137: a failed scan of the active slot marks it DECAYED, and with no fallback it is booted all the same. -/
theorem State.scanEnds_active_failed_effect (hb : s.boot = some b) (hu : b.target = some u)
    (hlt : u < s.targets.length) (hi : c.slot < s.slots.length) (hr : c.role = .active)
    (ha : (s.dynAt u).active = some c.slot) (hf : (s.dynAt u).fallback = none) (r : Option Reason) (k : Option Nat) :
    let t := s.scanEnds c false r k
    (∃ e, t.boot = some e ∧ e.settled = true) ∧ t.scan = none ∧ (t.dynAt u).booted = some c.slot ∧
      (t.slotAt c.slot).state = (s.slotAt c.slot).state ∧ (t.slotAt c.slot).decayed = true := by
  intro t
  set v := s.scanCleared.bootDecays c.slot r k
  have hvt : v.targets = s.targets := State.bootDecays_targets ..
  have hdyn : v.dynAt u = s.dynAt u := congrArg (List.getD · u TargetDyn.blank) hvt
  have hask : v.askFallback u = v.settleBoot u (some c.slot) := by
    rw [State.askFallback, hdyn, hf, ha]
  have ht : t = v.settleBoot u (some c.slot) := by
    refine (State.scanEnds_of_target hb hu false r k).trans ?_
    rw [hr, ← hask]
    rfl
  have hboot : v.boot.isSome = true := (s.scanCleared.bootDecays_books).boot (Option.isSome_of_eq_some hb)
  obtain ⟨he, hscan, -, hdyn', hslot⟩ := State.settleBoot_effect hboot (hvt.symm ▸ hlt) (some c.slot)
  obtain ⟨hstate, hdec⟩ := hslot c.slot
  rw [ht]
  exact ⟨he, hscan.trans (State.bootDecays_scan ..), congrArg TargetDyn.booted hdyn',
    hstate.trans ((s.scanCleared.bootDecays_trialsStay c.slot r k).state c.slot),
    hdec.trans (s.scanCleared.bootDecays_decayed c.slot r k hi)⟩

end

/-! ### The verdict on the cursor's chunk (R120) -/

section
variable {s : State} {c : Scan} {p : Nat} {k : Chunk} {m : Summary}

/-- R120: the cursor's chunk has matched, and its job is over. -/
def State.scanMatched (c : Scan) (p : Nat) (s : State) : State :=
  ({ s with job := none }.updChunk c.slot c.chunk fun k => { k with state := .verified }).setStrikes p 0

/-- R120: the cursor's chunk has not matched, and its job is over. -/
def State.scanMismatched (c : Scan) (p : Nat) (s : State) : State :=
  ({ s with job := none }.dropChunkJob c.slot c.chunk).chunkMismatched .scan c.slot c.chunk p

theorem State.scanChunkVerdict_of_next (hm : (s.slotAt c.slot).summary = some m) (h : c.chunk < m.chunks) :
    s.scanChunkVerdict c p true = { s.scanMatched c p with scan := some { c with chunk := c.chunk + 1 } } := by
  have hn : ¬ ((s.slotAt c.slot).summary.map Summary.chunks).getD 0 ≤ c.chunk := by
    rw [hm]
    exact Nat.not_le.2 h
  rw [State.scanChunkVerdict, if_pos rfl]
  exact if_neg hn

theorem State.scanChunkVerdict_of_last (hm : (s.slotAt c.slot).summary = some m) (h : m.chunks ≤ c.chunk) :
    s.scanChunkVerdict c p true = (s.scanMatched c p).scanEnds c true none none := by
  have hl : ((s.slotAt c.slot).summary.map Summary.chunks).getD 0 ≤ c.chunk := by
    rw [hm]
    exact h
  rw [State.scanChunkVerdict, if_pos rfl]
  exact if_pos hl

theorem State.scanChunkVerdict_of_mismatch :
    s.scanChunkVerdict c p false = (s.scanMismatched c p).scanEnds c false (some .scan) (some c.chunk) := rfl

theorem State.scanMatched_chunkState (hk : s.chunkAt c.slot c.chunk = some k) :
    (s.scanMatched c p).chunkState c.slot c.chunk = some .verified :=
  State.updChunk_chunkAt_state (s := { s with job := none }) hk _

theorem State.scanMatched_strikesOf (h : tableWf (fun _ => 0) s.strikes = true) :
    (s.scanMatched c p).strikesOf p = 0 :=
  State.strikesOf_setStrikes (({ s with job := none } : State).updChunk c.slot c.chunk _) h p 0

theorem State.scanMatched_slotAt_state (i : Nat) : ((s.scanMatched c p).slotAt i).state = (s.slotAt i).state :=
  State.slotAt_updChunk_state { s with job := none } ..

theorem State.scanMatched_summary (hk : s.chunkAt c.slot c.chunk = some k) :
    ((s.scanMatched c p).slotAt c.slot).summary = (s.slotAt c.slot).summary := by
  have hslot : (s.scanMatched c p).slotAt c.slot = (s.slotAt c.slot).updChunk c.chunk _ :=
    (State.slotAt_updSlot { s with job := none } ..).trans (if_pos ⟨rfl, State.lt_length_of_chunkAt hk⟩)
  rw [hslot, SlotRec.updChunk_summary]

theorem State.strike_boot (s : State) (p l : Nat) : (s.strike p l).boot = s.boot := by
  unfold State.strike
  split
  · rfl
  · split
    · rw [State.markSuspect_eq]
    · rfl

theorem State.scanMismatched_boot : (s.scanMismatched c p).boot = s.boot := by
  rw [State.scanMismatched, State.chunkMismatched, State.strike_boot, State.appendLog_boot, State.updChunk,
    State.updSlot_boot, State.dropChunkJob, State.updChunk, State.updSlot_boot, State.dropEntries]

theorem State.scanMismatched_targets : (s.scanMismatched c p).targets = s.targets := State.chunkMismatched_targets ..

theorem State.scanMismatched_length : (s.scanMismatched c p).slots.length = s.slots.length :=
  (State.chunkMismatched_length _).trans (State.slots_length_updSlot ..)

theorem State.scanMismatched_slotAt_state (i : Nat) :
    ((s.scanMismatched c p).slotAt i).state = (s.slotAt i).state := by
  rw [State.scanMismatched, State.slotAt, State.chunkMismatched_slots]
  exact (State.slotAt_updChunk_state ({ s with job := none }.dropChunkJob c.slot c.chunk) ..).trans
    (State.slotAt_updChunk_state ..)

theorem State.scanMismatched_chunkState (hk : s.chunkAt c.slot c.chunk = some k) :
    (s.scanMismatched c p).chunkState c.slot c.chunk = some .mismatch := by
  have hdrop : ({ s with job := none }.dropChunkJob c.slot c.chunk).chunkAt c.slot c.chunk =
      some { k with queued := false } := by
    rw [State.dropChunkJob, State.chunkAt_updChunk, if_pos ⟨rfl, rfl⟩]
    exact congrArg (Option.map fun x : Chunk => { x with queued := false }) hk
  exact State.chunkMismatched_chunkState hdrop .scan

end

/-! ### The verdict on the manifest (R119) -/

section
variable {s : State} {c : Scan} {w : List Word} {tag : Bool}

/-- The part whose candidate's manifest has passed: a reload still outstanding is settled by it (R83). -/
def State.scanManifestPassed (c : Scan) (s : State) : State :=
  if (s.slotAt c.slot).reload then { s with job := none }.reloadPassedSlot c.slot else { s with job := none }

theorem State.scanManifestVerdict_of_walk (hf : s.reloadFailure c.slot w tag = none)
    (hw : c.full = true ∨ scanWish w = true) :
    s.scanManifestVerdict c w tag =
      { s.scanManifestPassed c with scan := some { c with chunk := 1, full := true } } := by
  have hwalk : (c.full || scanWish w) = true := (Bool.or_eq_true ..).mpr hw
  rw [State.scanManifestVerdict, hf]
  exact if_pos hwalk

theorem State.scanManifestPassed_frame (i : Nat) :
    let t := s.scanManifestPassed c
    (t.slotAt i).state = (s.slotAt i).state ∧ t.log = s.log ∧ t.store = s.store := by
  unfold State.scanManifestPassed
  split
  · exact ⟨(State.updSlot_trialsStay _ c.slot (f := SlotRec.reloadPassed) fun _ => rfl).state i, rfl, rfl⟩
  · exact ⟨rfl, rfl, rfl⟩

end

/-! ### The sweep and the engine behind a scan's verdict -/

section
variable (s : State)

@[simp] theorem State.resettle_scan : s.resettle.scan = s.scan := by rw [State.resettle_eq]
@[simp] theorem State.resettle_boot : s.resettle.boot = s.boot := by rw [State.resettle_eq]

theorem State.resettle_dynAt (u : Nat) : s.resettle.dynAt u = s.dynAt u :=
  congrArg (List.getD · u TargetDyn.blank) s.resettle_targets

theorem State.resettle_decayed (i : Nat) : (s.resettle.slotAt i).decayed = (s.slotAt i).decayed := by
  refine State.resettle_induction (P := fun l => (l.getD i SlotRec.blank).decayed = (s.slotAt i).decayed) rfl
    fun v p _ _ u hu => ?_
  have hjoin := u.slotAt_updSlot p.1 i (SlotRec.updChunk p.2 fun c => { c with queued := true })
  refine (congrArg SlotRec.decayed hjoin).trans (Eq.trans ?_ hu)
  split
  · exact SlotRec.updChunk_decayed ..
  · rfl

end

section
variable {s : State} {j : Job} {c : Scan}

theorem exec_bootScanManifestVerdict (hv : s.verdictJob .scanManifest = some j) (hc : s.scan = some c) :
    exec (.bootScanManifestVerdict []) s =
      .next ((s.jobEnded j).scanManifestVerdict c (s.manifestWords j) (s.foldMatches j)).resettle := by
  have hb : (s.begin.drift []).verdictJob .scanManifest = some j := hv
  have hs : (s.begin.drift []).scan = some c := hc
  show execBootScanManifestVerdict [] s = _
  simp only [execBootScanManifestVerdict, hb, hs]
  rw [← State.begin_endJob]
  rfl

theorem exec_bootScanChunkVerdict (hv : s.verdictJob .scanChunk = some j) (hc : s.scan = some c) :
    exec (.bootScanChunkVerdict []) s =
      .next ((s.jobEnded j).scanChunkVerdict c (s.physical j.sector) (s.foldMatches j)).resettle := by
  have hb : (s.begin.drift []).verdictJob .scanChunk = some j := hv
  have hs : (s.begin.drift []).scan = some c := hc
  show execBootScanChunkVerdict [] s = _
  simp only [execBootScanChunkVerdict, hb, hs]
  rw [← State.begin_endJob]
  rfl

/-- What a scan's verdicts, the sweep and the engine leave of the flash and the lines. -/
theorem State.scanChunkVerdict_resettle_frame (s : State) (c : Scan) (p : Nat) (g : Bool) :
    (s.scanChunkVerdict c p g).resettle.flash = s.flash ∧
      (s.scanChunkVerdict c p g).resettle.hrstDriven = s.hrstDriven :=
  have h := s.scanChunkVerdict_books (c := c) (p := p) (m := g) |>.trans (State.resettle_books _)
  ⟨h.flash, h.hrstDriven⟩

theorem State.scanManifestVerdict_resettle_frame (s : State) (c : Scan) (w : List Word) (tag : Bool) :
    (s.scanManifestVerdict c w tag).resettle.flash = s.flash ∧
      (s.scanManifestVerdict c w tag).resettle.hrstDriven = s.hrstDriven :=
  have h := s.scanManifestVerdict_books (c := c) (w := w) (tag := tag) |>.trans (State.resettle_books _)
  ⟨h.flash, h.hrstDriven⟩

end

/-- Settles O53, by the phase of the scan and the verdict; the sweep and the engine that follow keep the cursor, the
boot event and the states of slots and chunks. -/
theorem scanWalks : Obligations.ScanWalks := by
  intro s j c hc hwf
  obtain ⟨-, -, -, hstrikes⟩ := hwf
  set u := s.jobEnded j
  set p := s.physical j.sector
  refine ⟨fun hv hfail hwalk => ?_, fun k m hv hk hm hg hlt => ?_, fun k hv hk hg => ?_,
    fun b t k m hv hb ht hlt hk hm => ⟨fun hg hle => ?_, fun hg hr ha hf => ?_⟩⟩
  · have hstep := exec_bootScanManifestVerdict hv hc
    obtain ⟨hflash, hline⟩ := u.scanManifestVerdict_resettle_frame c (s.manifestWords j) (s.foldMatches j)
    have hwish : c.full = true ∨ scanWish (s.manifestWords j) = true := hwalk.imp_right (beq_iff_eq.2 ·)
    rw [State.scanManifestVerdict_of_walk (s := u) hfail hwish] at hstep hflash hline
    obtain ⟨hstate, hlog, hstore⟩ := u.scanManifestPassed_frame (c := c) c.slot
    exact ⟨_, hstep, State.resettle_scan _, ((State.resettle_marksOnly _).state_eq c.slot).trans hstate,
      (State.resettle_log _).trans hlog, (State.resettle_store _).trans hstore, hflash, hline⟩
  all_goals
    have hstep := exec_bootScanChunkVerdict hv hc
    have hku : u.chunkAt c.slot c.chunk = some k := hk
    obtain ⟨hflash, hline⟩ := u.scanChunkVerdict_resettle_frame c p (s.foldMatches j)
    rw [hg] at hstep hflash hline
  · rw [State.scanChunkVerdict_of_next (s := u) hm hlt] at hstep hflash hline
    refine ⟨_, hstep, State.resettle_scan _, ?_, ?_, State.resettle_log _, State.resettle_store _, hflash, hline⟩
    · exact (State.resettle_chunkState ..).trans (State.scanMatched_chunkState (p := p) hku)
    · rw [State.strikesOf, State.resettle_strikes]
      exact State.scanMatched_strikesOf (s := u) (c := c) hstrikes
  · refine ⟨_, hstep, (State.resettle_chunkState ..).trans ?_, hflash, hline⟩
    rw [State.scanChunkVerdict_of_mismatch, State.scanEnds_chunkState]
    exact State.scanMismatched_chunkState hku
  · rw [State.scanChunkVerdict_of_last (s := u) hm hle] at hstep
    obtain ⟨⟨e, he, hset⟩, hscan, hbooted, hstate, htrial, hactive, hfallback⟩ :=
      State.scanEnds_passed_effect (s := u.scanMatched c p) (c := c) hb ht hlt
    have hsummary : ((u.scanMatched c p).slotAt c.slot).summary = some m := (State.scanMatched_summary hku).trans hm
    rw [State.slotEntry_of_summary _ _ _ hsummary] at htrial hfallback
    refine ⟨_, e, hstep, (State.resettle_scan _).trans hscan, (State.resettle_boot _).trans he, hset, ?_, ?_, ?_,
      ?_, ?_⟩
    · rw [State.resettle_dynAt]
      exact hbooted
    · exact ((State.resettle_marksOnly _).state_eq c.slot).trans
        ((hstate c.slot).trans (State.scanMatched_slotAt_state c.slot))
    · rw [State.resettle_log]
      exact htrial
    · rw [State.resettle_log]
      exact hactive
    · rw [State.resettle_dynAt, State.resettle_log]
      exact hfallback
  · rw [State.scanChunkVerdict_of_mismatch] at hstep
    have hi : c.slot < (u.scanMismatched c p).slots.length :=
      State.scanMismatched_length.symm ▸ State.lt_length_of_chunkAt hku
    have hdyn : (u.scanMismatched c p).dynAt t = s.dynAt t :=
      congrArg (List.getD · t TargetDyn.blank) (State.scanMismatched_targets (s := u))
    obtain ⟨⟨e, he, hset⟩, hscan, hbooted, hstate, hdecayed⟩ := State.scanEnds_active_failed_effect
      (s := u.scanMismatched c p) ((State.scanMismatched_boot (s := u)).trans hb) ht
      ((State.scanMismatched_targets (s := u)).symm ▸ hlt) hi hr (hdyn ▸ ha) (hdyn ▸ hf) (some .scan) (some c.chunk)
    refine ⟨_, e, hstep, (State.resettle_scan _).trans hscan, (State.resettle_boot _).trans he, hset, ?_, ?_, ?_⟩
    · rw [State.resettle_dynAt]
      exact hbooted
    · exact ((State.resettle_marksOnly _).state_eq c.slot).trans
        (hstate.trans (State.scanMismatched_slotAt_state c.slot))
    · rw [State.resettle_decayed]
      exact hdecayed

end Sys2Proof.Machine
end

section
/-! Requests on roles (8.3): ACTIVATE and ABANDON, each of which moves one slot and its target together. -/

namespace Sys2Proof.Machine

open Sys2Proof

/-! ### The slot a request names (R125) -/

section
variable {s : State} {slot : Word}

theorem State.namesSlot_of_lt (h : slot.toNat < 2 ^ s.code) : s.namesSlot slot = true := decide_eq_true h

theorem State.not_namesSlot_of_le (h : 2 ^ s.code ≤ slot.toNat) : s.namesSlot slot = false :=
  decide_eq_false (Nat.not_lt.2 h)

end

/-! ### A slot and its target moved together (R126, R129) -/

/-- A slot takes a state and its target new fields, with one log entry of a kind, a TARGET record and then a SLOT
record. -/
def State.moveRole (i t : Nat) (st : SlotState) (g : TargetDyn → TargetDyn) (kind : LogKind) (s : State) : State :=
  ((((s.updSlot i fun r => { r with state := st }).updDyn t g).appendLog (s.slotEntry kind i none none)).offerTarget
    .request t).offerSlot .request i |>.requestPending

section
variable {s : State} {i : Nat} {m : Summary} {st : SlotState}

/-- A slot that keeps its image carries its summary in its SLOT record. -/
theorem SlotRec.image_of_kept {r : SlotRec} (hm : r.summary = some m) (he : st ≠ .empty) (hr : st ≠ .rejected) :
    r.image st = { state := st, decayed := r.decayed, summary := some m } := by
  rw [SlotRec.image, if_neg (not_or.2 ⟨he, hr⟩), hm]

/-- The state and the journaled state of a slot set one after the other. -/
theorem modify_state_journaled (l : List SlotRec) (i : Nat) (st : SlotState) :
    (l.modify i fun r => { r with state := st }).modify i (fun r => { r with journaled := r.state }) =
      l.modify i fun r => { r with state := st, journaled := st } :=
  List.modify_modify_eq _ _ i l

theorem State.moveRole_eq (g : TargetDyn → TargetDyn) (kind : LogKind) (hi : i < s.slots.length)
    (hm : (s.slotAt i).summary = some m) (ht : m.target < s.targets.length) (he : st ≠ .empty) (hr : st ≠ .rejected) :
    s.moveRole i m.target st g kind = {
      ((({ s with
          slots := s.slots.modify i fun r => { r with state := st, journaled := st },
          targets := s.targets.modify m.target g }.appendLog
        { seq := 0, kind := kind, reason := none, slot := some i, target := some m.target, chunk := none,
          value := some m.version, address := none }).offer .request (.target m.target (g (s.dynAt m.target)))).offer
        .request (.slot i { state := st, decayed := (s.slotAt i).decayed, summary := some m })) with
      lastOutcome := .pending, lastReason := none } := by
  rw [State.moveRole, State.slotEntry_of_summary _ _ _ hm]
  set u := ((s.updSlot i fun r => { r with state := st }).updDyn m.target g).appendLog _
  have hdyn : u.dynAt m.target = g (s.dynAt m.target) := (State.dynAt_updDyn _ _ _ g).trans (if_pos ⟨rfl, ht⟩)
  have hslot : u.slotAt i = { s.slotAt i with state := st } := (s.slotAt_updSlot i i _).trans (if_pos ⟨rfl, hi⟩)
  have himage : (u.slotAt i).image (u.slotAt i).state =
      { state := st, decayed := (s.slotAt i).decayed, summary := some m } := by
    rw [hslot]
    exact SlotRec.image_of_kept hm he hr
  show (((u.offer .request (.target m.target (u.dynAt m.target))).offer .request
    (.slot i ((u.slotAt i).image (u.slotAt i).state))).updSlot i _).requestPending = _
  rw [himage, hdyn, ← modify_state_journaled]
  rfl

end

/-! ### ACTIVATE (R126) -/

/-- R126: the target's fields when a trial begins. -/
def TargetDyn.trialOf (i left : Nat) (d : TargetDyn) : TargetDyn := { d with trial := some i, bootsLeft := left }

section
variable {s : State} {slot : Word} {m : Summary}

theorem exec_activate (serial : Word) (h : s.takesRequests) :
    exec (.activate serial slot) s = .next ((s.taken serial 1 slot 0 0 0).reqActivate slot) :=
  congrArg _ (s.request_taken serial 1 slot 0 0 0 (State.reqActivate slot) h)

theorem State.reqActivate_badArg (h : 2 ^ s.code ≤ slot.toNat) : s.reqActivate slot = s.turnedDown .badArg := by
  rw [State.reqActivate, State.not_namesSlot_of_le h]
  rfl

theorem State.reqActivate_wrongState (h : slot.toNat < 2 ^ s.code)
    (hs : (s.slotAt slot.toNat).state ≠ .sealed ∨ (s.slotAt slot.toNat).reload = true) :
    s.reqActivate slot = s.turnedDown .wrongState := by
  have hbar : (!((s.slotAt slot.toNat).state == .sealed && !(s.slotAt slot.toNat).reload)) = true := by
    rcases hs with hs | hs <;> simp [hs]
  rw [State.reqActivate, State.namesSlot_of_lt h]
  exact if_pos hbar

/-- R126: past the checks of the slot, those of its target and its key decide. -/
theorem State.reqActivate_of_sealed (h : slot.toNat < 2 ^ s.code) (hs : (s.slotAt slot.toNat).state = .sealed)
    (hr : (s.slotAt slot.toNat).reload = false) (hm : (s.slotAt slot.toNat).summary = some m) :
    s.reqActivate slot =
      if (s.dynAt m.target).trial.isSome then s.turnedDown .trialOpen
      else match s.keyAt m.keySlot with
        | .active _ => s.moveRole slot.toNat m.target .trial
            (TargetDyn.trialOf slot.toNat (if s.bootTarget = some m.target then s.cfg.settings.tMax else 0))
            .trialStarted
        | _ => s.turnedDown .keyRevoked := by
  rw [State.reqActivate, State.namesSlot_of_lt h, SlotRec.target?, hm]
  simp only [hs, hr]
  rfl

end

/-- Settles O25: the four checks in order, and the slot and its target moved where none of them bars it. -/
theorem activate : Obligations.Activate := by
  intro serial slot s hs i r base
  rw [exec_activate serial hs]
  refine ⟨fun h => congrArg _ (State.reqActivate_badArg h), fun h hr => congrArg _ (State.reqActivate_wrongState h hr),
    fun m h hst hre hm ht => ?_⟩
  have hreq := State.reqActivate_of_sealed (s := base) h hst hre hm
  refine ⟨fun htrial => ?_, fun htrial hkey => ?_, fun v htrial hkey => ?_⟩
  · exact congrArg _ (hreq.trans (if_pos (Option.isSome_iff_ne_none.2 htrial)))
  all_goals
    have hnone : ¬ (base.dynAt m.target).trial.isSome = true := by
      rw [show (base.dynAt m.target).trial = none from htrial]
      exact nofun
    rw [if_neg hnone] at hreq
  · rw [hreq]
    cases hk : s.keyAt m.keySlot with
    | empty => rw [show base.keyAt m.keySlot = .empty from hk]
    | revoked v => rw [show base.keyAt m.keySlot = .revoked v from hk]
    | active v => exact absurd hk (hkey v)
  · rw [show base.keyAt m.keySlot = .active v from hkey] at hreq
    have hi : i < base.slots.length := State.lt_length_of_state (by rw [show (base.slotAt i).state = _ from hst]; decide)
    rw [hreq]
    exact congrArg _ (State.moveRole_eq (s := base) _ _ hi hm ht (by decide) (by decide))

/-! ### ABANDON (R129) -/

section
variable {s : State} {slot : Word} {m : Summary}

theorem exec_abandon (serial : Word) (h : s.takesRequests) :
    exec (.abandon serial slot) s = .next ((s.taken serial 3 slot 0 0 0).reqAbandon slot) :=
  congrArg _ (s.request_taken serial 3 slot 0 0 0 (State.reqAbandon slot) h)

theorem State.reqAbandon_badArg (h : 2 ^ s.code ≤ slot.toNat) : s.reqAbandon slot = s.turnedDown .badArg := by
  rw [State.reqAbandon, State.not_namesSlot_of_le h]
  rfl

theorem State.reqAbandon_wrongState (h : slot.toNat < 2 ^ s.code) (hs : (s.slotAt slot.toNat).state ≠ .trial) :
    s.reqAbandon slot = s.turnedDown .wrongState := by
  have hbar : (!((s.slotAt slot.toNat).state == .trial)) = true := by simp [hs]
  rw [State.reqAbandon, State.namesSlot_of_lt h]
  exact if_pos hbar

theorem State.reqAbandon_of_trial (h : slot.toNat < 2 ^ s.code) (hs : (s.slotAt slot.toNat).state = .trial)
    (hm : (s.slotAt slot.toNat).summary = some m) :
    s.reqAbandon slot = s.moveRole slot.toNat m.target .sealed TargetDyn.endTrial .abandoned := by
  rw [State.reqAbandon, State.namesSlot_of_lt h, SlotRec.target?, hm, hs]
  rfl

end

/-- Settles O27: the two checks in order, and the slot and its target moved where neither bars it. -/
theorem abandon : Obligations.Abandon := by
  intro serial slot s hs i r base
  rw [exec_abandon serial hs]
  refine ⟨fun h => congrArg _ (State.reqAbandon_badArg h), fun h hr => congrArg _ (State.reqAbandon_wrongState h hr),
    fun m h hst hm ht => ?_⟩
  have hi : i < base.slots.length := State.lt_length_of_state (by rw [show (base.slotAt i).state = _ from hst]; decide)
  rw [State.reqAbandon_of_trial (s := base) h hst hm]
  exact congrArg _ (State.moveRole_eq (s := base) _ _ hi hm ht (by decide) (by decide))

end Sys2Proof.Machine
end

section
/-! What a request leaves of the slots, of the engine's jobs and of the offers, for the requests that empty slots or take
them out of service (8.3). -/

namespace Sys2Proof.Machine

open Sys2Proof

/-! ### Steps on the roster: slots, targets and the engine's lists -/

/-- `t` is `s` but for the slots, the targets, and the lists and the job of the engine. -/
def State.RosterOnly (s t : State) : Prop :=
  t = { s with
    slots := t.slots, targets := t.targets, verifyQueue := t.verifyQueue, job := t.job, aside := t.aside,
    manifestJobs := t.manifestJobs }

section
variable {s t u : State}

theorem State.RosterOnly.refl (s : State) : s.RosterOnly s := rfl

theorem State.RosterOnly.trans (h : s.RosterOnly t) (g : t.RosterOnly u) : s.RosterOnly u :=
  Eq.trans (show u = _ from g) (by rw [show t = _ from h])

theorem State.RosterOnly.foldl {α : Type} {f : State → α → State} (hf : ∀ (u : State) (x : α), u.RosterOnly (f u x))
    (l : List α) (s : State) : s.RosterOnly (l.foldl f s) :=
  List.foldlRecOn l f (.refl s) fun u hu x _ => hu.trans (hf u x)

theorem State.RosterOnly.log (h : s.RosterOnly t) : t.log = s.log :=
  (congrArg State.log (show t = _ from h) :)

theorem State.RosterOnly.store (h : s.RosterOnly t) : t.store = s.store :=
  (congrArg State.store (show t = _ from h) :)

theorem State.RosterOnly.standing (h : s.RosterOnly t) : t.standing = s.standing :=
  (congrArg State.standing (show t = _ from h) :)

end

section
variable (s : State)

theorem State.updSlot_rosterOnly (i : Nat) (f : SlotRec → SlotRec) : s.RosterOnly (s.updSlot i f) := rfl

theorem State.updDyn_rosterOnly (t : Nat) (f : TargetDyn → TargetDyn) : s.RosterOnly (s.updDyn t f) := rfl

theorem State.dropManifest_rosterOnly (i : Nat) : s.RosterOnly (s.dropManifest i) := rfl

theorem State.dropSlotJobs_rosterOnly (i : Nat) : s.RosterOnly (s.dropSlotJobs i) :=
  .trans (t := s.dropEntries fun a _ => a == i) rfl (State.updSlot_rosterOnly ..)

theorem State.dropSlotJobs_targets (i : Nat) : (s.dropSlotJobs i).targets = s.targets := rfl

/-- The outcome of a request is pending exactly while a record of it is to be written (R125). -/
theorem State.requestAwaits_eq :
    s.requestAwaits =
      { s with lastOutcome := if s.store.owes .request then .pending else .done, lastReason := none } := by
  unfold State.requestAwaits
  split <;> rfl

end

/-! ### What stands through a request on slots -/

/-- From `s` to `t` the flash, the sectors, the lines to the flash, the keys, the rows and the request page stay. -/
structure State.SameDevice (s t : State) : Prop where
  flash : t.flash = s.flash
  tracker : t.tracker = s.tracker
  guard : t.guard = s.guard
  map : t.map = s.map
  pool : t.pool = s.pool
  health : t.health = s.health
  clean : t.clean = s.clean
  keys : t.keys = s.keys
  statics : t.statics = s.statics
  cfg : t.cfg = s.cfg
  reqPage : t.reqPage = s.reqPage
  pendingWD : t.pendingWD = s.pendingWD

theorem State.SameDevice.of_standing {s t : State} (h : t.standing = s.standing) : s.SameDevice t :=
  ⟨(congrArg State.flash h :), (congrArg State.tracker h :), (congrArg State.guard h :), (congrArg State.map h :),
    (congrArg State.pool h :), (congrArg State.health h :), (congrArg State.clean h :), (congrArg State.keys h :),
    (congrArg State.statics h :), (congrArg State.cfg h :), (congrArg State.reqPage h :),
    (congrArg State.pendingWD h :)⟩

theorem State.SameDevice.trans {s t u : State} (h : s.SameDevice t) (g : t.SameDevice u) : s.SameDevice u :=
  ⟨g.flash.trans h.flash, g.tracker.trans h.tracker, g.guard.trans h.guard, g.map.trans h.map, g.pool.trans h.pool,
    g.health.trans h.health, g.clean.trans h.clean, g.keys.trans h.keys, g.statics.trans h.statics, g.cfg.trans h.cfg,
    g.reqPage.trans h.reqPage, g.pendingWD.trans h.pendingWD⟩

/-- The outcome of a request, the sweep and the engine leave the device. -/
theorem State.SameDevice.answered {s t : State} (h : s.SameDevice t) (o : ReqOutcome) (r : Option ReqReason) :
    s.SameDevice (State.resettle { t with lastOutcome := o, lastReason := r }) :=
  h.trans (.trans (t := { t with lastOutcome := o, lastReason := r })
    ⟨rfl, rfl, rfl, rfl, rfl, rfl, rfl, rfl, rfl, rfl, rfl, rfl⟩ (.of_standing (State.resettle_standing _)))

/-! ### Offers in order (R125, R145) -/

/-- The SLOT record that a slot offers. -/
def State.slotOffer (s : State) (o : Owner) (i : Nat) : Offer :=
  { payload := .slot i ((s.slotAt i).image (s.slotAt i).state), owner := o }

/-- The TARGET record that a target offers. -/
def State.targetOffer (s : State) (o : Owner) (t : Nat) : Offer := { payload := .target t (s.dynAt t), owner := o }

theorem State.Journals.slotOffer {s t : State} (h : s.Journals t) (o : Owner) (i : Nat) :
    t.slotOffer o i = s.slotOffer o i := by
  unfold State.slotOffer
  rcases h.slot i with e | e <;> rw [e]
  rfl

section
variable (s : State) (o : Owner)

/-- Beyond the slot records there is nothing to journal. -/
theorem State.slotAt_offerSlot (i k : Nat) :
    (s.offerSlot o i).slotAt k = if i = k then (s.slotAt k).offered else s.slotAt k := by
  have h : (s.offerSlot o i).slotAt k = if i = k ∧ k < s.slots.length then (s.slotAt k).offered else s.slotAt k :=
    State.slotAt_updSlot ..
  rw [h]
  by_cases hk : k < s.slots.length
  · simp only [hk, and_true]
  · simp only [hk, and_false, if_false, State.slotAt_of_length_le (Nat.le_of_not_lt hk)]
    exact (ite_self _).symm

theorem State.foldl_offerSlot_slotAt (l : List Nat) (k : Nat) :
    (l.foldl (fun s i => s.offerSlot o i) s).slotAt k = if k ∈ l then (s.slotAt k).offered else s.slotAt k := by
  induction l generalizing s with
  | nil => rfl
  | cons i l ih =>
    rw [List.foldl_cons, ih, State.slotAt_offerSlot]
    by_cases hi : i = k
    · subst hi
      by_cases hl : i ∈ l <;> simp [hl, SlotRec.offered]
    · simp [hi, Ne.symm hi]

theorem State.foldl_offerSlot_offers (l : List Nat) :
    (l.foldl (fun s i => s.offerSlot o i) s).store.offers = s.store.offers ++ l.map (s.slotOffer o) := by
  induction l generalizing s with
  | nil => exact (List.append_nil _).symm
  | cons i l ih =>
    have hrest : l.map ((s.offerSlot o i).slotOffer o) = l.map (s.slotOffer o) :=
      List.map_congr_left fun k _ => (s.offerSlot_journals o i).slotOffer o k
    rw [List.foldl_cons, ih, hrest, State.offerSlot_offers, List.append_assoc]
    rfl

theorem State.foldl_offerTarget_offers (l : List Nat) :
    (l.foldl (fun s t => s.offerTarget o t) s).store.offers = s.store.offers ++ l.map (s.targetOffer o) := by
  induction l generalizing s with
  | nil => exact (List.append_nil _).symm
  | cons t l ih =>
    rw [List.foldl_cons, ih, State.offerTarget, State.offer_offers, List.append_assoc]
    rfl

theorem State.foldl_offerTarget_slots (l : List Nat) :
    (l.foldl (fun s t => s.offerTarget o t) s).slots = s.slots :=
  List.foldlRecOn (motive := fun u : State => u.slots = s.slots) l _ rfl fun _ hu _ _ => hu

/-- R125: where every slot goes to FAILED or EMPTY, the SLOT records come first and the TARGET records after them. -/
theorem State.offerInOrder_of_early {slots : List Nat} (h : ∀ i ∈ slots, s.goesEarly i = true) (targets : List Nat) :
    s.offerInOrder o slots targets =
      targets.foldl (fun s t => s.offerTarget o t) (slots.foldl (fun s i => s.offerSlot o i) s) := by
  have hlate : slots.filter (fun i => !s.goesEarly i) = [] := List.filter_eq_nil_iff.2 fun i hi => by simp [h i hi]
  rw [State.offerInOrder_eq, List.filter_eq_self.2 h, hlate]
  rfl

end

/-! ### Queued marks aside (R104) -/

/-- A slot with no queued mark on its chunks. -/
def SlotRec.unmarked (r : SlotRec) : SlotRec := { r with chunks := r.chunks.map Chunk.dropped }

theorem SlotRec.updChunk_unmarked (r : SlotRec) (c : Nat) :
    (r.updChunk c fun k => { k with queued := true }).unmarked = r.unmarked := by
  unfold SlotRec.updChunk
  split
  · rfl
  · refine congrArg (fun l => { r with chunks := l }) (List.ext_getElem? fun n => ?_)
    simp only [List.getElem?_map, List.getElem?_modify]
    cases r.chunks[n]? with
    | none => rfl
    | some k => exact congrArg some (by dsimp only; split <;> rfl)

/-- The sweeps and the engine change queued marks alone. -/
theorem State.resettle_unmarked (s : State) (i : Nat) : (s.resettle.slotAt i).unmarked = (s.slotAt i).unmarked := by
  refine State.resettle_induction (P := fun l => (l.getD i SlotRec.blank).unmarked = (s.slotAt i).unmarked) rfl
    fun v p _ _ u hu => ?_
  have hjoin := u.slotAt_updSlot p.1 i (SlotRec.updChunk p.2 fun c => { c with queued := true })
  refine (congrArg SlotRec.unmarked hjoin).trans (Eq.trans ?_ hu)
  split
  · exact SlotRec.updChunk_unmarked ..
  · rfl

theorem State.resettle_summary (s : State) (i : Nat) : (s.resettle.slotAt i).summary = (s.slotAt i).summary :=
  (congrArg SlotRec.summary (s.resettle_unmarked i) :)

/-! ### A slot with no work listed or in flight (R72, R102, R106) -/

/-- No entry, no job put aside and no job in flight is for slot `i`, but for those of a boot event's scan. -/
structure State.SlotFree (i : Nat) (s : State) : Prop where
  listed : ∀ m ∈ s.manifestJobs, m.slot ≠ i
  queue : ∀ e ∈ s.verifyQueue, e.slot ≠ i
  aside : ∀ e, s.aside = some e → e.slot ≠ i
  job : ∀ j, s.job = some j → j.slot = i → j.kind = .scanManifest ∨ j.kind = .scanChunk

section
variable {s t : State} {i k : Nat}

/-- A step that only takes work away leaves no work where there was none. -/
theorem State.SlotFree.of_fewer (h : s.SlotFree i) (hm : ∀ m ∈ t.manifestJobs, m ∈ s.manifestJobs)
    (hq : ∀ e ∈ t.verifyQueue, e ∈ s.verifyQueue) (ha : ∀ e, t.aside = some e → s.aside = some e)
    (hj : ∀ j, t.job = some j → s.job = some j) : t.SlotFree i :=
  ⟨fun m hmem => h.listed m (hm m hmem), fun e he => h.queue e (hq e he), fun e he => h.aside e (ha e he),
    fun j hjob => h.job j (hj j hjob)⟩

theorem State.SlotFree.dropManifest (h : s.SlotFree i) (k : Nat) : (s.dropManifest k).SlotFree i := by
  refine h.of_fewer (fun m => List.mem_of_mem_filter) (fun _ => id) (fun _ => id) fun j hj => ?_
  unfold State.dropManifest at hj
  cases hs : s.job with
  | none => simp [hs] at hj
  | some j' =>
    simp only [hs] at hj
    exact (Option.ite_none_left_eq_some.1 hj).2

theorem State.SlotFree.dropSlotJobs (h : s.SlotFree i) (k : Nat) : (s.dropSlotJobs k).SlotFree i := by
  refine h.of_fewer (fun _ => id) (fun e => List.mem_of_mem_filter) (fun e he => ?_) fun j hj => ?_
  · exact (Option.filter_eq_some_iff.1 (show s.aside.filter _ = some e from he)).1
  · exact (Option.ite_none_left_eq_some.1 (show (if _ then none else s.job) = some j from hj)).2

/-- R72, R102: a slot whose manifest job and chunk jobs are dropped has no work left. -/
theorem State.dropSlotJobs_slotFree (h : s.ManifestFree i) : (s.dropSlotJobs i).SlotFree i := by
  refine ⟨h.listed, fun e he => ?_, fun e he => ?_, fun j hj hi => ?_⟩
  · have he' : e ∈ s.verifyQueue.filter fun e => !(e.slot == i) := he
    simpa using (List.mem_filter.1 he').2
  · have he' : (s.aside.filter fun e => !(e.slot == i)) = some e := he
    simpa using (Option.filter_eq_some_iff.1 he').2
  · have hj' : (if s.chunkJobIs (fun a _ => a == i) then none else s.job) = some j := hj
    obtain ⟨hn, hs⟩ := Option.ite_none_left_eq_some.1 hj'
    have hmanifest := h.job j hs
    simp only [State.chunkJobIs, hs, hi, beq_self_eq_true, Bool.and_true, Bool.or_eq_true, beq_iff_eq] at hn
    cases hk : j.kind <;> simp [hk, hi] at hn hmanifest ⊢

/-- The sweep lists chunks of FILLING slots alone. -/
theorem State.SlotFree.sweep (h : s.SlotFree i) (hst : (s.slotAt i).state ≠ .filling) : s.sweep.SlotFree i := by
  refine ⟨by simpa using h.listed, ?_, by simpa using h.aside, by simpa using h.job⟩
  refine State.sweep_induction (P := fun u => ∀ e ∈ u.verifyQueue, e.slot ≠ i) h.queue fun u p hp hu e he => ?_
  rcases List.mem_append.1 he with he | he
  · exact hu e he
  · obtain rfl := List.mem_singleton.1 he
    rintro rfl
    exact hst (State.filling_of_eligible hp)

theorem State.SlotFree.startJob (h : s.SlotFree i) (hst : (s.slotAt i).state ≠ .filling) : s.startJob.SlotFree i := by
  unfold State.startJob
  split
  · exact h
  · split
    · next c _ =>
      refine ⟨h.listed, h.queue, h.aside, fun j hj _ => ?_⟩
      obtain rfl := Option.some.inj hj
      unfold State.scanStart
      split
      · exact .inl rfl
      · exact .inr rfl
    · split
      · next e ha =>
        refine ⟨h.listed, h.queue, nofun, fun j hj hi => ?_⟩
        obtain rfl := Option.some.inj hj
        exact absurd hi (h.aside e ha)
      · split
        · next m ms hm =>
          refine ⟨h.listed, h.queue, h.aside, fun j hj hi => ?_⟩
          obtain rfl := Option.some.inj hj
          exact absurd hi (h.listed m (hm ▸ List.mem_cons_self))
        · split
          · next e q hq =>
            obtain ⟨he, hrest⟩ := List.forall_mem_cons.1 (hq ▸ h.queue)
            refine State.SlotFree.sweep ⟨h.listed, hrest, h.aside, fun j hj hi => ?_⟩ hst
            obtain rfl := Option.some.inj hj
            exact absurd hi he
          · exact h

theorem State.SlotFree.resettle (h : s.SlotFree i) (hst : (s.slotAt i).state ≠ .filling) : s.resettle.SlotFree i :=
  (h.sweep hst).startJob ((s.sweep_marksOnly.state_eq i).trans_ne hst)

end

end Sys2Proof.Machine
end

section
/-! A slot emptied (R130): DISCARD. -/

namespace Sys2Proof.Machine

open Sys2Proof

/-! ### One slot emptied -/

/-- R130: an EMPTY slot with nothing of its old state; what the journal holds of it is left. -/
def SlotRec.emptied (r : SlotRec) : SlotRec := { SlotRec.blank with journaled := r.journaled }

/-- A target whose FALLBACK slot is emptied. -/
def TargetDyn.fallbackLost (d : TargetDyn) : TargetDyn := { d with fallback := none }

section
variable (s : State) (i k : Nat)

theorem State.emptySlot_rosterOnly : s.RosterOnly (s.emptySlot i) := by
  have h : s.RosterOnly (((s.dropManifest i).dropSlotJobs i).updSlot i SlotRec.emptied) :=
    ((s.dropManifest_rosterOnly i).trans (State.dropSlotJobs_rosterOnly ..)).trans (State.updSlot_rosterOnly ..)
  unfold State.emptySlot
  dsimp only
  split
  · exact h.trans (State.updDyn_rosterOnly ..)
  · exact h

theorem State.emptySlot_slots :
    (s.emptySlot i).slots = (((s.dropManifest i).dropSlotJobs i).updSlot i SlotRec.emptied).slots := by
  unfold State.emptySlot
  dsimp only
  split <;> rfl

theorem State.emptySlot_slotAt :
    (s.emptySlot i).slotAt k = if i = k then (s.slotAt k).emptied else s.slotAt k := by
  have hlen : ((s.dropManifest i).dropSlotJobs i).slots.length = s.slots.length := State.slots_length_updSlot ..
  have hkept (h : ¬ (i = k ∧ k < s.slots.length)) : ((s.dropManifest i).dropSlotJobs i).slotAt k = s.slotAt k :=
    (State.dropSlotJobs_slotAt ..).trans (if_neg h)
  rw [State.slotAt, State.emptySlot_slots, ← State.slotAt, State.slotAt_updSlot, hlen]
  by_cases hi : i = k
  · rw [if_pos hi]
    split
    · rw [State.dropSlotJobs_slotAt]
      split <;> rfl
    · next h =>
      rw [hkept h, State.slotAt_of_length_le (Nat.le_of_not_lt fun hk => h ⟨hi, hk⟩)]
      rfl
  · rw [if_neg fun h => hi h.1, if_neg hi, hkept fun h => hi h.1]

theorem State.emptySlot_targets_of_ne (h : (s.slotAt i).state ≠ .fallback) : (s.emptySlot i).targets = s.targets := by
  unfold State.emptySlot
  dsimp only
  rw [if_neg h, State.updSlot_targets, State.dropSlotJobs_targets, State.dropManifest_targets]

theorem State.emptySlot_dynAt (u : Nat) :
    (s.emptySlot i).dynAt u =
      if (s.slotAt i).state = .fallback ∧ (s.slotAt i).target?.getD 16 = u then (s.dynAt u).fallbackLost
      else s.dynAt u := by
  by_cases hf : (s.slotAt i).state = .fallback
  · have htargets : (s.emptySlot i).targets = s.targets.modify ((s.slotAt i).target?.getD 16) TargetDyn.fallbackLost := by
      unfold State.emptySlot
      dsimp only
      rw [if_pos hf, State.updDyn_targets, State.updSlot_targets, State.dropSlotJobs_targets,
        State.dropManifest_targets]
      rfl
    rw [State.dynAt, htargets, getD_modify]
    by_cases hu : u < s.targets.length
    · simp only [hf, hu, and_true, true_and]
      rfl
    · have hblank : s.targets.getD u TargetDyn.blank = TargetDyn.blank := by
        rw [List.getD_eq_getElem?_getD, List.getElem?_eq_none (Nat.le_of_not_lt hu)]
        rfl
      simp only [hu, and_false, if_false, State.dynAt, hblank]
      exact (ite_self _).symm
  · rw [State.dynAt, s.emptySlot_targets_of_ne i hf, if_neg fun h => hf h.1]
    rfl

theorem State.emptySlot_slotFree : (s.emptySlot i).SlotFree i := by
  have h : ((s.dropManifest i).dropSlotJobs i).SlotFree i := State.dropSlotJobs_slotFree (s.dropManifest_manifestFree i)
  unfold State.emptySlot
  dsimp only
  split <;> exact h.of_fewer (fun _ => id) (fun _ => id) (fun _ => id) fun _ => id

variable {s k} in
theorem State.SlotFree.emptySlot (h : s.SlotFree k) : (s.emptySlot i).SlotFree k := by
  have h' : ((s.dropManifest i).dropSlotJobs i).SlotFree k := (h.dropManifest i).dropSlotJobs i
  unfold State.emptySlot
  dsimp only
  split <;> exact h'.of_fewer (fun _ => id) (fun _ => id) (fun _ => id) fun _ => id

end

/-! ### DISCARD (R130) -/

/-- R130: the slot emptied, with its SLOT record where the journal holds it as anything but EMPTY, and the TARGET record of
a fallback lost. -/
def State.slotDiscarded (i : Nat) (s : State) : State :=
  let r := s.slotAt i
  let s1 := s.emptySlot i
  let s2 := if r.journaled = .empty then s1 else s1.offerSlot .request i
  if r.state = .fallback then s2.offerTarget .request (r.target?.getD 16) else s2

section
variable (s : State) (i : Nat)

theorem State.slotDiscarded_journals : (s.emptySlot i).Journals (s.slotDiscarded i) := by
  have h : (s.emptySlot i).Journals
      (if (s.slotAt i).journaled = .empty then s.emptySlot i else (s.emptySlot i).offerSlot .request i) := by
    split
    · exact .refl _
    · exact State.offerSlot_journals ..
  unfold State.slotDiscarded
  dsimp only
  split
  · exact h.trans (State.offer_journals ..)
  · exact h

theorem State.slotDiscarded_slots :
    (s.slotDiscarded i).slots =
      (if (s.slotAt i).journaled = .empty then s.emptySlot i else (s.emptySlot i).offerSlot .request i).slots := by
  unfold State.slotDiscarded
  dsimp only
  split <;> rfl

theorem State.slotDiscarded_slotAt : (s.slotDiscarded i).slotAt i = SlotRec.blank := by
  have hempty : (s.emptySlot i).slotAt i = (s.slotAt i).emptied := (s.emptySlot_slotAt i i).trans (if_pos rfl)
  rw [State.slotAt, State.slotDiscarded_slots, ← State.slotAt]
  split
  · next hj =>
    rw [hempty, SlotRec.emptied, hj]
    rfl
  · rw [State.slotAt_offerSlot, if_pos rfl, hempty]
    rfl

theorem State.slotDiscarded_standing : (s.slotDiscarded i).standing = s.standing := by
  have h := (s.emptySlot_rosterOnly i).standing
  have hoffer : (if (s.slotAt i).journaled = .empty then s.emptySlot i
      else (s.emptySlot i).offerSlot .request i).standing = s.standing := by
    split
    · exact h
    · exact (State.offerSlot_standing ..).trans h
  unfold State.slotDiscarded
  dsimp only
  split
  · exact (State.offer_standing ..).trans hoffer
  · exact hoffer

theorem State.slotDiscarded_owes (h : (s.slotAt i).journaled ≠ .empty) :
    (s.slotDiscarded i).store.owes .request = true := by
  unfold State.slotDiscarded
  dsimp only
  rw [if_neg h]
  split
  · exact State.offerTarget_owes ..
  · exact State.offerSlot_owes ..

/-- Another slot keeps its state and its summary. -/
theorem State.slotDiscarded_slotAt_ne {j : Nat} (h : j ≠ i) :
    ((s.slotDiscarded i).slotAt j).state = (s.slotAt j).state ∧
      ((s.slotDiscarded i).slotAt j).summary = (s.slotAt j).summary := by
  have hempty : (s.emptySlot i).slotAt j = s.slotAt j := (s.emptySlot_slotAt i j).trans (if_neg h.symm)
  rcases (s.slotDiscarded_journals i).slot j with e | e <;> rw [e, hempty]
  · exact ⟨rfl, rfl⟩
  · exact ⟨rfl, rfl⟩

end

section
variable {s : State} {slot : Word}

theorem exec_discard (serial : Word) (h : s.takesRequests) :
    exec (.discard serial slot) s = .next ((s.taken serial 4 slot 0 0 0).reqDiscard slot) :=
  congrArg _ (s.request_taken serial 4 slot 0 0 0 (State.reqDiscard slot) h)

theorem State.discardBarred_iff (s : State) (i : Nat) : s.discardBarred i = true ↔
    (s.slotAt i).state = .trial ∨ (s.slotAt i).state = .active ∨ s.bootedSlot = some i := by
  simp [State.discardBarred, or_assoc]

theorem State.reqDiscard_badArg (h : 2 ^ s.code ≤ slot.toNat) : s.reqDiscard slot = s.turnedDown .badArg := by
  rw [State.reqDiscard, State.not_namesSlot_of_le h]
  rfl

theorem State.reqDiscard_inUse (h : slot.toNat < 2 ^ s.code) (hb : s.discardBarred slot.toNat = true) :
    s.reqDiscard slot = s.turnedDown .inUse := by
  rw [State.reqDiscard, State.namesSlot_of_lt h]
  exact if_pos hb

theorem State.reqDiscard_empty (h : slot.toNat < 2 ^ s.code) (hb : ¬ s.discardBarred slot.toNat = true)
    (he : (s.slotAt slot.toNat).state = .empty) : s.reqDiscard slot = s.requestDone := by
  rw [State.reqDiscard, State.namesSlot_of_lt h]
  exact (if_neg hb).trans (if_pos he)

theorem State.reqDiscard_of_image (h : slot.toNat < 2 ^ s.code) (hb : ¬ s.discardBarred slot.toNat = true)
    (he : (s.slotAt slot.toNat).state ≠ .empty) :
    s.reqDiscard slot = (s.slotDiscarded slot.toNat).requestAwaits.resettle := by
  rw [State.reqDiscard, State.namesSlot_of_lt h]
  exact (if_neg hb).trans (if_neg he)

end

/-- Settles O28: the checks in order, and the slot emptied where none of them bars it. The sweep and the engine that follow
change queued marks alone. -/
theorem discard : Obligations.Discard := by
  intro serial slot s hs i r base
  rw [exec_discard serial hs]
  have hbar (hb : s.bootedSlot ≠ some i) (ht : r.state ≠ .trial) (ha : r.state ≠ .active) :
      ¬ base.discardBarred i = true := fun h =>
    ((base.discardBarred_iff i).1 h).elim ht fun h => h.elim ha hb
  refine ⟨fun h => congrArg _ (State.reqDiscard_badArg h),
    fun h hr => congrArg _ (State.reqDiscard_inUse h ((base.discardBarred_iff i).2 hr)), fun h hb he => ?_,
    fun h hb ht ha he => ?_⟩
  · exact congrArg _ (State.reqDiscard_empty (s := base) h
      (hbar hb (by rw [he]; decide) (by rw [he]; decide)) he)
  rw [State.reqDiscard_of_image (s := base) h (hbar hb ht ha) he, State.requestAwaits_eq]
  set v := base.slotDiscarded i
  set w : State := { v with lastOutcome := if v.store.owes .request then .pending else .done, lastReason := none }
  have hblank : w.slotAt i = SlotRec.blank := base.slotDiscarded_slotAt i
  have hjournals := base.slotDiscarded_journals i
  have htargets : w.resettle.targets = (base.emptySlot i).targets := w.resettle_targets.trans hjournals.targets
  have hdevice : base.SameDevice w.resettle := (State.SameDevice.of_standing (base.slotDiscarded_standing i)).answered _ _
  refine ⟨_, rfl, ?_, fun j hj => ?_, fun hj => ?_, fun m hf hm => ?_, fun hf => ?_, hdevice.flash, ?_, hdevice.map,
    hdevice.pool, hdevice.health, hdevice.clean, hdevice.guard, hdevice.tracker, hdevice.keys⟩
  · exact (w.resettle_marksOnly.slotAt_eq i (by rw [hblank]; decide)).trans hblank
  · obtain ⟨hstate, hsummary⟩ := base.slotDiscarded_slotAt_ne i hj
    exact ⟨(w.resettle_marksOnly.state_eq j).trans hstate, (w.resettle_summary j).trans hsummary⟩
  · exact (State.resettle_books w).lastOutcome.trans (if_pos (base.slotDiscarded_owes i hj))
  · have ht : (base.slotAt i).target?.getD 16 = m.target := by
      rw [SlotRec.target?, show (base.slotAt i).summary = some m from hm]
      rfl
    rw [State.dynAt, htargets, ← State.dynAt, State.emptySlot_dynAt, if_pos ⟨hf, ht⟩]
    rfl
  · exact htargets.trans (base.emptySlot_targets_of_ne i hf)
  · exact w.resettle_log.trans (hjournals.log.trans (base.emptySlot_rosterOnly i).log)

end Sys2Proof.Machine
end

section
/-! Every slot out of use emptied (R130, R131): CLEAR_STAGING. -/

namespace Sys2Proof.Machine

open Sys2Proof

/-! ### Several slots emptied -/

/-- A target that one of the slots serves as its FALLBACK slot. -/
def State.losesFallback (s : State) (ids : List Nat) (u : Nat) : Bool :=
  ids.any fun i => (s.slotAt i).state == .fallback && (s.slotAt i).target? == some u

section
variable {s : State} {ids : List Nat}

theorem State.foldl_emptySlot_slotAt (s : State) (ids : List Nat) (k : Nat) :
    (ids.foldl (fun s i => s.emptySlot i) s).slotAt k = if k ∈ ids then (s.slotAt k).emptied else s.slotAt k := by
  induction ids generalizing s with
  | nil => rfl
  | cons i ids ih =>
    rw [List.foldl_cons, ih, State.emptySlot_slotAt]
    by_cases hi : i = k
    · subst hi
      by_cases hl : i ∈ ids <;> simp [hl, SlotRec.emptied]
    · simp [hi, Ne.symm hi]

theorem State.foldl_emptySlot_rosterOnly (s : State) (ids : List Nat) :
    s.RosterOnly (ids.foldl (fun s i => s.emptySlot i) s) :=
  .foldl (fun u i => u.emptySlot_rosterOnly i) ids s

theorem State.foldl_emptySlot_slotFree {k : Nat} (h : s.SlotFree k ∨ k ∈ ids) :
    (ids.foldl (fun s i => s.emptySlot i) s).SlotFree k := by
  induction ids generalizing s with
  | nil => exact h.resolve_right (by simp)
  | cons i ids ih =>
    refine ih ?_
    rcases h with h | h
    · exact .inl (h.emptySlot i)
    · rcases List.mem_cons.1 h with rfl | h
      · exact .inl (s.emptySlot_slotFree k)
      · exact .inr h

/-- The target of an emptied FALLBACK slot, where it is one of the sixteen. -/
theorem target?_getD_eq_iff {r : SlotRec} {u : Nat} (hu : u < 16) : r.target?.getD 16 = u ↔ r.target? = some u := by
  cases r.target? with
  | none => exact ⟨fun h => absurd h (by simpa using Nat.ne_of_gt hu), nofun⟩
  | some t => exact Option.some_inj.symm

/-- Each slot of a list without repetition is emptied once, with the fallback it then still is. -/
theorem State.foldl_emptySlot_dynAt (h : ids.Nodup) {u : Nat} (hu : u < 16) :
    (ids.foldl (fun s i => s.emptySlot i) s).dynAt u =
      if s.losesFallback ids u then (s.dynAt u).fallbackLost else s.dynAt u := by
  induction ids generalizing s with
  | nil => rfl
  | cons i ids ih =>
    obtain ⟨hi, hids⟩ := List.nodup_cons.1 h
    have hrest : (s.emptySlot i).losesFallback ids u = s.losesFallback ids u := by
      rw [Bool.eq_iff_iff, State.losesFallback, State.losesFallback, List.any_eq_true, List.any_eq_true]
      refine exists_congr fun k => and_congr_right fun hk => ?_
      rw [(s.emptySlot_slotAt i k).trans (if_neg fun e : i = k => hi (e ▸ hk))]
    have hhead : (s.emptySlot i).dynAt u =
        if ((s.slotAt i).state == .fallback && (s.slotAt i).target? == some u) = true then (s.dynAt u).fallbackLost
        else s.dynAt u := by
      simp only [State.emptySlot_dynAt, target?_getD_eq_iff hu, Bool.and_eq_true, beq_iff_eq]
    rw [List.foldl_cons, ih hids, hrest, hhead]
    show _ = if ((_ && _) || s.losesFallback ids u) = true then _ else _
    cases (s.slotAt i).state == .fallback && (s.slotAt i).target? == some u <;>
      cases s.losesFallback ids u <;> rfl

end

/-! ### The slots that go (R130, R131) -/

section
variable (s : State)

/-- R131: a slot with something in it that is neither TRIAL nor ACTIVE nor booted. -/
def State.clearsSlot (j : Nat) : Bool := !s.discardBarred j && (s.slotAt j).state != .empty

/-- R131: the slots that CLEAR_STAGING empties, ascending. -/
def State.clearedSlots : List Nat := (List.range s.slots.length).filter s.clearsSlot

/-- R131: the slots that CLEAR_STAGING empties and the journal holds as anything but EMPTY. -/
def State.clearedRecords : List Nat := s.clearedSlots.filter fun i => (s.slotAt i).journaled != .empty

/-- R131: the targets that lose their FALLBACK slot. -/
def State.clearedTargets : List Nat := (List.range 16).filter (s.losesFallback s.clearedSlots)

/-- R131: the slots emptied, and the records of it offered. -/
def State.stagingCleared : State :=
  (s.clearedSlots.foldl (fun s i => s.emptySlot i) s).offerInOrder .request s.clearedRecords s.clearedTargets

theorem State.reqClearStaging_eq : s.reqClearStaging = s.stagingCleared.requestAwaits.resettle := rfl

theorem State.clearsSlot_eq (j : Nat) : s.clearsSlot j =
    ((s.slotAt j).state != .empty && (s.slotAt j).state != .trial && (s.slotAt j).state != .active &&
      s.bootedSlot != some j) := by
  simp only [State.clearsSlot, State.discardBarred, Bool.not_or, bne]
  ac_rfl

theorem State.mem_clearedSlots (j : Nat) : j ∈ s.clearedSlots ↔ s.clearsSlot j = true := by
  refine ⟨fun h => (List.mem_filter.1 h).2, fun h => List.mem_filter.2 ⟨List.mem_range.2 ?_, h⟩⟩
  have hstate : ((s.slotAt j).state != .empty) = true := (Bool.and_eq_true_iff.1 h).2
  exact State.lt_length_of_state (bne_iff_ne.1 hstate)

theorem State.clearedRecords_eq : s.clearedRecords =
    (List.range s.slots.length).filter fun j => s.clearsSlot j && (s.slotAt j).journaled != .empty := by
  rw [State.clearedRecords, State.clearedSlots, List.filter_filter]
  simp only [Bool.and_comm]

theorem State.losesFallback_clearedSlots (u : Nat) : s.losesFallback s.clearedSlots u =
    (List.range s.slots.length).any fun j =>
      s.clearsSlot j && (s.slotAt j).state == .fallback && (s.slotAt j).target? == some u := by
  rw [State.losesFallback, State.clearedSlots, List.any_filter]
  simp only [Bool.and_assoc]

theorem State.clearedSlots_nodup : s.clearedSlots.Nodup := List.nodup_range.filter _

/-- With the slots emptied, every SLOT record takes its slot to EMPTY. -/
theorem State.clearedSlots_goesEarly (i : Nat) (h : i ∈ s.clearedRecords) :
    (s.clearedSlots.foldl (fun s i => s.emptySlot i) s).goesEarly i = true := by
  rw [State.goesEarly, State.foldl_emptySlot_slotAt, if_pos (List.mem_of_mem_filter h)]
  rfl

theorem State.stagingCleared_eq : s.stagingCleared =
    s.clearedTargets.foldl (fun s t => s.offerTarget .request t)
      (s.clearedRecords.foldl (fun s i => s.offerSlot .request i)
        (s.clearedSlots.foldl (fun s i => s.emptySlot i) s)) :=
  State.offerInOrder_of_early _ _ s.clearedSlots_goesEarly _

theorem State.stagingCleared_journals :
    (s.clearedSlots.foldl (fun s i => s.emptySlot i) s).Journals s.stagingCleared := State.offerInOrder_journals ..

theorem State.stagingCleared_standing : s.stagingCleared.standing = s.standing :=
  (State.offerInOrder_standing ..).trans (s.foldl_emptySlot_rosterOnly _).standing

theorem State.stagingCleared_log : s.stagingCleared.log = s.log :=
  s.stagingCleared_journals.log.trans (s.foldl_emptySlot_rosterOnly _).log

theorem State.stagingCleared_slotAt (j : Nat) :
    s.stagingCleared.slotAt j = if s.clearsSlot j = true then SlotRec.blank else s.slotAt j := by
  rw [State.slotAt, State.stagingCleared_eq, State.foldl_offerTarget_slots, ← State.slotAt,
    State.foldl_offerSlot_slotAt, State.foldl_emptySlot_slotAt]
  by_cases hj : s.clearsSlot j = true
  · have hmem := (s.mem_clearedSlots j).2 hj
    rw [if_pos hj, if_pos hmem]
    split
    · rfl
    · next hrec =>
      have hjournaled : (s.slotAt j).journaled = .empty := by
        by_contra hne
        exact hrec (List.mem_filter.2 ⟨hmem, bne_iff_ne.2 hne⟩)
      rw [SlotRec.emptied, hjournaled]
      rfl
  · have hmem : j ∉ s.clearedSlots := fun h => hj ((s.mem_clearedSlots j).1 h)
    have hrec : j ∉ s.clearedRecords := fun h => hmem (List.mem_of_mem_filter h)
    rw [if_neg hj, if_neg hmem, if_neg hrec]

theorem State.stagingCleared_dynAt {u : Nat} (hu : u < 16) : s.stagingCleared.dynAt u =
    if s.losesFallback s.clearedSlots u then (s.dynAt u).fallbackLost else s.dynAt u :=
  (s.stagingCleared_journals.dynAt u).trans (State.foldl_emptySlot_dynAt s.clearedSlots_nodup hu)

theorem State.stagingCleared_slotFree {j : Nat} (h : s.clearsSlot j = true) : s.stagingCleared.SlotFree j := by
  have hfree := State.foldl_emptySlot_slotFree (s := s) (.inr ((s.mem_clearedSlots j).2 h))
  rw [State.stagingCleared_eq]
  refine List.foldlRecOn _ _ (List.foldlRecOn _ _ hfree ?_) ?_ <;>
    exact fun u hu k _ => hu.of_fewer (fun _ => id) (fun _ => id) (fun _ => id) fun _ => id

/-- R131: the records of CLEAR_STAGING: the SLOT records first, then the TARGET records. -/
def State.clearedOffers : List Offer :=
  s.clearedRecords.map (fun j =>
    { payload := .slot j { state := .empty, decayed := false, summary := none }, owner := .request }) ++
  s.clearedTargets.map fun u => { payload := .target u (s.dynAt u).fallbackLost, owner := .request }

theorem State.stagingCleared_offers : s.stagingCleared.store.offers = s.store.offers ++ s.clearedOffers := by
  set v := s.clearedSlots.foldl (fun s i => s.emptySlot i) s
  have hslots : s.clearedRecords.map (v.slotOffer .request) = s.clearedRecords.map fun j =>
      { payload := .slot j { state := .empty, decayed := false, summary := none }, owner := .request } := by
    refine List.map_congr_left fun j hj => ?_
    rw [State.slotOffer, State.foldl_emptySlot_slotAt, if_pos (List.mem_of_mem_filter hj)]
    rfl
  have htargets : s.clearedTargets.map ((s.clearedRecords.foldl (fun s i => s.offerSlot .request i) v).targetOffer
      .request) = s.clearedTargets.map fun u => { payload := .target u (s.dynAt u).fallbackLost, owner := .request } := by
    refine List.map_congr_left fun u hu => ?_
    obtain ⟨hlt, hloses⟩ := List.mem_filter.1 hu
    rw [State.targetOffer, (State.foldl_journals v (fun u i => u.offerSlot_journals .request i) _).dynAt,
      State.foldl_emptySlot_dynAt s.clearedSlots_nodup (List.mem_range.1 hlt), if_pos hloses]
  rw [State.stagingCleared_eq, State.foldl_offerTarget_offers, State.foldl_offerSlot_offers, hslots, htargets,
    (s.foldl_emptySlot_rosterOnly _).store, List.append_assoc]
  rfl

/-- R125: every record is the request's, so it waits where it offers one. -/
theorem State.stagingCleared_owes (h : s.clearedOffers ≠ []) : s.stagingCleared.store.owes .request = true := by
  obtain ⟨x, hx⟩ := List.exists_mem_of_ne_nil _ h
  have howner : x.owner = .request := by
    rcases List.mem_append.1 hx with hx | hx <;> obtain ⟨_, -, rfl⟩ := List.mem_map.1 hx <;> rfl
  rw [Store.owes, State.stagingCleared_offers]
  exact List.any_eq_true.2 ⟨x, List.mem_append_right _ hx, beq_iff_eq.2 howner⟩

theorem State.stagingCleared_owes_of_nil (h : s.clearedOffers = []) (o : Owner) :
    s.stagingCleared.store.owes o = s.store.owes o := by
  rw [Store.owes, State.stagingCleared_offers, h, List.append_nil]
  rfl

end

theorem exec_clearStaging {s : State} (serial : Word) (h : s.takesRequests) :
    exec (.clearStaging serial) s = .next (s.taken serial 5 0 0 0 0).reqClearStaging := by
  rw [← s.request_taken serial 5 0 0 0 0 State.reqClearStaging h]
  rfl

/-- Settles O29. The statement's terms are those of the slots that go; the sweep and the engine that follow change queued
marks alone and find no work in an emptied slot. -/
theorem clearStaging : Obligations.ClearStaging := by
  intro serial s hs emptied loses unmarked records
  rw [exec_clearStaging serial hs]
  set base := s.taken serial 5 0 0 0 0
  have hemptied : emptied = base.clearsSlot := funext fun j => (base.clearsSlot_eq j).symm
  have hloses : loses = base.losesFallback base.clearedSlots := by
    refine funext fun u => Eq.trans ?_ (base.losesFallback_clearedSlots u).symm
    rw [← hemptied]
    rfl
  have hrecords : records = base.clearedOffers := by
    rw [State.clearedOffers, State.clearedRecords_eq, State.clearedTargets, ← hemptied, ← hloses]
    rfl
  clear_value emptied loses records
  subst hemptied hloses hrecords
  rw [State.reqClearStaging_eq, State.requestAwaits_eq]
  set v := base.stagingCleared
  set w : State := { v with lastOutcome := if v.store.owes .request then .pending else .done, lastReason := none }
  have hslot (j : Nat) : w.slotAt j = if base.clearsSlot j = true then SlotRec.blank else s.slotAt j :=
    base.stagingCleared_slotAt j
  have hkept {j : Nat} (hj : base.clearsSlot j = false) : w.slotAt j = s.slotAt j :=
    (hslot j).trans (if_neg (by rw [hj]; decide))
  have hblank {j : Nat} (hj : base.clearsSlot j = true) : w.slotAt j = SlotRec.blank := (hslot j).trans (if_pos hj)
  have hfree {j : Nat} (hj : base.clearsSlot j = true) : w.resettle.SlotFree j :=
    State.SlotFree.resettle ((base.stagingCleared_slotFree hj).of_fewer (fun _ => id) (fun _ => id) (fun _ => id)
      fun _ => id) (by rw [hblank hj]; decide)
  have hnot {x : Nat} (h : base.clearsSlot x = true → False) : base.clearsSlot x = false := Bool.not_eq_true _ ▸ h
  have hdevice : base.SameDevice w.resettle := (State.SameDevice.of_standing base.stagingCleared_standing).answered _ _
  refine ⟨_, rfl, fun j hj => ?_, fun j hj => ⟨?_, fun hf => ?_⟩, fun u hu => ?_, fun m hm => ?_, fun e he => ?_,
    fun j hj hi => (hfree hi).job j hj rfl, ?_, fun hr => ?_, fun hr ho => ?_, hdevice.flash, ?_, hdevice.map,
    hdevice.pool, hdevice.health, hdevice.clean, hdevice.guard, hdevice.tracker, hdevice.keys, hdevice.statics,
    hdevice.cfg⟩
  · exact (w.resettle_marksOnly.slotAt_eq j (by rw [hblank hj]; decide)).trans (hblank hj)
  · exact (w.resettle_unmarked j).trans (congrArg SlotRec.unmarked (hkept hj))
  · exact (w.resettle_marksOnly.slotAt_eq j (by rwa [hkept hj])).trans (hkept hj)
  · exact (w.resettle_dynAt u).trans (base.stagingCleared_dynAt hu)
  · exact hnot fun h => (hfree h).listed m hm rfl
  · exact hnot fun h => (hfree h).queue e he rfl
  · exact (congrArg Store.offers w.resettle_store).trans base.stagingCleared_offers
  · exact (State.resettle_books w).lastOutcome.trans (if_pos (base.stagingCleared_owes hr))
  · have howes : ¬ v.store.owes .request = true := by
      rw [base.stagingCleared_owes_of_nil hr]
      exact Bool.not_eq_true _ ▸ ho
    exact (State.resettle_books w).lastOutcome.trans (if_neg howes)
  · exact w.resettle_log.trans base.stagingCleared_log

end Sys2Proof.Machine
end

section
/-! A trial confirmed (R127, R128): CONFIRM. -/

namespace Sys2Proof.Machine

open Sys2Proof

/-! ### What a confirmation reads of a slot, and what becomes of its state -/

/-- The state and the summary of a slot: what a confirmation judges it by. -/
def SlotRec.claim (r : SlotRec) : SlotState × Option Summary := (r.state, r.summary)

/-- R128: what the state of a slot below the new floor becomes. -/
def SlotState.outdate (x : SlotState) : SlotState :=
  match x with
  | .sealed => .outdated
  | .filling => .rejected
  | x => x

theorem SlotState.outdate_of_ne {x : SlotState} (h : ¬ (x = .sealed ∨ x = .filling)) : x.outdate = x := by
  cases x <;> simp [SlotState.outdate] at h ⊢

section
variable {r q : SlotRec} {floor : Nat}

theorem SlotRec.state_of_claim (h : r.claim = q.claim) : r.state = q.state := congrArg Prod.fst h

theorem SlotRec.version_of_claim (h : r.claim = q.claim) : r.version = q.version :=
  congrArg (fun x : SlotState × Option Summary => (x.2.map Summary.version).getD 0) h

theorem SlotRec.belowFloor_state : (r.belowFloor floor).state = if r.version < floor then r.state.outdate else r.state := by
  unfold SlotRec.belowFloor
  split
  · cases h : r.state <;> simp [h, SlotState.outdate]
  · rfl

theorem SlotRec.belowFloor_state_congr (h : r.claim = q.claim) :
    (r.belowFloor floor).state = (q.belowFloor floor).state := by
  rw [SlotRec.belowFloor_state, SlotRec.belowFloor_state, SlotRec.version_of_claim h, SlotRec.state_of_claim h]

/-- R127: a slot that leaves its role is SEALED only at or above the floor, so the floor takes nothing more from it. -/
theorem SlotRec.outdate_leaveRole (h : r.version < floor) :
    (r.leaveRole floor).state.outdate = (r.leaveRole floor).state := by
  have hf : ¬ floor ≤ r.version := Nat.not_le.2 h
  unfold SlotRec.leaveRole
  cases r.decayed <;> simp [hf, SlotState.outdate]

end

/-! ### The slots below the new floor (R128) -/

section
variable (s : State)

theorem State.confirmDrops_rosterOnly (i : Nat) : s.RosterOnly (s.confirmDrops i) :=
  ((s.dropSlotJobs_rosterOnly i).trans (State.dropManifest_rosterOnly ..)).trans (State.updSlot_rosterOnly ..)

theorem State.outdate_rosterOnly (floor i : Nat) : s.RosterOnly (s.outdate floor i) :=
  (s.confirmDrops_rosterOnly i).trans (State.updSlot_rosterOnly ..)

theorem State.confirmDrops_targets (i : Nat) : (s.confirmDrops i).targets = s.targets := by
  rw [State.confirmDrops, State.updSlot_targets, State.dropManifest_targets, State.dropSlotJobs_targets]

theorem State.outdate_targets (floor i : Nat) : (s.outdate floor i).targets = s.targets := by
  rw [State.outdate, State.updSlot_targets, State.confirmDrops_targets]

theorem State.confirmDrops_claim (i j : Nat) : ((s.confirmDrops i).slotAt j).claim = (s.slotAt j).claim := by
  have hdrop : ((s.dropSlotJobs i).slotAt j).claim = (s.slotAt j).claim := by
    rw [State.dropSlotJobs_slotAt]
    split <;> rfl
  rw [State.confirmDrops, State.slotAt_updSlot]
  split <;> exact hdrop

theorem State.outdate_claim_of_ne {floor i j : Nat} (h : i ≠ j) :
    ((s.outdate floor i).slotAt j).claim = (s.slotAt j).claim := by
  rw [State.outdate, State.slotAt_updSlot_ne _ h]
  exact s.confirmDrops_claim i j

theorem State.outdate_state_same (floor i : Nat) :
    ((s.outdate floor i).slotAt i).state = ((s.slotAt i).belowFloor floor).state := by
  have hclaim := s.confirmDrops_claim i i
  rw [State.outdate, State.slotAt_updSlot, ← SlotRec.belowFloor_state_congr hclaim]
  split
  · rfl
  · next h =>
    rw [State.slotAt_of_length_le (Nat.le_of_not_lt fun hi => h ⟨rfl, hi⟩), SlotRec.belowFloor_state]
    exact (ite_self _).symm

theorem State.foldl_outdate_state (floor : Nat) {l : List Nat} (h : l.Nodup) (j : Nat) :
    ((l.foldl (fun s j => s.outdate floor j) s).slotAt j).state =
      if j ∈ l then ((s.slotAt j).belowFloor floor).state else (s.slotAt j).state := by
  induction l generalizing s with
  | nil => rfl
  | cons i l ih =>
    obtain ⟨hi, hl⟩ := List.nodup_cons.1 h
    rw [List.foldl_cons, ih _ hl]
    by_cases hij : i = j
    · subst hij
      rw [if_neg hi, if_pos List.mem_cons_self, State.outdate_state_same]
    · have hclaim := s.outdate_claim_of_ne (floor := floor) hij
      rw [SlotRec.belowFloor_state_congr hclaim, SlotRec.state_of_claim hclaim]
      simp only [List.mem_cons, Ne.symm hij, false_or]

theorem State.belowFloor_nodup (t floor : Nat) : (s.belowFloor t floor).Nodup := List.nodup_range.filter _

theorem State.mem_belowFloor (t floor j : Nat) : j ∈ s.belowFloor t floor ↔
    (s.slotAt j).target? = some t ∧ ((s.slotAt j).state = .sealed ∨ (s.slotAt j).state = .filling) ∧
      (s.slotAt j).version < floor := by
  simp only [State.belowFloor, List.mem_filter, List.mem_range, Bool.and_eq_true, Bool.or_eq_true, beq_iff_eq,
    decide_eq_true_eq, and_assoc, and_iff_right_iff_imp]
  exact fun h => s.slot_lt_of_target h.1

end

/-! ### The slots whose roles move (R127) -/

/-- R127: the old fallback slot leaves its role. -/
def State.freed (floor : Nat) (f : Option Nat) (s : State) : State :=
  match f with
  | none => s
  | some f =>
    let s' := s.updSlot f (SlotRec.leaveRole floor)
    if (s'.slotAt f).state = SlotState.sealed then s' else s'.confirmDrops f

/-- R127: the old active slot becomes FALLBACK. -/
def State.demoted (a : Option Nat) (s : State) : State :=
  match a with
  | none => s
  | some a => s.updSlot a fun r => { r with state := .fallback }

/-- R127: the target's fields after a confirmation. -/
def TargetDyn.confirmed (i floor : Nat) (d : TargetDyn) : TargetDyn :=
  { d with floor := floor, active := some i, fallback := d.active, trial := none, bootsLeft := 0, recovery := false }

section
variable (s : State)

theorem State.confirmRoles_eq (i t floor : Nat) : s.confirmRoles i t floor =
    (((s.freed floor (s.dynAt t).fallback).demoted (s.dynAt t).active).updSlot i
      fun r => { r with state := .active }).updDyn t (TargetDyn.confirmed i floor) := rfl

theorem State.freed_rosterOnly (floor : Nat) (f : Option Nat) : s.RosterOnly (s.freed floor f) := by
  unfold State.freed
  split
  · exact .refl s
  · dsimp only
    split
    · exact s.updSlot_rosterOnly ..
    · exact (s.updSlot_rosterOnly ..).trans (State.confirmDrops_rosterOnly ..)

theorem State.freed_length (floor : Nat) (f : Option Nat) : (s.freed floor f).slots.length = s.slots.length := by
  have hdrop (u : State) (i : Nat) : (u.confirmDrops i).slots.length = u.slots.length :=
    (State.slots_length_updSlot ..).trans (State.slots_length_updSlot ..)
  unfold State.freed
  split
  · rfl
  · dsimp only
    split
    · exact s.slots_length_updSlot ..
    · exact (hdrop ..).trans (s.slots_length_updSlot ..)

theorem State.freed_targets (floor : Nat) (f : Option Nat) : (s.freed floor f).targets = s.targets := by
  unfold State.freed
  split
  · rfl
  · dsimp only
    split
    · exact s.updSlot_targets ..
    · exact (State.confirmDrops_targets ..).trans (s.updSlot_targets ..)

theorem State.freed_claim (floor : Nat) (f : Option Nat) {j : Nat} (hj : j < s.slots.length) :
    ((s.freed floor f).slotAt j).claim =
      if f = some j then ((s.slotAt j).leaveRole floor).claim else (s.slotAt j).claim := by
  cases f with
  | none => rfl
  | some f =>
    have hleave : ((s.updSlot f (SlotRec.leaveRole floor)).slotAt j).claim =
        if some f = some j then ((s.slotAt j).leaveRole floor).claim else (s.slotAt j).claim := by
      rw [State.slotAt_updSlot]
      by_cases hf : f = j <;> simp [hf, hj]
    unfold State.freed
    dsimp only
    split
    · exact hleave
    · exact (State.confirmDrops_claim ..).trans hleave

theorem State.demoted_rosterOnly (a : Option Nat) : s.RosterOnly (s.demoted a) := by
  cases a with
  | none => exact .refl s
  | some a => exact s.updSlot_rosterOnly ..

theorem State.demoted_length (a : Option Nat) : (s.demoted a).slots.length = s.slots.length := by
  cases a with
  | none => rfl
  | some a => exact s.slots_length_updSlot ..

theorem State.demoted_targets (a : Option Nat) : (s.demoted a).targets = s.targets := by cases a <;> rfl

theorem State.demoted_claim (a : Option Nat) {j : Nat} (hj : j < s.slots.length) :
    ((s.demoted a).slotAt j).claim = if a = some j then (.fallback, (s.slotAt j).summary) else (s.slotAt j).claim := by
  cases a with
  | none => rfl
  | some a =>
    rw [State.demoted, State.slotAt_updSlot]
    by_cases ha : a = j <;> simp [ha, hj, SlotRec.claim]

variable (i t floor : Nat)

theorem State.confirmRoles_rosterOnly : s.RosterOnly (s.confirmRoles i t floor) :=
  ((s.freed_rosterOnly floor _).trans (State.demoted_rosterOnly ..)).trans
    ((State.updSlot_rosterOnly ..).trans (State.updDyn_rosterOnly ..))

theorem State.confirmRoles_targets :
    (s.confirmRoles i t floor).targets = s.targets.modify t (TargetDyn.confirmed i floor) := by
  rw [State.confirmRoles_eq, State.updDyn_targets, State.updSlot_targets, State.demoted_targets, State.freed_targets]

/-- R127: the state of a slot whose roles have moved: the confirmed slot, the old active slot, the old fallback slot, and
every other. -/
def State.movedState (j : Nat) : SlotState :=
  if i = j then .active
  else if (s.dynAt t).active = some j then .fallback
  else if (s.dynAt t).fallback = some j then ((s.slotAt j).leaveRole floor).state
  else (s.slotAt j).state

theorem State.confirmRoles_claim {j : Nat} (hj : j < s.slots.length) :
    ((s.confirmRoles i t floor).slotAt j).claim = (s.movedState i t floor j, (s.slotAt j).summary) := by
  set u := s.freed floor (s.dynAt t).fallback
  set v := u.demoted (s.dynAt t).active
  have hu : j < u.slots.length := (s.freed_length ..).symm ▸ hj
  have hv : j < v.slots.length := (u.demoted_length ..).symm ▸ hu
  have hfreed := s.freed_claim floor (s.dynAt t).fallback hj
  have hdemoted := u.demoted_claim (s.dynAt t).active hu
  have hsummary : (u.slotAt j).summary = (s.slotAt j).summary := by
    refine (congrArg Prod.snd hfreed).trans ?_
    split <;> rfl
  have hsummary' : (v.slotAt j).summary = (s.slotAt j).summary := by
    refine (congrArg Prod.snd hdemoted).trans ?_
    split <;> exact hsummary
  show ((v.updSlot i fun r => { r with state := .active }).slotAt j).claim = _
  rw [State.slotAt_updSlot, State.movedState]
  by_cases hi : i = j
  · rw [if_pos ⟨hi, hv⟩, if_pos hi]
    exact congrArg (Prod.mk _) hsummary'
  · rw [if_neg fun h => hi h.1, if_neg hi, hdemoted]
    split
    · exact congrArg (Prod.mk _) hsummary
    · rw [hfreed]
      split <;> rfl

/-! ### The whole confirmation (R127, R128) -/

/-- R127, R128: the slots whose roles move, and then the slots below the new floor. -/
def State.confirmed (i t floor : Nat) (s : State) : State :=
  (s.belowFloor t floor).foldl (fun s j => s.outdate floor j) (s.confirmRoles i t floor)

theorem State.confirmed_rosterOnly : s.RosterOnly (s.confirmed i t floor) :=
  (s.confirmRoles_rosterOnly ..).trans (.foldl (fun u j => u.outdate_rosterOnly floor j) _ _)

theorem State.confirmed_targets : (s.confirmed i t floor).targets = s.targets.modify t (TargetDyn.confirmed i floor) :=
  List.foldlRecOn (motive := fun u : State => u.targets = s.targets.modify t (TargetDyn.confirmed i floor)) _ _
    (s.confirmRoles_targets i t floor) fun u hu j _ => (u.outdate_targets floor j).trans hu

theorem State.confirmed_state {j : Nat} (hj : j < s.slots.length) :
    ((s.confirmed i t floor).slotAt j).state =
      if j ∈ s.belowFloor t floor then (s.movedState i t floor j).outdate else s.movedState i t floor j := by
  have hclaim := s.confirmRoles_claim i t floor hj
  have hstate : ((s.confirmRoles i t floor).slotAt j).state = s.movedState i t floor j := congrArg Prod.fst hclaim
  have hversion : ((s.confirmRoles i t floor).slotAt j).version = (s.slotAt j).version :=
    congrArg (fun x : SlotState × Option Summary => (x.2.map Summary.version).getD 0) hclaim
  rw [State.confirmed, State.foldl_outdate_state _ _ (s.belowFloor_nodup t floor), SlotRec.belowFloor_state, hversion,
    hstate]
  by_cases hb : j ∈ s.belowFloor t floor
  · obtain ⟨-, -, hlt⟩ := (s.mem_belowFloor t floor j).1 hb
    rw [if_pos hb, if_pos hb, if_pos hlt]
  · rw [if_neg hb, if_neg hb]

/-- R127: the confirmed slot becomes ACTIVE. -/
theorem State.confirmed_state_confirmed (hi : (s.slotAt i).state = .trial) :
    ((s.confirmed i t floor).slotAt i).state = .active := by
  have hlt : i < s.slots.length := State.lt_length_of_state (by rw [hi]; decide)
  have hmoved : s.movedState i t floor i = .active := if_pos rfl
  rw [State.confirmed_state _ _ _ _ hlt, hmoved]
  exact ite_self _

/-- R127: the old active slot becomes FALLBACK. -/
theorem State.confirmed_state_active {a : Nat} (ha : (s.dynAt t).active = some a) (hai : a ≠ i)
    (hlt : a < s.slots.length) : ((s.confirmed i t floor).slotAt a).state = .fallback := by
  have hmoved : s.movedState i t floor a = .fallback := (if_neg hai.symm).trans (if_pos ha)
  rw [State.confirmed_state _ _ _ _ hlt, hmoved]
  exact ite_self _

/-- R127: the old fallback slot becomes FAILED, SEALED or OUTDATED. -/
theorem State.confirmed_state_fallback {f : Nat} (hf : (s.dynAt t).fallback = some f) (hfi : f ≠ i)
    (hfa : (s.dynAt t).active ≠ some f) (hlt : f < s.slots.length) :
    ((s.confirmed i t floor).slotAt f).state = ((s.slotAt f).leaveRole floor).state := by
  have hmoved : s.movedState i t floor f = ((s.slotAt f).leaveRole floor).state :=
    (if_neg hfi.symm).trans ((if_neg hfa).trans (if_pos hf))
  rw [State.confirmed_state _ _ _ _ hlt, hmoved]
  split
  · next hb => exact SlotRec.outdate_leaveRole ((s.mem_belowFloor t floor f).1 hb).2.2
  · rfl

/-- R128: every other slot of the target below the floor is OUTDATED or REJECTED where it was SEALED or FILLING. -/
theorem State.confirmed_state_other {j : Nat} (hji : j ≠ i) (hja : (s.dynAt t).active ≠ some j)
    (hjf : (s.dynAt t).fallback ≠ some j) (hlt : j < s.slots.length) :
    ((s.confirmed i t floor).slotAt j).state =
      if (s.slotAt j).target? = some t ∧ (s.slotAt j).version < floor then (s.slotAt j).state.outdate
      else (s.slotAt j).state := by
  have hmoved : s.movedState i t floor j = (s.slotAt j).state :=
    (if_neg hji.symm).trans ((if_neg hja).trans (if_neg hjf))
  rw [State.confirmed_state _ _ _ _ hlt, hmoved]
  simp only [State.mem_belowFloor]
  by_cases hst : (s.slotAt j).state = .sealed ∨ (s.slotAt j).state = .filling
  · simp only [hst, true_and]
  · rw [SlotState.outdate_of_ne hst, ite_self, ite_self]

/-! ### The log entries and the records of a confirmation (R125, R128) -/

theorem State.foldl_confirmLog_frame (before : State) (l : List Nat) :
    (l.foldl (fun x j => x.confirmLog before j) s).slots = s.slots ∧
      (l.foldl (fun x j => x.confirmLog before j) s).targets = s.targets ∧
      (l.foldl (fun x j => x.confirmLog before j) s).standing = s.standing := by
  refine List.foldlRecOn (motive := fun u : State => u.slots = s.slots ∧ u.targets = s.targets ∧
    u.standing = s.standing) l _ ⟨rfl, rfl, rfl⟩ fun u hu j _ => ?_
  unfold State.confirmLog
  split <;> exact hu

/-- R125, R128: the confirmation with its log entries, and its records offered. -/
def State.confirmOffered (i t floor : Nat) (s : State) : State :=
  let changed := changedSlots s (s.confirmed i t floor)
  (changed.foldl (fun x j => x.confirmLog s j) ((s.confirmed i t floor).appendLog
    { LogEntry.of .confirmed with slot := some i, target := some t, value := some floor })).offerInOrder .request changed
    [t]

theorem State.confirmOffered_state (j : Nat) :
    ((s.confirmOffered i t floor).slotAt j).state = ((s.confirmed i t floor).slotAt j).state := by
  refine ((State.offerInOrder_journals ..).state j).trans ?_
  obtain ⟨hslots, -, -⟩ := State.foldl_confirmLog_frame ((s.confirmed i t floor).appendLog
    { LogEntry.of .confirmed with slot := some i, target := some t, value := some floor }) s
    (changedSlots s (s.confirmed i t floor))
  rw [State.slotAt, hslots]
  rfl

theorem State.confirmOffered_targets :
    (s.confirmOffered i t floor).targets = s.targets.modify t (TargetDyn.confirmed i floor) :=
  (State.offerInOrder_journals ..).targets.trans
    ((State.foldl_confirmLog_frame ..).2.1.trans (s.confirmed_targets i t floor))

theorem State.confirmOffered_standing : (s.confirmOffered i t floor).standing = s.standing :=
  (State.offerInOrder_standing ..).trans
    ((State.foldl_confirmLog_frame ..).2.2.trans (s.confirmed_rosterOnly i t floor).standing)

end

section
variable {s : State} {slot : Word} {m : Summary}

theorem exec_confirm (serial : Word) (h : s.takesRequests) :
    exec (.confirm serial slot) s = .next ((s.taken serial 2 slot 0 0 0).reqConfirm slot) :=
  congrArg _ (s.request_taken serial 2 slot 0 0 0 (State.reqConfirm slot) h)

theorem State.reqConfirm_badArg (h : 2 ^ s.code ≤ slot.toNat) : s.reqConfirm slot = s.turnedDown .badArg := by
  rw [State.reqConfirm, State.not_namesSlot_of_le h]
  rfl

theorem State.reqConfirm_wrongState (h : slot.toNat < 2 ^ s.code) (hs : (s.slotAt slot.toNat).state ≠ .trial) :
    s.reqConfirm slot = s.turnedDown .wrongState := by
  have hbar : (!((s.slotAt slot.toNat).state == .trial)) = true := by simp [hs]
  rw [State.reqConfirm, State.namesSlot_of_lt h]
  exact if_pos hbar

/-- R127: past the checks of the slot, that of a boot-mapped target's booted slot decides. -/
theorem State.reqConfirm_of_trial (h : slot.toNat < 2 ^ s.code) (hs : (s.slotAt slot.toNat).state = .trial)
    (hm : (s.slotAt slot.toNat).summary = some m) :
    s.reqConfirm slot =
      if s.bootTarget = some m.target ∧ (s.dynAt m.target).booted ≠ some slot.toNat then s.turnedDown .notBooted
      else (s.confirmOffered slot.toNat m.target
        (max (s.dynAt m.target).floor m.version)).requestPending.resettle := by
  rw [State.reqConfirm, State.namesSlot_of_lt h, SlotRec.target?, SlotRec.version, hm, hs]
  rfl

end

/-- Settles O26: the checks in order, and past them the state of each slot by its place in the target's old fields. The
log, the records, the sweep and the engine that follow keep the slots' states and the targets. -/
theorem confirm : Obligations.Confirm := by
  intro serial slot s hs i r base
  rw [exec_confirm serial hs]
  refine ⟨fun h => congrArg _ (State.reqConfirm_badArg h), fun h hr => congrArg _ (State.reqConfirm_wrongState h hr),
    fun m h hst hm ht => ?_⟩
  extract_lets d floor
  have hreq := State.reqConfirm_of_trial (s := base) h hst hm
  refine ⟨fun hb hn => congrArg _ (hreq.trans (if_pos ⟨hb, hn⟩)), fun hb => ?_⟩
  rw [hreq, if_neg fun hn => hn.2 (hb hn.1)]
  set w := (base.confirmOffered i m.target floor).requestPending
  have htargets : w.resettle.targets = base.targets.modify m.target (TargetDyn.confirmed i floor) :=
    w.resettle_targets.trans (base.confirmOffered_targets i m.target floor)
  have hstate (j : Nat) : (w.resettle.slotAt j).state = ((base.confirmed i m.target floor).slotAt j).state :=
    (w.resettle_marksOnly.state_eq j).trans (base.confirmOffered_state i m.target floor j)
  have hdyn (u : Nat) : w.resettle.dynAt u = (base.updDyn m.target (TargetDyn.confirmed i floor)).dynAt u :=
    congrArg (List.getD · u TargetDyn.blank) htargets
  have hdevice : base.SameDevice w.resettle :=
    (State.SameDevice.of_standing (base.confirmOffered_standing i m.target floor)).answered _ _
  refine ⟨_, rfl, (State.resettle_books w).lastOutcome, ?_, fun u hu => ?_, ?_, fun a ha hai hlt => ?_,
    fun f hf hfi hfa hlt => ?_, fun j hji hja hjf hlt => ?_, hdevice.flash, hdevice.tracker, hdevice.guard, hdevice.map,
    hdevice.pool, hdevice.health, hdevice.clean, hdevice.keys, hdevice.statics, hdevice.cfg, hdevice.reqPage,
    hdevice.pendingWD⟩
  · exact (hdyn m.target).trans ((base.dynAt_updDyn ..).trans (if_pos ⟨rfl, ht⟩))
  · exact (hdyn u).trans (base.dynAt_updDyn_ne hu.symm _)
  · exact (hstate i).trans (base.confirmed_state_confirmed i m.target floor hst)
  · exact (hstate a).trans (base.confirmed_state_active i m.target floor ha hai hlt)
  · exact (hstate f).trans (base.confirmed_state_fallback i m.target floor hf hfi hfa hlt)
  · exact (hstate j).trans (base.confirmed_state_other i m.target floor hji hja hjf hlt)

end Sys2Proof.Machine
end

section
/-! What a reset cuts in the on-die memory, and what every part reset leaves (R141, R181, R182, 12.2). -/

namespace Sys2Proof.Machine

open Sys2Proof

/-! ### The write cut in the port (R141) -/

/-- R141: the store with the write in its port cut, the halves not yet read again and nothing lost. -/
def Store.portCut (rowBlank : Bool) (st : Store) : Store :=
  match st.port with
  | some (.record h pos _) => st.updHalf h fun x => { x with cells := putCell pos .torn x.cells }
  | some (.snapshot h pos _) => st.updHalf h fun x => { x with cells := putCell pos .torn x.cells }
  | some (.row w) => st.spoilRow rowBlank w
  | none => st

theorem Store.cut_eq (b : Bool) (k : Nat) (st : Store) :
    st.cut b k = { Store.factory with
      geometryRow := (st.portCut b).geometryRow, profileRow := (st.portCut b).profileRow
      partitionRow := (st.portCut b).partitionRow, settingsRow := (st.portCut b).settingsRow
      keyRow := (st.portCut b).keyRow, targetRows := (st.portCut b).targetRows
      identityRow := (st.portCut b).identityRow
      half0 := (st.portCut b).half0.cutBy k, half1 := (st.portCut b).half1.cutBy (k + 1) } := rfl

theorem HalfState.cutBy_cells {x : HalfState} (h : x.cond ≠ .erasing) (k : Nat) : (x.cutBy k).cells = x.cells :=
  if_neg h

section
variable {st : Store} (b : Bool) (k : Nat)

theorem Store.portCut_of_free (hp : st.port = none) : st.portCut b = st := by
  rw [Store.portCut, hp]

/-- A record's write, of an append or of a snapshot, leaves its position failing its check. -/
theorem Store.portCut_of_writing {h : Half} {pos : Nat} {r : Record}
    (hp : st.port = some (.record h pos r) ∨ st.port = some (.snapshot h pos r)) :
    st.portCut b = st.updHalf h fun x => { x with cells := putCell pos .torn x.cells } := by
  rcases hp with hp | hp <;> rw [Store.portCut, hp]

theorem Store.updHalf_half_ne {h h' : Half} (hne : h ≠ h') (f : HalfState → HalfState) :
    (st.updHalf h f).half h' = st.half h' := by
  match h, h' with
  | .h0, .h1 | .h1, .h0 => rfl
  | .h0, .h0 | .h1, .h1 => exact absurd rfl hne

theorem Store.spoilRow_half (w : RowWrite) (h : Half) : (st.spoilRow b w).half h = st.half h := by
  cases w <;> cases h <;> rfl

/-- The cut of a write reaches the cells of a half, not its condition or its mark. -/
theorem Store.portCut_half (h : Half) :
    ((st.portCut b).half h).cond = (st.half h).cond ∧ ((st.portCut b).half h).eraseCut = (st.half h).eraseCut := by
  have hput (h' : Half) (pos : Nat) :
      ((st.updHalf h' fun x => { x with cells := putCell pos .torn x.cells }).half h).cond = (st.half h).cond ∧
      ((st.updHalf h' fun x => { x with cells := putCell pos .torn x.cells }).half h).eraseCut =
        (st.half h).eraseCut := by
    by_cases hh : h' = h
    · subst hh
      rw [Store.updHalf_half_same]
      exact ⟨rfl, rfl⟩
    · rw [Store.updHalf_half_ne hh]
      exact ⟨rfl, rfl⟩
  unfold Store.portCut
  split
  · exact hput _ _
  · exact hput _ _
  · rw [Store.spoilRow_half]
    exact ⟨rfl, rfl⟩
  · exact ⟨rfl, rfl⟩

theorem Store.cut_half (h : Half) : ∃ j, (st.cut b k).half h = ((st.portCut b).half h).cutBy j := by
  cases h with
  | h0 => exact ⟨k, rfl⟩
  | h1 => exact ⟨k + 1, rfl⟩

/-- A half that is not erasing keeps its cells but for a write cut in it. -/
theorem Store.cut_half_cells {h : Half} (he : (st.half h).cond ≠ .erasing) :
    ((st.cut b k).half h).cells = ((st.portCut b).half h).cells := by
  obtain ⟨j, hj⟩ := st.cut_half b k h
  rw [hj, HalfState.cutBy_cells]
  rwa [(st.portCut_half b h).1]

theorem Store.cut_half_cells_of_writing {h : Half} {pos : Nat} {r : Record}
    (hp : st.port = some (.record h pos r) ∨ st.port = some (.snapshot h pos r)) (he : (st.half h).cond ≠ .erasing) :
    ((st.cut b k).half h).cells = putCell pos .torn (st.half h).cells := by
  rw [Store.cut_half_cells b k he, Store.portCut_of_writing b hp, Store.updHalf_half_same]

theorem Store.cut_half_eraseCut_iff (h : Half) :
    ((st.cut b k).half h).eraseCut = true ↔ (st.half h).eraseCut = true ∨ (st.half h).cond = .erasing := by
  obtain ⟨j, hj⟩ := st.cut_half b k h
  obtain ⟨hcond, hmark⟩ := st.portCut_half b h
  rw [hj, HalfState.cutBy_eraseCut_iff, hcond, hmark]

/-- With no write in progress every row stays. -/
theorem Store.cut_rows (hp : st.port = none) :
    (st.cut b k).geometryRow = st.geometryRow ∧ (st.cut b k).profileRow = st.profileRow ∧
    (st.cut b k).partitionRow = st.partitionRow ∧ (st.cut b k).settingsRow = st.settingsRow ∧
    (st.cut b k).keyRow = st.keyRow ∧ (st.cut b k).targetRows = st.targetRows ∧
    (st.cut b k).identityRow = st.identityRow := by
  rw [Store.cut_eq, Store.portCut_of_free b hp]
  exact ⟨rfl, rfl, rfl, rfl, rfl, rfl, rfl⟩

end

/-! ### The part resets (R181, R182) -/

/-- R182: RELOAD is the same reset; the take of its record leaves nothing behind. -/
theorem exec_reload {s : State} (serial : Word) (h : s.takesRequests) :
    exec (.reload serial) s = .next (s.partReset false) :=
  congrArg _ (s.request_taken serial 9 0 0 0 0 State.reqReload h)

/-- Settles O32: the four are one reset, whose volatile state is that of `State.reset` and whose store is the cut one. -/
theorem partResets : Obligations.PartResets := by
  intro s serial blank after
  have hafter (b : Bool) : after (s.partReset b) := by
    refine ⟨rfl, rfl, rfl, rfl, rfl, rfl, rfl, rfl, rfl, rfl, rfl, rfl, rfl, rfl, rfl, rfl, rfl, rfl, rfl, rfl, rfl, rfl,
      rfl, rfl, rfl, fun hp => ?_, fun pos r hp => ?_, fun pos r hp => ?_, fun pos r hp => ?_, fun pos r hp => ?_,
      Store.cut_half_eraseCut_iff b s.freeCount⟩
    · obtain ⟨hgeometry, hprofile, hpartition, hsettings, hkey, htargets, hidentity⟩ :=
        Store.cut_rows b s.freeCount hp
      have hcells (h : Half) (he : (s.store.half h).cond ≠ .erasing) :
          ((s.store.cut b s.freeCount).half h).cells = (s.store.half h).cells := by
        rw [Store.cut_half_cells b s.freeCount he, Store.portCut_of_free b hp]
      exact ⟨hgeometry, hprofile, hpartition, hsettings, hkey, htargets, hidentity, hcells .h0, hcells .h1⟩
    · exact Store.cut_half_cells_of_writing (h := .h0) b s.freeCount (.inl hp)
    · exact Store.cut_half_cells_of_writing (h := .h1) b s.freeCount (.inl hp)
    · exact Store.cut_half_cells_of_writing (h := .h0) b s.freeCount (.inr hp)
    · exact Store.cut_half_cells_of_writing (h := .h1) b s.freeCount (.inr hp)
  refine ⟨⟨_, rfl, hafter blank, rfl, rfl⟩, fun hp => ?_, fun h => ?_, ⟨_, rfl, hafter blank, rfl⟩⟩
  · exact ⟨_, congrArg Host.Outcome.next (if_neg hp), hafter blank, rfl, rfl⟩
  · exact ⟨_, exec_reload serial h, hafter false, rfl, rfl⟩

end Sys2Proof.Machine
end

section
/-! The steps of the record store beside the appends: the writes of configuration rows and the compaction (9.1, 9.2, 9.5). -/

namespace Sys2Proof.Machine

open Sys2Proof

theorem State.storeStep_of_running {s : State} (hp : s.phase = .running) (f : State → State) :
    s.storeStep f = f s.begin :=
  if_pos hp

/-! ### Row writes (R141, R143) -/

section
variable {st : Store} {s : State}

theorem Store.beginRow_of_waiting {w : RowWrite} (hp : st.port = none) (hw : st.rowWait = some w) :
    st.beginRow = { st with port := some (.row w), rowWait := none } := by
  simp [Store.beginRow, hp, hw]

theorem Store.storeRow_rowWait (st : Store) (w : RowWrite) : (st.storeRow w).rowWait = st.rowWait := by
  cases w <;> rfl

theorem Store.rowBusy_of_free (hp : st.port = none) : st.rowBusy = false ↔ st.rowWait = none := by
  simp [Store.rowBusy, hp]

theorem State.completeRequest_lastOutcome (s : State) :
    s.completeRequest.lastOutcome =
      if s.lastOutcome = .pending ∧ s.store.owes .request = false ∧ s.store.rowBusy = false then .done
      else s.lastOutcome := by
  unfold State.completeRequest
  split <;> rfl

/-- R143, R172: the row is in its place, the port is free, and a PENDING request that waits for nothing more is DONE. -/
theorem exec_rowWriteEnd {w : RowWrite} (hp : s.phase = .running) (hport : s.store.port = some (.row w)) :
    exec .rowWriteEnd s = .next { s.begin with
      store := { s.store.storeRow w with port := none }
      lastOutcome :=
        if s.lastOutcome = .pending ∧ s.store.owes .request = false ∧ s.store.rowWait = none then .done
        else s.lastOutcome } := by
  set t := s.begin.updStore fun st => { st.storeRow w with port := none }
  have hend : exec .rowWriteEnd s = .next t.completeRequest := by
    refine congrArg Host.Outcome.next ((State.storeStep_of_running hp _).trans ?_)
    rw [State.rowWritten, State.begin_store, hport]
  have howes : t.store.owes .request = s.store.owes .request :=
    congrArg (fun l : List Offer => l.any fun o => o.owner == .request) (s.store.storeRow_offers w)
  have hbusy : t.store.rowBusy = false ↔ s.store.rowWait = none := by
    rw [Store.rowBusy_of_free rfl, ← s.store.storeRow_rowWait w]
    rfl
  rw [hend, State.completeRequest_eq, State.completeRequest_lastOutcome, howes]
  simp only [hbusy]
  rfl

end

/-- Settles O59, by the beginning and the end of the write. -/
theorem rowWrites : Obligations.RowWrites := by
  intro s hp
  refine ⟨fun w hport hwait => ?_, fun c hport => exec_rowWriteEnd hp hport, fun u c hport => ?_⟩
  · have hbegin : exec .rowWriteBegin s = .next (s.begin.updStore Store.beginRow) :=
      congrArg Host.Outcome.next (State.storeStep_of_running hp _)
    rw [hbegin, State.updStore, State.begin_store, Store.beginRow_of_waiting hport hwait]
    rfl
  · exact ⟨_, exec_rowWriteEnd hp hport, rfl, rfl, rfl, rfl⟩

/-! ### The start of a compaction (R148, R149) -/

section
variable {s : State} {h : Half}

theorem HalfState.startErase_of_superseded {x : HalfState} (h : x.cond = .superseded) :
    x.startErase = { x with cond := .erasing } :=
  if_pos h

theorem State.startCompaction_of_blank (hd : s.store.compaction = .due) (hc : s.store.current = some h)
    (hb : (s.store.half (otherHalf h)).cond = .blank) :
    s.startCompaction = s.updStore fun st => { st with
      compaction := .running (otherHalf h) (st.replayed.getD s.snapCopy) 0, replayed := none } := by
  have hr : s.store.receiving = otherHalf h := Store.receiving_of_current hc
  rw [State.startCompaction, hd, hr]
  refine (if_pos hb).trans ?_
  rw [State.updStore, State.updStore, hr]

theorem State.startCompaction_of_not_blank (hd : s.store.compaction = .due) (hc : s.store.current = some h)
    (hb : (s.store.half (otherHalf h)).cond ≠ .blank) :
    s.startCompaction = s.updStore fun st => st.updHalf (otherHalf h) HalfState.startErase := by
  have hr : s.store.receiving = otherHalf h := Store.receiving_of_current hc
  rw [State.startCompaction, hd, hr]
  refine (if_neg hb).trans ?_
  rw [State.updStore, State.updStore, hr]

end

/-! ### The records of a snapshot (R149) -/

section
variable (s : State) (c : SnapCopy)

theorem State.snapRecord_first : s.snapRecord c 0 = .snapBegin s.cfg.stagingStart s.cfg.sPhys s.cfg.sSp := rfl

/-- R149: past SNAP_BEGIN, SLOT_CODE, the groups, the slots and the targets stands SNAP_END with the count. -/
theorem State.snapRecord_last {n : Nat} (h : n + 1 = s.snapLength c) : s.snapRecord c n = .snapEnd (n + 1) := by
  rw [h]
  simp only [State.snapLength] at h
  simp only [State.snapRecord]
  rw [if_neg (by omega), if_neg (by omega), if_neg (by omega), if_neg (by omega), if_neg (by omega), if_neg (by omega)]

end

/-! ### The writes of a snapshot (R149, R151) -/

/-- R149: the store with snapshot record `n` in its place, before the compaction's end is tested. -/
def Store.snapWritten (into : Half) (c : SnapCopy) (n : Nat) (r : Record) (st : Store) : Store :=
  { st.updHalf into fun x => { x with cells := putCell n (.record r) x.cells } with
    port := none, nextSeq := st.nextSeq + 1, compaction := .running into c (n + 1) }

section
variable (st : Store) (into : Half) (c : SnapCopy) (n : Nat) (r : Record)

theorem Store.endSnapshot_eq (last : Nat) :
    st.endSnapshot into c n last r =
      if n = last then (st.snapWritten into c n r).endCompaction into (n + 1) else st.snapWritten into c n r := rfl

theorem Store.updHalf_eq (h : Half) (f : HalfState → HalfState) :
    st.updHalf h f = { st with half0 := (st.updHalf h f).half0, half1 := (st.updHalf h f).half1 } := by
  cases h <;> rfl

theorem Store.snapWritten_eq :
    st.snapWritten into c n r = { st with
      half0 := (st.snapWritten into c n r).half0, half1 := (st.snapWritten into c n r).half1
      port := none, nextSeq := st.nextSeq + 1, compaction := .running into c (n + 1) } := by
  rw [Store.snapWritten, Store.updHalf_eq]

theorem Store.snapWritten_cells :
    ((st.snapWritten into c n r).half into).cells = putCell n (.record r) (st.half into).cells := by
  cases into <;> rfl

/-- R151: what the end of a compaction changes. -/
theorem Store.endCompaction_eq (count : Nat) :
    st.endCompaction into count = { st with
      half0 := (st.endCompaction into count).half0, half1 := (st.endCompaction into count).half1
      current := some into, closed := false, nextFree := count, compaction := .none, startHold := false } := by
  unfold Store.endCompaction
  cases st.current with
  | none => cases into <;> rfl
  | some h => cases into <;> cases h <;> rfl

theorem Store.endCompaction_half_into (count : Nat) :
    (st.endCompaction into count).half into = { st.half into with cond := .current } := by
  unfold Store.endCompaction
  cases st.current with
  | none => cases into <;> rfl
  | some h => cases into <;> cases h <;> rfl

theorem Store.endCompaction_half_other (count : Nat) (hc : st.current = some (otherHalf into)) :
    (st.endCompaction into count).half (otherHalf into) = { st.half (otherHalf into) with cond := .erasing } := by
  rw [Store.endCompaction, hc]
  cases into <;> rfl

/-- R149: what the end of a snapshot record's write leaves, whether or not it is the last. -/
theorem Store.endSnapshot_leaves (last : Nat) :
    (st.endSnapshot into c n last r).nextSeq = st.nextSeq + 1 ∧ (st.endSnapshot into c n last r).port = none ∧
    (st.endSnapshot into c n last r).queue = st.queue ∧
    ((st.endSnapshot into c n last r).half into).cells = putCell n (.record r) (st.half into).cells := by
  rw [Store.endSnapshot_eq]
  split
  · refine ⟨?_, ?_, ?_, ?_⟩
    · rw [Store.endCompaction_eq, Store.snapWritten_eq]
    · rw [Store.endCompaction_eq, Store.snapWritten_eq]
    · rw [Store.endCompaction_eq, Store.snapWritten_eq]
    · rw [Store.endCompaction_half_into]
      exact st.snapWritten_cells into c n r
  · rw [Store.snapWritten_cells, Store.snapWritten_eq]
    exact ⟨rfl, rfl, rfl, rfl⟩

/-- R149: short of the last record the compaction goes on, and the current half stays. -/
theorem Store.endSnapshot_goes_on {last : Nat} (h : n ≠ last) :
    (st.endSnapshot into c n last r).compaction = .running into c (n + 1) ∧
    (st.endSnapshot into c n last r).current = st.current := by
  rw [Store.endSnapshot_eq, if_neg h, Store.snapWritten_eq]
  exact ⟨rfl, rfl⟩

/-- R151: at the last record the halves change places. -/
theorem Store.endSnapshot_last {last : Nat} (h : n = last) :
    (st.endSnapshot into c n last r).compaction = .none ∧ (st.endSnapshot into c n last r).current = some into ∧
    (st.endSnapshot into c n last r).closed = false ∧ (st.endSnapshot into c n last r).startHold = false ∧
    (st.endSnapshot into c n last r).nextFree = n + 1 ∧
    ((st.endSnapshot into c n last r).half into).cond = .current ∧
    (st.current = some (otherHalf into) →
      ((st.endSnapshot into c n last r).half (otherHalf into)).cond = .erasing) := by
  rw [Store.endSnapshot_eq, if_pos h]
  have hcurrent : (st.snapWritten into c n r).current = st.current := by rw [Store.snapWritten_eq]
  refine ⟨?_, ?_, ?_, ?_, ?_, ?_, fun hc => ?_⟩
  case refine_6 => rw [Store.endCompaction_half_into]
  case refine_7 => rw [Store.endCompaction_half_other _ _ _ (hcurrent.trans hc)]
  all_goals rw [Store.endCompaction_eq]

end

section
variable {s : State} {into : Half} {c : SnapCopy} {n : Nat}

theorem State.writeSnapshot_of_free (hr : s.store.compaction = .running into c n) (hport : s.store.port = none) :
    s.writeSnapshot = s.beginSnapshot into c n := by
  rw [State.writeSnapshot, hr, hport]

theorem State.writeSnapshot_of_writing {h : Half} {pos : Nat} {r : Record} (hr : s.store.compaction = .running into c n)
    (hport : s.store.port = some (.snapshot h pos r)) :
    s.writeSnapshot = s.updStore (Store.endSnapshot into c n (s.snapLength c - 1) r) := by
  rw [State.writeSnapshot, hr, hport]

theorem State.beginSnapshot_of_none (hw : s.store.rowWait = none) :
    s.beginSnapshot into c n = s.updStore fun st => { st with
      port := some (.snapshot into n { seq := st.nextSeq, payload := s.snapRecord c n }) } :=
  if_pos (Option.isNone_iff_eq_none.2 hw)

theorem State.beginSnapshot_of_some {w : RowWrite} (hw : s.store.rowWait = some w) : s.beginSnapshot into c n = s :=
  if_neg (by simp [hw])

end

/-! ### The end of a half's erase (R151) -/

theorem HalfState.erased_of_erasing {x : HalfState} (h : x.cond = .erasing) :
    x.erased = { cells := [], cond := .blank } :=
  if_pos h

/-! ### The statement -/

theorem exec_compactionStart {s : State} (hp : s.phase = .running) :
    exec .compactionStart s = .next s.begin.startCompaction :=
  congrArg Host.Outcome.next (State.storeStep_of_running hp _)

theorem exec_snapshotRecordWrite {s : State} (hp : s.phase = .running) :
    exec .snapshotRecordWrite s = .next s.begin.writeSnapshot :=
  congrArg Host.Outcome.next (State.storeStep_of_running hp _)

theorem exec_halfEraseEnd {s : State} (hp : s.phase = .running) (h : Half) :
    exec (.halfEraseEnd h) s = .next { s.begin with store := s.store.updHalf h HalfState.erased } :=
  congrArg Host.Outcome.next (State.storeStep_of_running hp _)

/-- Settles O60, by the start, the writes of the snapshot, its last record, and the end of a half's erase. -/
theorem compactionSteps : Obligations.CompactionSteps := by
  intro s hp
  refine ⟨fun h hd hc hb => ?_, fun h hd hc hb => ?_, fun into c n hr => ⟨fun hport hw => ⟨?_, ?_, ?_⟩,
    fun w hport hw => ?_, fun h pos r hport => ?_⟩, fun he => ?_, fun he => ?_⟩
  · rw [exec_compactionStart hp, State.startCompaction_of_blank (s := s.begin) hd hc hb]
    rfl
  · refine ⟨_, exec_compactionStart hp, ?_⟩
    have hnb : (s.store.half (otherHalf h)).cond ≠ .blank := by rw [hb]; decide
    rw [State.startCompaction_of_not_blank (s := s.begin) hd hc hnb, State.updStore_store, State.begin_store,
      Store.updHalf_half_same, HalfState.startErase_of_superseded hb, Store.updHalf_eq]
    exact ⟨rfl, hd, rfl⟩
  · rw [exec_snapshotRecordWrite hp, State.writeSnapshot_of_free (s := s.begin) hr hport,
      State.beginSnapshot_of_none (s := s.begin) hw]
    rfl
  · rintro rfl
    exact s.snapRecord_first c
  · exact s.snapRecord_last c
  · rw [exec_snapshotRecordWrite hp, State.writeSnapshot_of_free (s := s.begin) hr hport,
      State.beginSnapshot_of_some (s := s.begin) hw]
    rfl
  · obtain ⟨hseq, hfree, hqueue, hcells⟩ := s.store.endSnapshot_leaves into c n r (s.snapLength c - 1)
    have hend : exec .snapshotRecordWrite s =
        .next { s.begin with store := s.store.endSnapshot into c n (s.snapLength c - 1) r } := by
      rw [exec_snapshotRecordWrite hp, State.writeSnapshot_of_writing (s := s.begin) hr hport]
      rfl
    exact ⟨_, hend, hseq, hfree, hqueue, rfl, rfl, hcells,
      fun hlt => Store.endSnapshot_goes_on _ into c n r (by omega),
      fun hlast => Store.endSnapshot_last _ into c n r (by omega)⟩
  · rw [exec_halfEraseEnd hp, ← HalfState.erased_of_erasing he]
    rfl
  · rw [exec_halfEraseEnd hp, ← HalfState.erased_of_erasing he]
    rfl

end Sys2Proof.Machine
end

section
/-! The configuration rows that a request may write (10.5): CONFIG_WRITE, its items and their ranges. -/

namespace Sys2Proof.Machine

open Sys2Proof

/-! ### Ranges and codes (R166) -/

theorem inRange_eq {good : Bool} {p : Prop} [Decidable p] (h : good = true ↔ p) (w : RowWrite) :
    inRange good w = if p then some w else none :=
  if_congr h rfl rfl

theorem TxClass.ofCode_eq (v : Nat) :
    TxClass.ofCode v = ([.read, .program, .eraseSector, .eraseLarge, .eraseChip, .writeEnable, .writeDisable,
      .statusRead, .pass, .block] : List TxClass)[v]? := by
  match v with
  | 0 | 1 | 2 | 3 | 4 | 5 | 6 | 7 | 8 | 9 => rfl
  | _ + 10 => rfl

theorem RegionKind.ofCode_eq (v : Nat) :
    RegionKind.ofCode v = ([.liveOpen, .liveProtected, .bootWindow, .staging, .control] : List RegionKind)[v]? := by
  match v with
  | 0 | 1 | 2 | 3 | 4 => rfl
  | _ + 5 => rfl

theorem ScanScope.ofCode_eq (v : Nat) :
    ScanScope.ofCode v = ([.none, .bootHeader, .bootFull] : List ScanScope)[v]? := by
  match v with
  | 0 | 1 | 2 => rfl
  | _ + 3 => rfl

theorem AlertMode.ofCode_eq (v : Nat) : AlertMode.ofCode v = ([.onRead, .onAck] : List AlertMode)[v]? := by
  match v with
  | 0 | 1 => rfl
  | _ + 2 => rfl

/-! ### The row of an item (R143, R165) -/

section
variable {s : State} {item n v : Nat}

theorem State.configRow_geometry (h : 1 ≤ item ∧ item ≤ 4) :
    s.configRow item n v =
      if n = 0 then geometryWrite (s.store.geometryRow.content?.getD defaultGeometry) item v else none :=
  if_pos h

theorem State.configRow_profile (h : 5 ≤ item ∧ item ≤ 8) :
    s.configRow item n v =
      if n ≤ 15 then
        profileWrite (s.store.profileRow.content?.getD (defaultProfile s.cfg.geometry)) item n v
      else none := by
  rw [State.configRow, if_neg (by omega), if_pos h]

theorem State.configRow_partition (h : 9 ≤ item ∧ item ≤ 11) :
    s.configRow item n v =
      if n ≤ 7 then
        partitionWrite (s.store.partitionRow.content?.getD (defaultPartition s.cfg.geometry.sectors)) item n v
      else none := by
  rw [State.configRow, if_neg (by omega), if_neg (by omega), if_pos h]

theorem State.configRow_settings (h : item = 0 ∨ 11 < item) :
    s.configRow item n v =
      if n = 0 then settingsWrite (s.store.settingsRow.content?.getD defaultSettings) item v else none := by
  rw [State.configRow, if_neg (by omega), if_neg (by omega), if_neg (by omega)]

/-- No row has an item 0 or an item above 20. -/
theorem settingsWrite_of_no_item (c : Settings) (h : item = 0 ∨ 20 < item) : settingsWrite c item v = none := by
  unfold settingsWrite
  split
  case h_10 => rfl
  all_goals omega

theorem State.configRow_of_no_item (h : item = 0 ∨ 20 < item) : s.configRow item n v = none := by
  rw [State.configRow_settings (by omega), settingsWrite_of_no_item _ h, ite_self]

end

/-! ### CONFIG_WRITE (R165) -/

section
variable {s : State} {item index value : Word}

theorem exec_configWrite (serial : Word) (h : s.takesRequests) :
    exec (.configWrite serial item index value) s =
      .next ((s.taken serial 13 item index value 0).reqConfigWrite item index value) :=
  congrArg _ (s.request_taken serial 13 item index value 0 (State.reqConfigWrite item index value) h)

theorem State.reqConfigWrite_badArg (h : s.configRow item.toNat index.toNat value.toNat = none) :
    s.reqConfigWrite item index value = s.turnedDown .badArg := by
  rw [State.reqConfigWrite, h]
  rfl

theorem State.reqConfigWrite_of_row {w : RowWrite} (h : s.configRow item.toNat index.toNat value.toNat = some w) :
    s.reqConfigWrite item index value =
      if s.locked then s.turnedDown .locked
      else { s with
        configChanged := true, store := { s.store with rowWait := some w }, lastOutcome := .pending
        lastReason := none } := by
  rw [State.reqConfigWrite, h]
  rfl

end

/-- Settles O36: the two checks and the effect, the arguments outside every range, and the items row by row. -/
theorem configWrite : Obligations.ConfigWrite := by
  intro serial item index value s hs base n v row
  rw [exec_configWrite serial hs]
  refine ⟨fun h => congrArg _ (State.reqConfigWrite_badArg (s := base) h), fun h hl => ?_, fun w h hl => ?_,
    State.configRow_of_no_item, fun h5 h8 hn => ?_, fun h9 h11 hn => ?_, fun hi hn => ?_, ?_, ?_, ?_, ?_⟩
  · obtain ⟨w, hw⟩ := Option.ne_none_iff_exists'.1 h
    exact congrArg _ ((State.reqConfigWrite_of_row (s := base) hw).trans (if_pos hl))
  · exact congrArg _ ((State.reqConfigWrite_of_row (s := base) h).trans (if_neg (by simp [base, State.taken, hl])))
  · exact (State.configRow_profile ⟨h5, h8⟩).trans (if_neg (by omega))
  · exact (State.configRow_partition ⟨h9, h11⟩).trans (if_neg (by omega))
  · by_cases hg : 1 ≤ item.toNat ∧ item.toNat ≤ 4
    · exact (State.configRow_geometry hg).trans (if_neg hn)
    · exact (State.configRow_settings (by omega)).trans (if_neg hn)
  · intro g hn
    have hrow (i : Word) (hi : item = i) (hr : 1 ≤ i.toNat ∧ i.toNat ≤ 4) : row = geometryWrite g i.toNat v :=
      hi ▸ (State.configRow_geometry (hi ▸ hr)).trans (if_pos hn)
    exact ⟨fun hi => (hrow 1 hi (by decide)).trans (inRange_eq (by simp [or_assoc]) _),
      fun hi => (hrow 2 hi (by decide)).trans (inRange_eq (by simp) _),
      fun hi => (hrow 3 hi (by decide)).trans (inRange_eq (by simp) _),
      fun hi => (hrow 4 hi (by decide)).trans (inRange_eq (by simp) _)⟩
  · intro p put classes hn
    have hrow (i : Word) (hi : item = i) (hr : 5 ≤ i.toNat ∧ i.toNat ≤ 8) : row = profileWrite p i.toNat n v :=
      hi ▸ (State.configRow_profile (hi ▸ hr)).trans (if_pos hn)
    exact ⟨fun hi => (hrow 5 hi (by decide)).trans (inRange_eq (by simp) _),
      fun hi => (hrow 6 hi (by decide)).trans (congrArg (Option.map _) (TxClass.ofCode_eq v)),
      fun hi => (hrow 7 hi (by decide)).trans (inRange_eq (by simp [or_assoc]) _),
      fun hi => (hrow 8 hi (by decide)).trans (inRange_eq (by simp) _)⟩
  · intro p put kinds hn
    have hrow (i : Word) (hi : item = i) (hr : 9 ≤ i.toNat ∧ i.toNat ≤ 11) : row = partitionWrite p i.toNat n v :=
      hi ▸ (State.configRow_partition (hi ▸ hr)).trans (if_pos hn)
    exact ⟨fun hi => (hrow 9 hi (by decide)).trans (congrArg (Option.map _) (RegionKind.ofCode_eq v)),
      fun hi => (hrow 10 hi (by decide)).trans (inRange_eq (by simp) _),
      fun hi => (hrow 11 hi (by decide)).trans (inRange_eq (by simp) _)⟩
  · intro c put scopes modes hn
    have hrow (i : Word) (hi : item = i) (hr : 11 < i.toNat) : row = settingsWrite c i.toNat v :=
      hi ▸ (State.configRow_settings (.inr (hi ▸ hr))).trans (if_pos hn)
    exact ⟨fun hi => (hrow 12 hi (by decide)).trans (inRange_eq (by simp) _),
      fun hi => (hrow 13 hi (by decide)).trans (inRange_eq (by simp) _),
      fun hi => (hrow 14 hi (by decide)).trans (inRange_eq (by simp) _),
      fun hi => (hrow 15 hi (by decide)).trans (inRange_eq (by simp) _),
      fun hi => (hrow 16 hi (by decide)).trans (inRange_eq (by simp) _),
      fun hi => (hrow 17 hi (by decide)).trans (inRange_eq (by simp) _),
      fun hi => (hrow 18 hi (by decide)).trans (congrArg (Option.map _) (ScanScope.ofCode_eq v)),
      fun hi => (hrow 19 hi (by decide)).trans (congrArg (Option.map _) (AlertMode.ofCode_eq v)),
      fun hi => (hrow 20 hi (by decide)).trans (inRange_eq (by simp) _)⟩

end Sys2Proof.Machine
end

section
/-! Keys and lock (10.1 to 10.3): what the requests KEY_WRITE, KEY_REVOKE, LOCK and FACTORY_CLEAR check, and what they leave
of the key table, the key row, the second pass in flight and the journal's offers (O33, O34, O37). -/

namespace Sys2Proof.Machine

open Sys2Proof

/-! ### The second pass in flight (R73) -/

section
variable {s : State} {j : Job} {test : Nat → Bool}

theorem State.restartSecondPass_eq (s : State) (test : Nat → Bool) :
    s.restartSecondPass test = { s with job := (s.restartSecondPass test).job } := by
  unfold State.restartSecondPass
  split
  · split <;> rfl
  · rfl

/-- R73: only a manifest job in its second pass, under a key slot that the test selects, begins it again. -/
theorem State.restartSecondPass_of_other (h : ∀ j, s.job = some j →
      j.kind.isManifest = false ∨ j.pass ≠ .fold ∨ test (s.jobKeySlot j) = false) : s.restartSecondPass test = s := by
  unfold State.restartSecondPass
  split
  · next j hj =>
    refine if_neg fun hall => ?_
    simp only [Bool.and_eq_true, beq_iff_eq] at hall
    obtain ⟨⟨hkind, hpass⟩, htest⟩ := hall
    rcases h j hj with hk | hp | ht
    · simp [hk] at hkind
    · exact hp hpass
    · simp [ht] at htest
  · rfl

theorem State.restartSecondPass_of_fold (hj : s.job = some j) (hkind : j.kind.isManifest = true) (hpass : j.pass = .fold)
    (htest : test (s.jobKeySlot j) = true) :
    s.restartSecondPass test = { s with job := some (s.secondPass j) } := by
  unfold State.restartSecondPass
  rw [hj]
  exact if_pos (by simp [hkind, hpass, htest])

theorem State.secondPass_of_key {v : Nat} (h : s.jobKey j = some v) :
    s.secondPass j = { j with
      pass := .fold, base := v, seed := s.jobLength j, count := s.jobLength j - 1, index := 0,
      acc := s.jobLength j % foldModulus } := by
  unfold State.secondPass
  rw [h]

end

/-! ### A key slot changed (R143, R158, R159) -/

/-- R143: the key row's content with key slot `k` set to `v`. -/
def Store.keyRowWith (st : Store) (k : Nat) (v : KeySlot) : KeyRow :=
  { st.keyContent with keys := st.keyContent.keys.set k v }

/-- R158, R159: what a request that sets key slot `k` to `v` makes of the state. -/
def State.setKey (k : Nat) (v : KeySlot) (s : State) : State :=
  (s.putKeyRow (s.store.keyRowWith k v)).restartSecondPass (· == k)

section
variable {s : State} {k : Nat} {v : KeySlot}

theorem State.putKeyRow_eq (r : KeyRow) (s : State) :
    s.putKeyRow r = { s with
      keys := r.keys, locked := r.locked, store := { s.store with rowWait := some (.key r) }, lastOutcome := .pending,
      lastReason := none } := rfl

theorem State.setKey_eq (k : Nat) (v : KeySlot) (s : State) :
    s.setKey k v = { s.putKeyRow (s.store.keyRowWith k v) with job := (s.setKey k v).job } :=
  State.restartSecondPass_eq ..

theorem State.setKey_job_of_other (h : ∀ j, s.job = some j →
      j.kind.isManifest = false ∨ j.pass ≠ .fold ∨ s.jobKeySlot j ≠ k) : (s.setKey k v).job = s.job := by
  have hother := State.restartSecondPass_of_other (s := s.putKeyRow (s.store.keyRowWith k v)) (test := (· == k))
    fun j hj => (h j hj).imp_right (Or.imp_right beq_false_of_ne)
  exact (congrArg State.job hother :)

/-- R73: a second pass under the key slot begins again with the value just set. -/
theorem State.setKey_job_of_fold {j : Job} {n : Nat} (hj : s.job = some j) (hkind : j.kind.isManifest = true)
    (hpass : j.pass = .fold) (hk : s.jobKeySlot j = k) (hlt : k < s.store.keyContent.keys.length)
    (hv : v.value? = some n) :
    (s.setKey k v).job = some { j with
      base := n, seed := s.jobLength j, count := s.jobLength j - 1, index := 0, acc := s.jobLength j % 4294967291 } := by
  have hkey : (s.putKeyRow (s.store.keyRowWith k v)).jobKey j = some n := by
    have hat : (s.putKeyRow (s.store.keyRowWith k v)).keyAt k = v := by
      simp [State.keyAt, State.putKeyRow_eq, Store.keyRowWith, hlt]
    have hslot : (s.putKeyRow (s.store.keyRowWith k v)).jobKeySlot j = k := hk
    rw [State.jobKey, hslot, hat, hv]
  unfold State.setKey
  rw [State.restartSecondPass_of_fold (s := s.putKeyRow _) (test := (· == k)) hj hkind hpass (beq_iff_eq.2 hk),
    State.secondPass_of_key hkey, ← hpass]
  rfl

end

/-! ### KEY_WRITE (R158) -/

section
variable {s : State} {slot value : Word}

theorem exec_keyWrite (serial : Word) (h : s.takesRequests) :
    exec (.keyWrite serial slot value) s = .next ((s.taken serial 10 slot value 0 0).reqKeyWrite slot value) :=
  congrArg _ (s.request_taken serial 10 slot value 0 0 (State.reqKeyWrite slot value) h)

theorem State.reqKeyWrite_badArg (h : ¬ (slot.toNat < 8 ∧ 2 ≤ value.toNat ∧ value.toNat ≤ 4294967290)) :
    s.reqKeyWrite slot value = s.turnedDown .badArg := by
  unfold State.reqKeyWrite
  by_cases hk : slot.toNat < 8
  · have hv : ¬ (decide (2 ≤ value.toNat) && decide (value.toNat < foldModulus)) = true :=
      fun hv => h ⟨hk, (baseGood_iff _).1 hv⟩
    rw [if_neg (by simpa using hk), if_pos (by rw [Bool.eq_false_of_not_eq_true hv]; rfl)]
    rfl
  · rw [if_pos (by simpa using hk)]
    rfl

/-- R158: past the ranges of its arguments, the lock decides. -/
theorem State.reqKeyWrite_of_inRange (h : slot.toNat < 8 ∧ 2 ≤ value.toNat ∧ value.toNat ≤ 4294967290) :
    s.reqKeyWrite slot value =
      if s.locked && s.keyAt slot.toNat != .empty then s.turnedDown .locked
      else s.setKey slot.toNat (.active value.toNat) := by
  obtain ⟨hk, hv⟩ := h
  unfold State.reqKeyWrite
  rw [if_neg (by simpa using hk), if_neg (by simp [(baseGood_iff value.toNat).2 hv])]
  rfl

end

/-- Settles O33: the checks in order, and the key slot set where none of them bars it. -/
theorem keyWrite : Obligations.KeyWrite := by
  intro serial slot value s hs base inRange keys
  rw [exec_keyWrite serial hs]
  refine ⟨fun h => congrArg _ (State.reqKeyWrite_badArg h), fun h hl hk => ?_, fun h hfree => ?_⟩
  · have hbar : (base.locked && base.keyAt slot.toNat != .empty) = true :=
      Bool.and_eq_true_iff.2 ⟨hl, bne_iff_ne.2 hk⟩
    exact congrArg _ ((State.reqKeyWrite_of_inRange (s := base) h).trans (if_pos hbar))
  · have hbar : ¬ (base.locked && base.keyAt slot.toNat != .empty) = true := fun hb => by
      obtain ⟨hl, hk⟩ := Bool.and_eq_true_iff.1 hb
      rcases hfree with hf | he
      · exact Bool.false_ne_true (hf.symm.trans hl)
      · exact bne_iff_ne.1 hk he
    have hset := (State.reqKeyWrite_of_inRange (s := base) h).trans (if_neg hbar)
    exact ⟨_, congrArg _ (hset.trans (State.setKey_eq ..)), State.setKey_job_of_other (s := base),
      fun j hj hkind hpass hk hlt => State.setKey_job_of_fold (s := base) hj hkind hpass hk hlt rfl⟩

/-! ### KEY_REVOKE and LOCK (R159, R161) -/

section
variable {s : State} {slot : Word}

theorem exec_keyRevoke (serial : Word) (h : s.takesRequests) :
    exec (.keyRevoke serial slot) s = .next ((s.taken serial 11 slot 0 0 0).reqKeyRevoke slot) :=
  congrArg _ (s.request_taken serial 11 slot 0 0 0 (State.reqKeyRevoke slot) h)

theorem State.reqKeyRevoke_badArg (h : 8 ≤ slot.toNat) : s.reqKeyRevoke slot = s.turnedDown .badArg :=
  if_pos (by simpa using h)

theorem State.reqKeyRevoke_wrongState (h : slot.toNat < 8) (hno : ∀ v, s.keyAt slot.toNat ≠ .active v) :
    s.reqKeyRevoke slot = s.turnedDown .wrongState := by
  refine (if_neg (by simpa using h)).trans ?_
  split
  · next v hv => exact absurd hv (hno v)
  · rfl

theorem State.reqKeyRevoke_of_active {v : Nat} (h : slot.toNat < 8) (hv : s.keyAt slot.toNat = .active v) :
    s.reqKeyRevoke slot = s.setKey slot.toNat (.revoked v) := by
  refine (if_neg (by simpa using h)).trans ?_
  rw [hv]
  rfl

theorem exec_lock (serial : Word) (h : s.takesRequests) :
    exec (.lock serial) s = .next (s.taken serial 14 0 0 0 0).reqLock :=
  congrArg _ (s.request_taken serial 14 0 0 0 0 State.reqLock h)

end

/-- Settles O34: KEY_REVOKE by the number and the state of the key slot, LOCK by whether the part is LOCKED. -/
theorem revokeAndLock : Obligations.RevokeAndLock := by
  intro serial slot s hs base base'
  rw [exec_keyRevoke serial hs, exec_lock serial hs]
  refine ⟨fun h => congrArg _ (State.reqKeyRevoke_badArg h),
    fun h hno => congrArg _ (State.reqKeyRevoke_wrongState (s := base) h hno), fun v h hv => ?_,
    fun hl => congrArg _ (if_pos hl), fun hl => congrArg _ (if_neg (hl.symm ▸ Bool.false_ne_true))⟩
  have hset := State.reqKeyRevoke_of_active (s := base) h hv
  exact ⟨_, congrArg _ (hset.trans (State.setKey_eq ..)), State.setKey_job_of_other (s := base)⟩

/-! ### TARGET records offered in order (R162) -/

section
variable (o : Owner) (l : List Nat) (s : State)

theorem State.foldl_offerTarget_eq :
    l.foldl (fun s t => s.offerTarget o t) s = { s with store := { s.store with
      queue := (l.foldl (fun s t => s.offerTarget o t) s).store.queue
      waiting := (l.foldl (fun s t => s.offerTarget o t) s).store.waiting } } := by
  induction l generalizing s with
  | nil => rfl
  | cons t l ih =>
    rw [List.foldl_cons, ih, State.offerTarget, State.offer_eq]

end

/-! ### FACTORY_CLEAR (R162) -/

/-- R162: every target's floor set to 0. -/
def State.floorsCleared (s : State) : State := { s with targets := s.targets.map fun d => { d with floor := 0 } }

/-- R162: the state in which FACTORY_CLEAR offers its records. -/
def State.keysCleared (s : State) : State :=
  s.floorsCleared.putKeyRow { keys := List.replicate 8 .empty, locked := false }

section
variable {s : State}

theorem State.floorsCleared_dynAt (s : State) (u : Nat) :
    s.floorsCleared.dynAt u = { s.dynAt u with floor := 0 } :=
  List.getD_map s.targets TargetDyn.blank fun d => ({ d with floor := 0 } : TargetDyn)

theorem State.keysCleared_dynAt (s : State) (u : Nat) : s.keysCleared.dynAt u = { s.dynAt u with floor := 0 } :=
  s.floorsCleared_dynAt u

theorem State.reqFactoryClear_eq (s : State) :
    s.reqFactoryClear =
      ((List.range 16).foldl (fun s t => s.offerTarget .request t) s.keysCleared).restartSecondPass fun _ => true := rfl

/-- R162: the offers and the job in flight apart, FACTORY_CLEAR leaves what the cleared keys and floors leave. -/
theorem State.reqFactoryClear_frame (s : State) :
    s.reqFactoryClear = { s.keysCleared with
      job := s.reqFactoryClear.job
      store := { s.keysCleared.store with
        queue := s.reqFactoryClear.store.queue, waiting := s.reqFactoryClear.store.waiting } } := by
  rw [State.reqFactoryClear_eq, State.restartSecondPass_eq, State.foldl_offerTarget_eq]

theorem State.reqFactoryClear_offers (s : State) :
    s.reqFactoryClear.store.offers = s.store.offers ++
      (List.range 16).map fun u => { payload := .target u { s.dynAt u with floor := 0 }, owner := .request } := by
  have hrecords : (List.range 16).map (s.keysCleared.targetOffer .request) =
      (List.range 16).map fun u => { payload := .target u { s.dynAt u with floor := 0 }, owner := .request } :=
    List.map_congr_left fun u _ => by rw [State.targetOffer, s.keysCleared_dynAt]
  rw [State.reqFactoryClear_eq, State.restartSecondPass_eq, State.foldl_offerTarget_offers, hrecords]
  rfl

theorem exec_factoryClear (serial : Word) (h : s.takesRequests) :
    exec (.factoryClear serial) s = .next (s.taken serial 15 0 0 0 0).reqFactoryClear :=
  congrArg _ (s.request_taken serial 15 0 0 0 0 State.reqFactoryClear h)

end

/-- Settles O37: the records offered in order, and past the offers and the job in flight only the keys, the lock, the floors
and the key row's rewrite. -/
theorem factoryClear : Obligations.FactoryClear := by
  intro serial s hs
  set base := s.taken serial 15 0 0 0 0
  have hframe := base.reqFactoryClear_frame
  refine ⟨_, exec_factoryClear serial hs, ?_, ?_, ?_, fun u => ?_, ?_, base.reqFactoryClear_offers, ?_⟩
  all_goals rw [hframe]
  · rfl
  · rfl
  · rfl
  · exact base.keysCleared_dynAt u
  · rfl
  · exact ⟨rfl, rfl, rfl, rfl, rfl, rfl, rfl, rfl, rfl, rfl, rfl, rfl, rfl⟩

end Sys2Proof.Machine
end

section
/-! Static target records (10.4): TARGET_WRITE, its four checks in order and its effect (O35). -/

namespace Sys2Proof.Machine

open Sys2Proof

/-- 11.7: the static record that the arguments of TARGET_WRITE give. -/
def TargetStatic.ofArgs (cls flags : Word) : TargetStatic :=
  { inUse := flags.getLsbD 8, cls := cls.toNat, keyMask := flags.extractLsb' 0 8, bootMapped := flags.getLsbD 9 }

/-- R163, check 3: a target other than `t` is boot-mapped, as the new record is. -/
def State.secondBootMapped (s : State) (t : Nat) (new : TargetStatic) : Prop :=
  new.bootMapped = true ∧ ∃ v, v < 16 ∧ v ≠ t ∧ (s.staticAt v).bootMapped = true

/-- R163, check 4: the changes of a record that a target in use bars. -/
def TargetStatic.changesUse (old new : TargetStatic) : Prop :=
  new.cls ≠ old.cls ∨ new.bootMapped ≠ old.bootMapped ∨ (old.inUse = true ∧ new.inUse = false)

/-- R163, check 4: a target is in use by its booted slot, or by a slot of its own in one of six states. -/
def State.heldInUse (s : State) (t : Nat) : Prop :=
  (s.dynAt t).booted ≠ none ∨ ∃ r ∈ s.slots, r.summary.map Summary.target = some t ∧
    (r.state = .filling ∨ r.state = .sealed ∨ r.state = .trial ∨ r.state = .active ∨ r.state = .fallback ∨
      r.state = .failed)

section
variable {s : State} {target cls flags : Word}

theorem targetArgs_bad_iff (t c f : Nat) :
    (!(decide (t < 16) && decide (c < 65536) && decide (f < 1024))) = true ↔ ¬ (t < 16 ∧ c < 65536 ∧ f < 1024) := by
  simp only [← Bool.decide_and, Bool.not_eq_true', decide_eq_false_iff_not, and_assoc]

theorem State.secondBootMapped_iff (s : State) (t : Nat) (new : TargetStatic) :
    (new.bootMapped && (List.range 16).any fun u => u != t && (s.staticAt u).bootMapped) = true ↔
      s.secondBootMapped t new := by
  simp [State.secondBootMapped]

theorem TargetStatic.changesUse_iff (old new : TargetStatic) :
    (new.cls != old.cls || new.bootMapped != old.bootMapped || (old.inUse && !new.inUse)) = true ↔
      old.changesUse new := by
  simp [TargetStatic.changesUse, or_assoc]

theorem State.targetHeld_iff (s : State) (t : Nat) : s.targetHeld t = true ↔ s.heldInUse t := by
  simp only [State.targetHeld, State.heldInUse, SlotRec.target?, Bool.or_eq_true, Option.isSome_iff_ne_none,
    List.any_eq_true, Bool.and_eq_true, beq_iff_eq, or_assoc]

theorem State.changesHeld_iff (s : State) (t : Nat) (old new : TargetStatic) :
    ((new.cls != old.cls || new.bootMapped != old.bootMapped || (old.inUse && !new.inUse)) && s.targetHeld t) = true ↔
      old.changesUse new ∧ s.heldInUse t :=
  Bool.and_eq_true_iff.trans (and_congr (TargetStatic.changesUse_iff old new) (s.targetHeld_iff t))

theorem exec_targetWrite (serial : Word) (h : s.takesRequests) :
    exec (.targetWrite serial target cls flags) s =
      .next ((s.taken serial 12 target cls 0 flags).reqTargetWrite target cls flags) :=
  congrArg _ (s.request_taken serial 12 target cls 0 flags (State.reqTargetWrite target cls flags) h)

theorem State.reqTargetWrite_badArg (h : ¬ (target.toNat < 16 ∧ cls.toNat < 65536 ∧ flags.toNat < 1024)) :
    s.reqTargetWrite target cls flags = s.turnedDown .badArg :=
  if_pos ((targetArgs_bad_iff ..).2 h)

section
variable (h : target.toNat < 16 ∧ cls.toNat < 65536 ∧ flags.toNat < 1024)
include h

theorem State.reqTargetWrite_locked (hl : s.locked = true) :
    s.reqTargetWrite target cls flags = s.turnedDown .locked :=
  (if_neg fun hbad => (targetArgs_bad_iff ..).1 hbad h).trans (if_pos hl)

variable (hl : s.locked = false)
include hl

theorem State.reqTargetWrite_secondBootMapped
    (hc : s.secondBootMapped target.toNat (TargetStatic.ofArgs cls flags)) :
    s.reqTargetWrite target cls flags = s.turnedDown .badArg :=
  (if_neg fun hbad => (targetArgs_bad_iff ..).1 hbad h).trans <|
    (if_neg (hl.symm ▸ Bool.false_ne_true)).trans (if_pos ((s.secondBootMapped_iff ..).2 hc))

variable (hc : ¬ s.secondBootMapped target.toNat (TargetStatic.ofArgs cls flags))
include hc

theorem State.reqTargetWrite_inUse
    (hb : (s.staticAt target.toNat).changesUse (TargetStatic.ofArgs cls flags) ∧ s.heldInUse target.toNat) :
    s.reqTargetWrite target cls flags = s.turnedDown .inUse :=
  (if_neg fun hbad => (targetArgs_bad_iff ..).1 hbad h).trans <|
    (if_neg (hl.symm ▸ Bool.false_ne_true)).trans <|
      (if_neg (mt (s.secondBootMapped_iff ..).1 hc)).trans (if_pos ((s.changesHeld_iff ..).2 hb))

theorem State.reqTargetWrite_of_free
    (hb : ¬ ((s.staticAt target.toNat).changesUse (TargetStatic.ofArgs cls flags) ∧ s.heldInUse target.toNat)) :
    s.reqTargetWrite target cls flags = { s with
      statics := s.statics.set target.toNat (TargetStatic.ofArgs cls flags)
      store := { s.store with rowWait := some (.target target.toNat (TargetStatic.ofArgs cls flags)) }
      lastOutcome := .pending, lastReason := none } :=
  (if_neg fun hbad => (targetArgs_bad_iff ..).1 hbad h).trans <|
    (if_neg (hl.symm ▸ Bool.false_ne_true)).trans <|
      (if_neg (mt (s.secondBootMapped_iff ..).1 hc)).trans (if_neg (mt (s.changesHeld_iff ..).1 hb))

end

end

/-- Settles O35: the four checks in order, and the record set where none of them bars it. -/
theorem targetWrite : Obligations.TargetWrite := by
  intro serial target cls flags s hs u old new base formed clash held bars
  rw [exec_targetWrite serial hs]
  exact ⟨fun h => congrArg _ (State.reqTargetWrite_badArg h),
    fun h hl => congrArg _ (State.reqTargetWrite_locked h hl),
    fun h hl hc => congrArg _ (State.reqTargetWrite_secondBootMapped (s := base) h hl hc),
    fun h hl hc hb => congrArg _ (State.reqTargetWrite_inUse (s := base) h hl hc hb),
    fun h hl hc hb => congrArg _ (State.reqTargetWrite_of_free (s := base) h hl hc hb)⟩

end Sys2Proof.Machine
end

section
/-! The queue's front (O1) and the invariants of the state after a part reset at factory state (O2). -/

namespace Sys2Proof.Machine

open Sys2Proof

/-- Settles O1: a step takes the front of its queue off and runs it. -/
theorem stepTakesFront : Obligations.StepTakesFront := fun _ _ => rfl

/-! ### The state after a part reset (12.1) -/

theorem State.reset_linesSafe : State.reset.linesSafe := ⟨nofun, fun _ => rfl, nofun⟩

theorem State.reset_waitsBacked : State.reset.waitsBacked :=
  (State.waitsBacked_iff _).2 ⟨nofun, nofun⟩

/-- R48: the fresh map and the pool of the sectors behind it are sound, and nothing is held. -/
theorem State.reset_mapSound : State.reset.mapSound :=
  (State.mapSound_iff _).2 ⟨State.reset_sectorsGood.spares, State.reset_sectorsGood.held⟩

/-- The tables of a fresh part are empty. -/
theorem State.reset_formsWf : State.reset.formsWf := ⟨reset_flash_wf, rfl, rfl, rfl⟩

/-- Settles O2, invariant by invariant. -/
theorem invariantsAtReset : Obligations.InvariantsAtReset :=
  ⟨State.reset_bounded, State.reset_linesSafe, State.reset_waitsBacked, State.reset_mapSound, State.reset_formsWf⟩

end Sys2Proof.Machine
end

section
/-! The record of a request (R89, R171, 11.7): the words and the check of its image (O39), the records that are turned away
before the rule of their code (O38), and the requests on the log, the alert and the part (O31). -/

namespace Sys2Proof.Machine

open Sys2Proof

/-! ### The image of a record (R89, 11.7) -/

/-- Settles O39: each word of the image is a word of the record. -/
theorem recordRoundTrip : Obligations.RecordRoundTrip := by
  intro serial code a1 a2 a3 a4 image
  have hword (k : Nat) {w : Word} := wordAt_recordImage serial code a1 a2 a3 a4 (k := k) (w := w)
  exact ⟨recordImage_length .., recordGood_recordImage .., hword 0 rfl, hword 1 rfl, hword 2 rfl, hword 3 rfl,
    hword 4 rfl, hword 5 rfl, hword 6 rfl⟩

/-! ### Records turned away (R171, cases 1 to 3) -/

/-- R171: the numbers that are no code have no rule. -/
theorem requestRule_eq_none_iff {code a1 a2 a3 a4 : Word} :
    requestRule code a1 a2 a3 a4 = none ↔ code.toNat = 0 ∨ 15 < code.toNat := by
  unfold requestRule
  split <;> grind

section
variable {s : State} {image : List Byte}

theorem State.mayRequest_of_open (hphase : s.phase = .running) (hopen : s.portOpen = true)
    (hdriven : s.hrstDriven = false) (hidle : s.tracker = .idle) : s.mayRequest = true := by
  simp [State.mayRequest, State.accepts, hphase, hopen, hdriven, hidle]

/-- R171, case 1: a record that comes while a request is PENDING. -/
theorem State.takeRequest_of_pending (h : s.lastOutcome = .pending) (serial code : Word) (act : State → State) :
    s.takeRequest image serial code act = { s with lastBusy := some serial } := if_pos h

theorem State.judgeRecord_of_bad (h : s.lastOutcome ≠ .pending) (hg : recordGood image = false) :
    s.judgeRecord image = { s with
      reqPage := image, lastSerial := some (wordAt image 4), lastCode := some (wordAt image 8)
      lastOutcome := .refused, lastReason := some .badRecord } := by
  rw [State.judgeRecord, hg]
  exact if_neg h

theorem State.judgeRecord_of_unknown (h : s.lastOutcome ≠ .pending) (hg : recordGood image = true)
    (hr : imageRule image = none) :
    s.judgeRecord image = { s with
      reqPage := image, lastSerial := some (wordAt image 4), lastCode := some (wordAt image 8)
      lastOutcome := .refused, lastReason := some .unknownCode } := by
  rw [State.judgeRecord, hg, hr]
  exact if_neg h

theorem exec_requestNotCarried (hm : s.mayRequest = true) (hn : s.notCarried image = true) :
    exec (.requestNotCarried image) s = .next ({ s.begin with echo := false }.judgeRecord image) :=
  congrArg Host.Outcome.next (if_pos (Bool.and_eq_true_iff.2 ⟨hm, hn⟩))

/-- R171, case 1: a request row of the table while a request is PENDING. -/
theorem State.request_of_pending (hm : s.mayRequest = true) (h : s.lastOutcome = .pending)
    (serial code a1 a2 a3 a4 : Word) (act : State → State) :
    s.begin.request serial code a1 a2 a3 a4 act = { s.begin with echo := false, lastBusy := some serial } :=
  (if_pos hm).trans (State.takeRequest_of_pending (s := { s.begin with echo := false }) h serial code act)

end

/-- Settles O38, by the cases of R171. -/
theorem requestTurnedAway : Obligations.RequestTurnedAway := by
  intro image s hphase hopen hdriven hidle base shown
  have hm : s.mayRequest = true := State.mayRequest_of_open hphase hopen hdriven hidle
  refine ⟨fun hp => ?_, fun hp hg => ?_, fun hp hg hc => ?_, fun serial x hp => ?_⟩
  · rw [exec_requestNotCarried hm (by simp [State.notCarried, hp])]
    exact congrArg _ (State.takeRequest_of_pending (s := base) hp ..)
  · rw [exec_requestNotCarried hm (by simp [State.notCarried, hg])]
    exact congrArg _ (State.judgeRecord_of_bad (s := base) hp hg)
  · have hr : imageRule image = none := requestRule_eq_none_iff.2 hc
    rw [exec_requestNotCarried hm (by simp [State.notCarried, hr])]
    exact congrArg _ (State.judgeRecord_of_unknown (s := base) hp hg hr)
  · exact ⟨congrArg _ (State.request_of_pending hm hp ..), congrArg _ (State.request_of_pending hm hp ..)⟩

/-! ### LOG_FREE, ACK_ALERT and RELOAD (R173) -/

section
variable {s : State} {n : Word}

theorem State.reqLogFree_of_zero (h : n = 0) : s.reqLogFree n = s.turnedDown .badArg := if_pos (by simp [h])

theorem State.reqLogFree_of_tooMany (h : s.log.length < n.toNat) : s.reqLogFree n = s.turnedDown .freeTooMany :=
  (if_neg (by omega)).trans (if_pos h)

/-- R173: the oldest entries go, and the overrun flag with them. -/
theorem State.reqLogFree_of_le (h0 : n ≠ 0) (h : n.toNat ≤ s.log.length) :
    s.reqLogFree n =
      { s with log := s.log.drop n.toNat, overrun := false, lastOutcome := .done, lastReason := none } := by
  have hpos : n.toNat ≠ 0 := by simpa [← BitVec.toNat_inj] using h0
  exact (if_neg hpos).trans (if_neg (Nat.not_lt.2 h))

/-- R173, R177: the acknowledgement clears the alert in the mode ON_ACK alone. -/
theorem State.reqAckAlert_eq :
    s.reqAckAlert = { s with
      alertPending := (if s.cfg.settings.alertMode = .onAck then false else s.alertPending)
      lastOutcome := .done, lastReason := none } := by
  unfold State.reqAckAlert
  split <;> rfl

/-- R181: a part that has supply is reset by RESET_IN_N. -/
theorem exec_resetInAssert (h : s.phase ≠ .unpowered) (b : Bool) :
    exec (.resetInAssert b) s = .next (s.partReset b) := congrArg Host.Outcome.next (if_neg h)

end

/-- Settles O31, request by request. -/
theorem logAndAlert : Obligations.LogAndAlert := by
  intro serial n s hs base
  have hfree : exec (.logFree serial n) s = .next (base.reqLogFree n) :=
    congrArg _ (s.request_taken serial 7 n 0 0 0 (State.reqLogFree n) hs)
  have hack : exec (.ackAlert serial) s = .next (s.taken serial 8 0 0 0 0).reqAckAlert :=
    congrArg _ (s.request_taken serial 8 0 0 0 0 State.reqAckAlert hs)
  obtain ⟨hphase, -⟩ := id hs
  rw [hfree]
  refine ⟨fun h => congrArg _ (State.reqLogFree_of_zero h),
    fun h => congrArg _ (State.reqLogFree_of_tooMany (s := base) h),
    fun h0 h => congrArg _ (State.reqLogFree_of_le (s := base) h0 h), hack.trans (congrArg _ State.reqAckAlert_eq), ?_⟩
  rw [exec_reload serial hs, exec_resetInAssert (by simp [hphase])]

end Sys2Proof.Machine
end

section
/-! The canonical form of the flash's contents and of the sparse tables (3.4, 3.5; log entries 5 and 33) under the shared
operations: sectors and strikes, verdicts, boot events, the ends of operations, erases and reads. -/

namespace Sys2Proof.Machine

open Sys2Proof

/-! ### Tables changed entry by entry -/

section
variable {α : Type} [DecidableEq α] {d : Nat → α} {f : Nat → α → α}

omit [DecidableEq α] in
theorem keysAbove_map {k : Nat} {t : List (Nat × α)} (h : keysAbove k t) :
    keysAbove k (t.map fun (j, x) => (j, f j x)) := by
  intro c hc
  obtain ⟨e, he, rfl⟩ := List.mem_map.1 hc
  exact h e he

/-- A change of the entries that makes none of them what an unlisted key reads as keeps the canonical form. -/
theorem tableWf_map (hf : ∀ k x, x ≠ d k → f k x ≠ d k) {t : List (Nat × α)} (h : tableWf d t = true) :
    tableWf d (t.map fun (k, x) => (k, f k x)) = true := by
  induction t with
  | nil => rfl
  | cons c t ih =>
    obtain ⟨k, x⟩ := c
    obtain ⟨hx, habove, ht⟩ := tableWf_cons.1 h
    exact tableWf_cons.2 ⟨hf k x hx, keysAbove_map habove, ih ht⟩

end

/-! ### Steps in general -/

theorem State.formsWf_ite {c : Prop} [Decidable c] {s t : State} (hs : s.formsWf) (ht : t.formsWf) :
    (if c then s else t).formsWf := by
  split
  · exact hs
  · exact ht

theorem State.formsWf.foldl {α : Type} {s : State} (h : s.formsWf) {f : State → α → State} {l : List α}
    (hf : ∀ (u : State) (x : α), u.formsWf → (f u x).formsWf) : (l.foldl f s).formsWf :=
  List.foldlRecOn l f h fun u hu x _ => hf u x hu

/-- What stands through slots, targets, log, offers and jobs holds the flash and every table. -/
theorem State.formsWf.of_standing {s t : State} (h : s.formsWf) (ht : t.standing = s.standing) : t.formsWf :=
  show t.standing.formsWf from ht ▸ h

section
variable {s : State} (h : s.formsWf)

include h

/-! ### The flash and the tables -/

theorem State.formsWf.flash_wf : s.flash.wf = true := h.1

theorem State.formsWf.setFlash {f : Flash} (hf : f.wf = true) : State.formsWf { s with flash := f } := by
  obtain ⟨-, htables⟩ := h
  exact ⟨hf, htables⟩

theorem State.formsWf.startOp {op : FlashOp} : State.formsWf { s with flash := s.flash.startOp op } :=
  h.setFlash (Flash.startOp_wf h.flash_wf op)

theorem State.formsWf.drift {d : Drift} : (s.drift d).formsWf := h.setFlash (Flash.drift_wf h.flash_wf d)

theorem State.formsWf.flashObserved {raw : Byte} : (s.flashObserved raw).formsWf := by
  unfold State.flashObserved
  split
  · exact h
  · next op _ => exact State.formsWf_ite h (h.setFlash (Flash.finish_wf h.flash_wf op _ _))

theorem State.formsWf.setTables {map : List (Nat × Nat)} {health : List (Nat × Health)}
    (hmap : tableWf (fun l => l) map = true) (hhealth : tableWf (fun _ => Health.blank) health = true) :
    State.formsWf { s with map := map, health := health } := by
  obtain ⟨hflash, -, -, hstrikes⟩ := h
  exact ⟨hflash, hmap, hhealth, hstrikes⟩

theorem State.formsWf.setHealth {p : Nat} {x : Health} : (s.setHealth p x).formsWf := by
  obtain ⟨-, hmap, hhealth, -⟩ := id h
  exact h.setTables hmap (healthStore_wf hhealth p x)

theorem State.formsWf.setStrikes {p n : Nat} : (s.setStrikes p n).formsWf := by
  obtain ⟨hflash, hmap, hhealth, hstrikes⟩ := h
  exact ⟨hflash, hmap, hhealth, setStrikes_wf s hstrikes p n⟩

/-! ### Steps that leave them alone -/

theorem State.formsWf.appendLog {e : LogEntry} : (s.appendLog e).formsWf := h
theorem State.formsWf.offer {o : Owner} {p : Payload} : (s.offer o p).formsWf := h
theorem State.formsWf.offerTarget {o : Owner} {t : Nat} : (s.offerTarget o t).formsWf := h
theorem State.formsWf.updSlot {i : Nat} {f : SlotRec → SlotRec} : (s.updSlot i f).formsWf := h
theorem State.formsWf.offerSlot {o : Owner} {i : Nat} : (s.offerSlot o i).formsWf := h.offer.updSlot
theorem State.formsWf.updChunk {i c : Nat} {f : Chunk → Chunk} : (s.updChunk i c f).formsWf := h
theorem State.formsWf.updDyn {t : Nat} {f : TargetDyn → TargetDyn} : (s.updDyn t f).formsWf := h
theorem State.formsWf.setClean {l : Nat} : (s.setClean l).formsWf := h
theorem State.formsWf.clearClean {l : Nat} : (s.clearClean l).formsWf := h
theorem State.formsWf.dropManifest {i : Nat} : (s.dropManifest i).formsWf := h
theorem State.formsWf.dropEntries {f : Nat → Nat → Bool} : (s.dropEntries f).formsWf := h
theorem State.formsWf.dropChunkJob {i c : Nat} : (s.dropChunkJob i c).formsWf := h.dropEntries.updChunk
theorem State.formsWf.dropSlotJobs {i : Nat} : (s.dropSlotJobs i).formsWf := h.dropEntries.updSlot
theorem State.formsWf.failSlot {i : Nat} : (s.failSlot i).formsWf := h.dropSlotJobs.updSlot
theorem State.formsWf.markDecayed {i : Nat} : (s.markDecayed i).formsWf := h.dropSlotJobs.updSlot
theorem State.formsWf.rejectHeader {i : Nat} {r : Reason} : (s.rejectHeader i r).formsWf := h.dropManifest.updSlot
theorem State.formsWf.updBoot {f : BootEvent → BootEvent} : (s.updBoot f).formsWf := h
theorem State.formsWf.setTracker {x : Tracker} : State.formsWf { s with tracker := x } := h
theorem State.formsWf.send {t : MemTxn} : (s.send t).formsWf := h
theorem State.formsWf.setLatch {v : Bool} : (s.setLatch v).formsWf := h
theorem State.formsWf.refuseWrite {r : Reason} {op : Byte} {a : Option Nat} : (s.refuseWrite r op a).formsWf := h
theorem State.formsWf.refuseRequest {r : ReqReason} : (s.refuseRequest r).formsWf := h
theorem State.formsWf.requestPending : s.requestPending.formsWf := h
theorem State.formsWf.putKeyRow {r : KeyRow} : (s.putKeyRow r).formsWf := h
theorem State.formsWf.updStore {f : Store → Store} : (s.updStore f).formsWf := h

theorem State.formsWf.resettle : s.resettle.formsWf := h.of_standing s.resettle_standing

theorem State.formsWf.offerInOrder {o : Owner} {slots targets : List Nat} :
    (s.offerInOrder o slots targets).formsWf := h.of_standing (s.offerInOrder_standing ..)

theorem State.formsWf.eraseChunk {l : Nat} {f : Chunk → Chunk} : (s.eraseChunk l f).formsWf := by
  rw [State.eraseChunk_eq]
  exact h

theorem State.formsWf.headerProgramEnded {i : Nat} : (s.headerProgramEnded i).formsWf := by
  rw [State.headerProgramEnded_eq]
  exact h

theorem State.formsWf.offerChunk {i c : Nat} : (s.offerChunk i c).formsWf := by
  rw [State.offerChunk_eq]
  exact h

/-- What the owners of a sector keep is none of the tables. -/
theorem State.formsWf.owners {t : State} (ht : s.OwnersOnly t) : t.formsWf := by
  rw [show t = _ from ht]
  exact h

theorem State.formsWf.roster {t : State} (ht : s.RosterOnly t) : t.formsWf := h.of_standing ht.standing

/-! ### Suspect sectors and strikes (R50, R51) -/

theorem State.formsWf.markSuspect {r : Reason} {p l : Nat} {a : Option Nat} : (s.markSuspect r p l a).formsWf :=
  State.formsWf_ite h h.appendLog.setHealth.setStrikes.offer

theorem State.formsWf.strike {p l : Nat} : (s.strike p l).formsWf :=
  State.formsWf_ite h (State.formsWf_ite h.markSuspect h.setStrikes)

/-! ### The engine's jobs and verdicts (chapters 4 to 7) -/

theorem State.formsWf.startJob : s.startJob.formsWf := by
  rw [State.startJob_eq]
  exact h

theorem State.formsWf.endJob {j : Job} : (s.endJob j).formsWf := by
  unfold State.endJob
  split <;> exact h

theorem State.formsWf.restartSecondPass {f : Nat → Bool} : (s.restartSecondPass f).formsWf := by
  rw [State.restartSecondPass_eq]
  exact h

theorem State.formsWf.verifyRead {n : Nat} : (s.verifyRead n).formsWf := by
  unfold State.verifyRead
  dsimp only
  split
  · exact h
  · exact State.formsWf_ite h (State.formsWf_ite h h)

theorem State.formsWf.patrolStep : s.patrolStep.formsWf := by
  unfold State.patrolStep
  split
  · exact h
  · next p _ =>
    exact State.formsWf_ite (State.formsWf.startJob (s := { s.joinQueue { kind := .patrol, slot := p.1, chunk := p.2 } with
      patrolSlot := (s.pointerAfter p).1, patrolChunk := (s.pointerAfter p).2 }) h) h

theorem State.formsWf.admissionOutcome {i : Nat} {w : List Word} {tag : Bool} :
    (s.admissionOutcome i w tag).formsWf := by
  unfold State.admissionOutcome
  split
  · exact h.dropManifest.updSlot.appendLog.offerSlot
  · exact h.rejectHeader.appendLog

theorem State.formsWf.trialEndedByCheck {i : Nat} {r : Reason} {c : Option Nat} :
    (s.trialEndedByCheck i r c).formsWf :=
  h.failSlot.updDyn.appendLog.offerSlot.offerTarget

theorem State.formsWf.reloadFailedSlot {i : Nat} {r : Reason} : (s.reloadFailedSlot i r).formsWf := by
  have h1 : ((s.dropManifest i).updSlot i SlotRec.reloadFailed).formsWf := h.dropManifest.updSlot
  unfold State.reloadFailedSlot
  dsimp only
  split
  case _ | _ => exact h1.failSlot.appendLog.offerSlot
  · exact h1.trialEndedByCheck
  case _ | _ => exact h1.markDecayed.appendLog.offerSlot
  all_goals exact h1

theorem State.formsWf.reloadOutcome {i : Nat} {w : List Word} {tag : Bool} : (s.reloadOutcome i w tag).formsWf := by
  unfold State.reloadOutcome
  split
  · exact h.dropManifest.updSlot
  · exact h.reloadFailedSlot

theorem State.formsWf.chunkMismatched {r : Reason} {i c p : Nat} : (s.chunkMismatched r i c p).formsWf :=
  h.updChunk.appendLog.strike

theorem State.formsWf.sealIfVerified {i : Nat} : (s.sealIfVerified i).formsWf :=
  State.formsWf_ite h.updSlot.appendLog.offerSlot h

theorem State.formsWf.chunkVerdict {i c p : Nat} {m : Bool} : (s.chunkVerdict i c p m).formsWf := by
  unfold State.chunkVerdict
  split
  · exact h
  · refine State.formsWf_ite (State.formsWf_ite h.updChunk.setStrikes.sealIfVerified ?_) h
    split
    · exact h.chunkMismatched
    · exact h

theorem State.formsWf.patrolVerdict {i c p : Nat} {m : Bool} : (s.patrolVerdict i c p m).formsWf := by
  have h1 : (s.chunkMismatched .patrol i c p).formsWf := h.chunkMismatched
  unfold State.patrolVerdict
  split
  · exact h
  · refine State.formsWf_ite (State.formsWf_ite h.updChunk.setStrikes ?_) h
    dsimp only
    split
    · exact h1.failSlot.offerSlot
    · exact h1.trialEndedByCheck
    case _ | _ => exact h1.markDecayed.appendLog.offerSlot
    all_goals exact h1

/-! ### Boot events and scans (8.5) -/

omit h in
theorem bootClosed_formsWf : BootClosed State.formsWf where
  boot _ _ h := h
  dyn _ _ _ _ h := h.updDyn
  log _ _ h := h.appendLog
  offer _ _ _ h := h.offer
  offerSlot _ _ _ h := h.offerSlot
  decayed _ _ h := h.markDecayed
  scan _ _ _ h := h

theorem State.formsWf.bootTrialFails {t i : Nat} {r : Option Reason} {c : Option Nat} :
    (s.bootTrialFails t i r c).formsWf :=
  h.failSlot.dropManifest.updSlot.updDyn.appendLog.updBoot

theorem State.formsWf.beginBoot {startup : Bool} : (s.beginBoot startup).formsWf :=
  h.of_standing (s.beginBoot_standing startup)

theorem State.formsWf.scanEnds {c : Scan} {pass : Bool} {r : Option Reason} {k : Option Nat} :
    (s.scanEnds c pass r k).formsWf := by
  unfold State.scanEnds
  extract_lets s1
  have h1 : s1.formsWf := h
  split
  · exact h1
  · split
    · exact bootClosed_formsWf.trialScanned h1 (fun _ _ => h1.bootTrialFails) ..
    · exact bootClosed_formsWf.activeScanned h1 ..
    · exact bootClosed_formsWf.fallbackScanned h1 ..

theorem State.formsWf.scanManifestVerdict {c : Scan} {w : List Word} {tag : Bool} :
    (s.scanManifestVerdict c w tag).formsWf := by
  unfold State.scanManifestVerdict
  extract_lets s0 s1
  have h0 : s0.formsWf := h
  split
  · exact h0.dropManifest.updSlot.scanEnds
  · have h1 : s1.formsWf := State.formsWf_ite h0 h0
    exact State.formsWf_ite h1 h1.scanEnds

theorem State.formsWf.scanChunkVerdict {c : Scan} {p : Nat} {m : Bool} : (s.scanChunkVerdict c p m).formsWf := by
  unfold State.scanChunkVerdict
  extract_lets s0 s1
  have h0 : s0.formsWf := h
  have h1 : s1.formsWf := h0.updChunk.setStrikes
  exact State.formsWf_ite (State.formsWf_ite h1.scanEnds h1) h0.dropChunkJob.chunkMismatched.scanEnds

/-! ### Ends of operations (R16) -/

theorem State.formsWf.programEnded {op : OpRecord} {failed : Bool} : (s.programEnded op failed).formsWf := by
  unfold State.programEnded
  extract_lets s0
  have h0 : s0.formsWf := h
  split
  · exact h0
  · extract_lets suspect
    have hs {u : State} (hu : u.formsWf) : (suspect u).formsWf := State.formsWf_ite hu.markSuspect hu
    have hfailed {i c p a : Nat} : (s0.chunkProgramFailed i c p a).formsWf := State.formsWf_ite h0 h0
    split
    · exact hs h0
    · exact State.formsWf_ite (hs h0).headerProgramEnded.resettle
        (State.formsWf_ite (hs hfailed).resettle h0.offerChunk.resettle)

theorem State.formsWf.eraseEnded {op : OpRecord} {failed : Bool} : (s.eraseEnded op failed).formsWf := by
  unfold State.eraseEnded
  extract_lets s0
  have h0 : s0.formsWf := h
  split
  · exact h0
  · exact State.formsWf_ite h0.clearClean.markSuspect.eraseChunk h0

theorem State.formsWf.observe {raw : Byte} : (s.observe raw).formsWf := by
  have h1 : (s.flashObserved raw).formsWf := h.flashObserved
  unfold State.observe
  dsimp only
  split
  · exact State.formsWf_ite h1 h1.programEnded
  · exact State.formsWf_ite h1 h1.eraseEnded
  · exact h1
  · exact h1

theorem State.formsWf.observeEnd {b : Byte} : (s.observeEnd b).formsWf := State.formsWf_ite h h.observe

theorem State.formsWf.statusByte {b : Byte} : (s.statusByte b).formsWf := h.observe (raw := s.flashAnswer b)

theorem State.formsWf.pollBytes (bs : List Byte) (n : Nat) : (State.pollBytes bs n s).2.formsWf := by
  induction bs generalizing n s with
  | nil => exact h
  | cons b bs ih =>
    unfold State.pollBytes
    split
    · exact ih h.observe _
    · exact h

theorem State.formsWf.idleBytes (bs : List Byte) (n : Nat) : (State.idleBytes bs n s).2.2.formsWf := by
  induction bs generalizing n s with
  | nil => exact h
  | cons b bs ih =>
    unfold State.idleBytes
    extract_lets raw
    split
    · exact ih h.flashObserved _
    · exact h.flashObserved

/-! ### Erases (R3, R19, R20, R53 to R61) -/

theorem State.formsWf.applyDecision {d : Decision} : (s.applyDecision d).formsWf := by
  obtain ⟨-, hmap, hhealth, -⟩ := id h
  rw [State.applyDecision_eq]
  exact h.setTables (s.applyDecision_map_wf d hmap) (s.applyDecision_health_wf d hhealth)

theorem State.formsWf.discardWear {d : Decision} : (s.discardWear d).formsWf := by
  unfold State.discardWear
  split
  · exact h
  · exact h.setHealth

theorem State.formsWf.stagingForwarded {d : Decision} : (s.stagingForwarded d).formsWf :=
  h.applyDecision.setHealth.setClean.eraseChunk

theorem State.formsWf.stagingDiscarded {d : Decision} : (s.stagingDiscarded d).formsWf :=
  h.applyDecision.discardWear.clearClean.eraseChunk

theorem State.formsWf.forwardErase {t : MemTxn} {op : OpRecord} {d : Option Decision} :
    (s.forwardErase t op d).formsWf := by
  unfold State.forwardErase
  extract_lets _ s1
  have h1 : s1.formsWf := h.startOp
  split
  · exact h1
  · exact h1.stagingForwarded

theorem State.formsWf.acceptErase {tx : HostTxn} {op : OpRecord} {d : Option Decision} {cut : Bool} :
    (s.acceptErase tx op d cut).formsWf :=
  State.formsWf_ite h (State.formsWf_ite h h.forwardErase)

theorem State.formsWf.forwardHeld {op : OpRecord} {x : Hold} {cut : SendCut} : (s.forwardHeld op x cut).formsWf := by
  unfold State.forwardHeld
  dsimp only
  split
  · exact h.send
  · exact h.send.setLatch.send
  · exact h.send.setLatch.forwardErase

theorem State.formsWf.releaseGuard : s.releaseGuard.formsWf := by
  unfold State.releaseGuard
  split
  · exact State.formsWf_ite h h
  · exact h

theorem State.formsWf.discardHeld : s.discardHeld.formsWf := by
  unfold State.discardHeld
  split
  · extract_lets free s1
    have h1 : s1.formsWf := h
    split
    · exact h1
    · exact h1.stagingDiscarded
  · exact h

/-! ### Reads (R29) -/

theorem State.formsWf.partByte {a : Nat} : (s.partByte a).2.formsWf := by
  have htouch {p o : Nat} {page : List Byte} : (s.touchPage p o page).formsWf := by
    unfold State.touchPage
    extract_lets s1
    have h1 : s1.formsWf := State.formsWf_ite h h
    exact State.formsWf_ite h1 h1
  unfold State.partByte State.windowByte
  split
  · split
    · exact h
    · split
      · exact h
      · exact htouch
  · exact h

theorem State.formsWf.serve (tx : HostTxn) (n i a : Nat) (prev : Option Nat) : (s.serve tx n i a prev).formsWf := by
  induction n generalizing i a prev s with
  | zero => exact h
  | succ n ih =>
    unfold State.serve
    refine ih ?_ _ _ _
    split
    · exact h.partByte (a := a)
    · exact h
    · exact h

theorem State.formsWf.readRuns {tx : HostTxn} {len : Nat} : (s.readRuns tx len).formsWf := by
  unfold State.readRuns
  extract_lets a src s1
  refine State.formsWf_ite h ?_
  have h1 : s1.formsWf := by
    unfold s1
    clear_value src
    cases src <;> exact h
  exact h1.serve tx len 0 a (runTag src a)

end

end Sys2Proof.Machine
end

section
/-! The canonical forms under the rest of the commands' operations: requests, the host's writes, the steps of the record store,
and what start-up takes from the journal. -/

namespace Sys2Proof.Machine

open Sys2Proof

section
variable {s : State} (h : s.formsWf)

include h

/-! ### Requests (8.3, chapter 10) -/

theorem State.formsWf.requestAwaits : s.requestAwaits.formsWf := State.formsWf_ite h h

theorem State.formsWf.confirmLog {before : State} {i : Nat} : (s.confirmLog before i).formsWf := by
  unfold State.confirmLog
  split <;> exact h

theorem State.formsWf.reqActivate {a : Word} : (s.reqActivate a).formsWf := by
  refine State.formsWf_ite h (State.formsWf_ite h (State.formsWf_ite h ?_))
  split
  · exact h.updSlot.updDyn.appendLog.offerTarget.offerSlot.requestPending
  · exact h.refuseRequest

theorem State.formsWf.reqConfirm {a : Word} : (s.reqConfirm a).formsWf := by
  unfold State.reqConfirm
  extract_lets i r t floor below s1 changed _ s2 s3
  refine State.formsWf_ite h (State.formsWf_ite h (State.formsWf_ite h ?_))
  have h1 : s1.formsWf :=
    (h.roster (s.confirmRoles_rosterOnly i t floor)).foldl fun u j hu => hu.roster (u.outdate_rosterOnly floor j)
  have h3 : s3.formsWf := h1.appendLog.foldl fun _ _ hu => hu.confirmLog
  exact h3.offerInOrder.requestPending.resettle

theorem State.formsWf.reqAbandon {a : Word} : (s.reqAbandon a).formsWf :=
  State.formsWf_ite h
    (State.formsWf_ite h h.updSlot.updDyn.appendLog.offerTarget.offerSlot.requestPending)

theorem State.formsWf.reqDiscard {a : Word} : (s.reqDiscard a).formsWf := by
  unfold State.reqDiscard
  extract_lets i r s1 s2 s3
  have h1 : s1.formsWf := h.roster (s.emptySlot_rosterOnly i)
  have h2 : s2.formsWf := State.formsWf_ite h1 h1.offerSlot
  have h3 : s3.formsWf := State.formsWf_ite h2.offerTarget h2
  exact State.formsWf_ite h (State.formsWf_ite h (State.formsWf_ite h h3.requestAwaits.resettle))

theorem State.formsWf.reqClearStaging : s.reqClearStaging.formsWf :=
  (h.of_standing s.stagingCleared_standing).requestAwaits.resettle

theorem State.formsWf.reqSetSlotCode {a : Word} : (s.reqSetSlotCode a).formsWf :=
  State.formsWf_ite h (State.formsWf_ite h (State.formsWf_ite h h))

theorem State.formsWf.reqLogFree {n : Word} : (s.reqLogFree n).formsWf :=
  State.formsWf_ite h (State.formsWf_ite h h)

theorem State.formsWf.reqAckAlert : s.reqAckAlert.formsWf := by
  rw [State.reqAckAlert_eq]
  exact h

theorem State.formsWf.reqKeyWrite {a v : Word} : (s.reqKeyWrite a v).formsWf :=
  State.formsWf_ite h (State.formsWf_ite h (State.formsWf_ite h h.putKeyRow.restartSecondPass))

theorem State.formsWf.reqKeyRevoke {a : Word} : (s.reqKeyRevoke a).formsWf := by
  refine State.formsWf_ite h ?_
  split
  · exact h.putKeyRow.restartSecondPass
  · exact h

theorem State.formsWf.reqTargetWrite {a c f : Word} : (s.reqTargetWrite a c f).formsWf :=
  State.formsWf_ite h (State.formsWf_ite h (State.formsWf_ite h (State.formsWf_ite h h)))

theorem State.formsWf.reqConfigWrite {i n v : Word} : (s.reqConfigWrite i n v).formsWf := by
  unfold State.reqConfigWrite
  split
  · exact h
  · exact State.formsWf_ite h h

theorem State.formsWf.reqLock : s.reqLock.formsWf := State.formsWf_ite h h

theorem State.formsWf.reqFactoryClear : s.reqFactoryClear.formsWf := by
  have hfloors : State.formsWf { s with targets := s.targets.map fun d => { d with floor := 0 } } := h
  exact (hfloors.putKeyRow.foldl fun _ _ hu => hu.offerTarget).restartSecondPass

/-- R181: a part reset empties the tables and leaves the flash. -/
theorem State.formsWf.partReset {b : Bool} : (s.partReset b).formsWf := ⟨h.flash_wf, rfl, rfl, rfl⟩

theorem requestRule_formsWf {code a1 a2 a3 a4 : Word} {act : State → State}
    (hr : requestRule code a1 a2 a3 a4 = some act) : (act s).formsWf := by
  unfold requestRule at hr
  split at hr <;> cases hr
  · exact h.reqActivate
  · exact h.reqConfirm
  · exact h.reqAbandon
  · exact h.reqDiscard
  · exact h.reqClearStaging
  · exact h.reqSetSlotCode
  · exact h.reqLogFree
  · exact h.reqAckAlert
  · exact State.formsWf.partReset (s := s.requestDone) h
  · exact h.reqKeyWrite
  · exact h.reqKeyRevoke
  · exact h.reqTargetWrite
  · exact h.reqConfigWrite
  · exact h.reqLock
  · exact h.reqFactoryClear

theorem State.formsWf.takeRequest {image : List Byte} {serial code : Word} {act : State → State}
    (ha : ∀ u : State, u.formsWf → (act u).formsWf) : (s.takeRequest image serial code act).formsWf :=
  State.formsWf_ite h (ha { s with reqPage := image, lastSerial := some serial, lastCode := some code } h)

theorem State.formsWf.judgeRecord {image : List Byte} : (s.judgeRecord image).formsWf := by
  refine h.takeRequest fun u hu => ?_
  split
  · cases hr : imageRule image with
    | none => exact hu
    | some act => exact requestRule_formsWf hu hr
  · exact hu

/-- A request row of the table keeps the forms, as the rule of its code does. -/
theorem State.formsWf.requestRow {serial code a1 a2 a3 a4 : Word} {act : State → State}
    (hr : requestRule code a1 a2 a3 a4 = some act) : (s.begin.request serial code a1 a2 a3 a4 act).formsWf :=
  State.formsWf_ite
    (State.formsWf.takeRequest (s := { s.begin with echo := false }) h fun _ hu => requestRule_formsWf hu hr) h

/-! ### Writes (R11, R30 to R39) -/

theorem State.formsWf.takeWrite {op : Byte} {a : Option Nat} {f : State → State}
    (hf : ∀ u : State, u.formsWf → (f u).formsWf) : (s.takeWrite op a f).formsWf := by
  unfold State.takeWrite
  split
  · exact h
  · exact h
  · exact h
  · exact hf { s with echo := false } h

theorem State.formsWf.stagingErase {tx : HostTxn} {a : Nat} {cut : Bool} : (s.stagingErase tx a cut).formsWf := by
  unfold State.stagingErase
  dsimp only
  split
  · exact h
  · next i k _ =>
    split
    · exact h
    · have htaken := h.owners (s.takeSector_ownersOnly i k)
      exact (htaken.owners (State.takeDecision_ownersOnly ..)).acceptErase.resettle

theorem State.formsWf.idleEraseSector {tx : HostTxn} {a : Nat} {cut : Bool} :
    (s.idleEraseSector tx a cut).formsWf := by
  unfold State.idleEraseSector
  split
  · exact h.acceptErase
  · exact h.stagingErase
  all_goals exact h

theorem State.formsWf.idleEraseLarge {tx : HostTxn} {a : Nat} {cut : Bool} : (s.idleEraseLarge tx a cut).formsWf :=
  State.formsWf_ite h.acceptErase h

theorem State.formsWf.sendProgram {tx : HostTxn} {a : Nat} : (s.sendProgram tx a).formsWf := h.startOp

theorem State.formsWf.stagingProgram {tx : HostTxn} {a : Nat} : (s.stagingProgram tx a).formsWf := by
  unfold State.stagingProgram
  extract_lets l p
  split
  · exact h
  · next i k _ =>
    split
    · exact h
    · extract_lets s1 s2
      have htaken : (s.takeProgram i k (pageOf a)).formsWf := State.formsWf_ite h.updSlot h.updChunk
      have h2 : s2.formsWf := htaken.sendProgram.clearClean.setTracker
      have hcapture : (s2.capture i a tx.data).formsWf :=
        State.formsWf_ite h2.updSlot h2.rejectHeader.appendLog.resettle
      exact State.formsWf_ite hcapture h2

theorem State.formsWf.idleProgram {tx : HostTxn} {a : Nat} : (s.idleProgram tx a).formsWf := by
  unfold State.idleProgram
  split
  · exact h.startOp
  · exact h.stagingProgram
  · exact State.formsWf_ite h.judgeRecord h
  all_goals exact h

/-! ### Steps of the record store (chapter 9) -/

theorem State.formsWf.recordWritten : s.recordWritten.formsWf := by
  unfold State.recordWritten
  split
  · rw [State.completeRequest_eq, State.releaseHold_eq]
    exact h
  · exact h

theorem State.formsWf.rowWritten : s.rowWritten.formsWf := by
  unfold State.rowWritten
  split
  · rw [State.completeRequest_eq]
    exact h
  · exact h

theorem State.formsWf.startCompaction : s.startCompaction.formsWf := by
  unfold State.startCompaction
  split
  · exact State.formsWf_ite h h
  · exact h

theorem State.formsWf.writeSnapshot : s.writeSnapshot.formsWf := by
  unfold State.writeSnapshot
  split
  · split
    · exact State.formsWf_ite h h
    all_goals exact h
  · exact h

theorem State.formsWf.storeStep {f : State → State} (hf : ∀ u : State, u.formsWf → (f u).formsWf) :
    (s.storeStep f).formsWf :=
  State.formsWf_ite (hf s.begin h) h

/-! ### Start-up (R153 to R156, R185 to R187) -/

theorem State.formsWf.applyRecord {r : Record} : (s.applyRecord r).formsWf := by
  obtain ⟨hflash, hmap, hhealth, hstrikes⟩ := h
  obtain ⟨hf, hst⟩ : (s.applyRecord r).flash = s.flash ∧ (s.applyRecord r).strikes = s.strikes := by
    unfold State.applyRecord
    cases r.payload with
    | slot i m =>
      dsimp only
      split <;> exact ⟨rfl, rfl⟩
    | _ => exact ⟨rfl, rfl⟩
  obtain ⟨hmap', -⟩ := s.applyRecord_map r hmap 0
  obtain ⟨hhealth', -⟩ := s.applyRecord_health r hhealth 0
  exact ⟨hf ▸ hflash, hmap', hhealth', hst ▸ hstrikes⟩

/-- R155: fresh staging state has the fresh map and no health record. -/
theorem State.formsWf.freshStaging : s.freshStaging.formsWf := h.setTables rfl rfl

theorem State.formsWf.replay : s.replay.formsWf := by
  unfold State.replay
  split
  · exact h.freshStaging
  · extract_lets cells recs s1 same s2 closed
    have h1 : s1.formsWf := h.foldl fun _ _ hu => hu.applyRecord
    have h2 : s2.formsWf := State.formsWf_ite h1 h1.freshStaging
    exact h2

omit h in
theorem Health.retireIf_ne_blank {x : Health} (hx : x ≠ Health.blank) (unused : Bool) :
    x.retireIf unused ≠ Health.blank := by
  unfold Health.retireIf
  split
  · exact fun he => nomatch congrArg Health.retired he
  · exact hx

/-- R48: the retirement of suspect sectors out of use blanks no record. -/
theorem State.formsWf.pooled : s.pooled.formsWf := by
  obtain ⟨hflash, hmap, hhealth, -⟩ := h
  refine ⟨hflash, hmap, ?_, rfl⟩
  rw [State.pooled_health]
  exact tableWf_map (fun p _ hx => Health.retireIf_ne_blank hx (!s.isMapped p)) hhealth

theorem State.formsWf.afterIdleWait : s.afterIdleWait.formsWf := h.replay.pooled.of_standing s.afterIdleWait_standing

end

end Sys2Proof.Machine
end

section
/-! Every command keeps the canonical form of the flash's contents and of the sparse tables: the settlement of O7. -/

namespace Sys2Proof.Machine

open Sys2Proof

/-- The command answers a next state in canonical form. -/
def InForm (o : Host.Outcome State Fault Refusal) : Prop := ∃ t, o = .next t ∧ t.formsWf

section
variable {s : State} (h : s.formsWf)

include h

theorem State.formsWf.begin : s.begin.formsWf := h
theorem State.formsWf.tick {e : Nat} : (s.begin.tick e).formsWf := h
theorem State.formsWf.drifted {d : Drift} : (s.begin.drift d).formsWf := h.begin.drift

/-- A verdict: the job ends, its outcome keeps the forms, and the engine goes on. -/
theorem State.formsWf.verdict {d : Drift} {j : Job} {f : State → State}
    (hf : ∀ u : State, u.formsWf → (f u).formsWf) : (f ((s.begin.drift d).endJob j)).resettle.formsWf :=
  (hf _ h.drifted.endJob).resettle

/-! ### The host's transactions and the part's own -/

theorem execStatusRead_inForm (tx : HostTxn) (answers : List Byte) : InForm (execStatusRead tx answers s) :=
  ⟨_, rfl, State.formsWf_ite (h.begin.send.foldl fun _ _ hu => hu.statusByte) h⟩

theorem execProgramEnd_inForm (b : Byte) : InForm (execProgramEnd b s) := by
  refine ⟨_, rfl, ?_⟩
  split
  · exact h.begin.observeEnd
  · exact h

theorem execEraseEnd_inForm (b : Byte) : InForm (execEraseEnd b s) := by
  refine ⟨_, rfl, ?_⟩
  split
  · exact h.begin.observeEnd
  · exact h

theorem execHeldEraseForward_inForm (e : Nat) (cut : SendCut) : InForm (execHeldEraseForward e cut s) := by
  refine ⟨_, rfl, ?_⟩
  split
  · exact State.formsWf_ite h.tick.forwardHeld h
  · exact h

/-! ### Verdicts -/

theorem execAdmissionVerdict_inForm (d : Drift) : InForm (execAdmissionVerdict d s) := by
  refine ⟨_, rfl, ?_⟩
  split
  · exact h.drifted
  · exact h.verdict fun _ hu => hu.admissionOutcome

theorem execReloadVerdict_inForm (d : Drift) : InForm (execReloadVerdict d s) := by
  refine ⟨_, rfl, ?_⟩
  split
  · exact h.drifted
  · exact h.verdict fun _ hu => hu.reloadOutcome

theorem execChunkVerdict_inForm (d : Drift) : InForm (execChunkVerdict d s) := by
  refine ⟨_, rfl, ?_⟩
  split
  · exact h.drifted
  · exact h.verdict fun _ hu => hu.chunkVerdict

theorem execPatrolVerdict_inForm (d : Drift) : InForm (execPatrolVerdict d s) := by
  refine ⟨_, rfl, ?_⟩
  split
  · exact h.drifted
  · exact h.verdict fun _ hu => hu.patrolVerdict

theorem execBootScanManifestVerdict_inForm (d : Drift) : InForm (execBootScanManifestVerdict d s) := by
  refine ⟨_, rfl, ?_⟩
  split
  · exact h.verdict fun _ hu => hu.scanManifestVerdict
  · exact h.drifted

theorem execBootScanChunkVerdict_inForm (d : Drift) : InForm (execBootScanChunkVerdict d s) := by
  refine ⟨_, rfl, ?_⟩
  split
  · exact h.verdict fun _ hu => hu.scanChunkVerdict
  · exact h.drifted

theorem execPatrolTick_inForm (e : Nat) : InForm (execPatrolTick e s) := by
  refine ⟨_, rfl, ?_⟩
  split
  · next t _ _ =>
    exact State.formsWf_ite (State.formsWf.patrolStep (s := { s.begin.tick e with
      nextTick := some (t + (s.begin.tick e).cfg.settings.patrolPeriod * 1000) }) h) h
  · exact h

/-! ### Boot events and start-up -/

theorem execHostResetSeen_inForm : InForm (execHostResetSeen s) :=
  ⟨_, rfl, State.formsWf_ite
    (State.formsWf.discardHeld (s := { s.begin with hrstDriven := true, portOpen := false }) h).beginBoot.resettle h⟩

theorem execFlashIdleWaitEnd_inForm (answers : List Byte) : InForm (execFlashIdleWaitEnd answers s) := by
  refine ⟨_, rfl, State.formsWf_ite ?_ h⟩
  extract_lets r s1
  have h1 : s1.formsWf := (h.begin.idleBytes answers 0).send
  exact State.formsWf_ite (State.formsWf.afterIdleWait (s := { s1 with phase := .running }) h1) h1

/-! ### Every command -/

/-- Every command answers a next state, and keeps the flash's contents and the tables canonical. -/
theorem exec_inForm (c : Instr) : InForm (exec c s) := by
  have hb : s.begin.formsWf := h
  have hstore {f : State → State} (hf : ∀ u : State, u.formsWf → (f u).formsWf) : InForm (.next (s.storeStep f)) :=
    ⟨_, rfl, h.storeStep hf⟩
  cases c with
  | read tx len d => exact ⟨_, rfl, State.formsWf_ite h.drifted.readRuns h⟩
  | statusRead tx answers => exact execStatusRead_inForm h tx answers
  | program tx => exact ⟨_, rfl, State.formsWf_ite (hb.takeWrite fun _ hu => hu.idleProgram) h⟩
  | eraseSector tx e cut => exact ⟨_, rfl, State.formsWf_ite (h.tick.takeWrite fun _ hu => hu.idleEraseSector) h⟩
  | eraseLarge tx e cut => exact ⟨_, rfl, State.formsWf_ite (h.tick.takeWrite fun _ hu => hu.idleEraseLarge) h⟩
  | eraseChip tx => exact ⟨_, rfl, State.formsWf_ite (hb.takeWrite fun _ hu => hu.refuseWrite) h⟩
  | writeEnable tx | writeDisable tx | pass tx answers => exact ⟨_, rfl, State.formsWf_ite hb.send.setLatch h⟩
  | block tx len => exact ⟨_, rfl, State.formsWf_ite h h⟩
  | transactionDropped tx => exact ⟨_, rfl, h⟩
  | activate | confirm | abandon | discard | clearStaging | setSlotCode | logFree | ackAlert | reload | keyWrite
  | keyRevoke | targetWrite | configWrite | lock | factoryClear => exact ⟨_, rfl, h.requestRow rfl⟩
  | requestNotCarried image =>
    exact ⟨_, rfl, State.formsWf_ite (State.formsWf.judgeRecord (s := { s.begin with echo := false }) h) h⟩
  | programEnd b => exact execProgramEnd_inForm h b
  | eraseEnd b => exact execEraseEnd_inForm h b
  | statusPoll answers => exact ⟨_, rfl, State.formsWf_ite (hb.pollBytes answers 0).send h⟩
  | pendingWriteDisable cut => exact ⟨_, rfl, State.formsWf_ite (State.formsWf_ite hb.send hb.send.setLatch) h⟩
  | guardRelease e => exact ⟨_, rfl, h.tick.releaseGuard⟩
  | heldEraseForward e cut => exact execHeldEraseForward_inForm h e cut
  | verifyRead n d => exact ⟨_, rfl, h.drifted.verifyRead⟩
  | admissionVerdict d => exact execAdmissionVerdict_inForm h d
  | reloadVerdict d => exact execReloadVerdict_inForm h d
  | chunkVerdict d => exact execChunkVerdict_inForm h d
  | patrolTick e => exact execPatrolTick_inForm h e
  | patrolVerdict d => exact execPatrolVerdict_inForm h d
  | hostResetSeen => exact execHostResetSeen_inForm h
  | bootScanManifestVerdict d => exact execBootScanManifestVerdict_inForm h d
  | bootScanChunkVerdict d => exact execBootScanChunkVerdict_inForm h d
  | hrstRelease e => exact ⟨_, rfl, State.formsWf_ite h h⟩
  | recordWriteBegin => exact hstore fun _ hu => hu.updStore
  | recordWriteEnd => exact hstore fun _ hu => hu.recordWritten
  | rowWriteBegin => exact hstore fun _ hu => hu.updStore
  | rowWriteEnd => exact hstore fun _ hu => hu.rowWritten
  | compactionStart => exact hstore fun _ hu => hu.startCompaction
  | snapshotRecordWrite => exact hstore fun _ hu => hu.writeSnapshot
  | halfEraseEnd half => exact hstore fun _ hu => hu.updStore
  | powerOn b => exact ⟨_, rfl, h.partReset⟩
  | resetInAssert b => exact ⟨_, rfl, State.formsWf_ite h h.partReset⟩
  | startup => exact ⟨_, rfl, State.formsWf_ite h h⟩
  | flashIdleWaitEnd answers => exact execFlashIdleWaitEnd_inForm h answers
  | powerLoss b => exact ⟨_, rfl, h.partReset (b := b)⟩
  | hrstNSeenHigh => exact ⟨_, rfl, State.formsWf_ite h h⟩

end

/-- Settles O7: a step is the front command's, and every command keeps the forms. -/
theorem formsKept : Obligations.FormsKept := by
  intro s hs t' ht'
  unfold step at ht'
  split at ht'
  · cases ht'
    exact hs
  · next c rest _ =>
    obtain ⟨t, ht, hforms⟩ := exec_inForm (s := { s with pending := rest }) hs c
    cases ht.symm.trans ht'
    exact hforms

end Sys2Proof.Machine
end
